-- ==== Sys2Proof/Word.lean ====
section
/-!
DEFINITION. The word types and their plainest arithmetic.
-/
namespace Sys2Proof

/-- One byte. -/
abbrev Byte := BitVec 8
/-- One 32-bit word: a register, an instruction word, a literal (R85, R100). -/
abbrev W32 := BitVec 32
/-- One 64-bit word: a Tender register, an address, a clock. -/
abbrev W64 := BitVec 64

end Sys2Proof
end

