-- ==== Sys2Proof/Config.lean ====
section
/-!
DEFINITION. What the spec leaves open (free values, without a body: nothing can compute them) and what the device fixes.
-/

namespace Sys2Proof.Config

/-- Which of the candidate copies of a line an `LD` returns when the read cache holds the line (R255, log entry 22):
applied to the free-value counter. -/
opaque readCachePick : Nat → Bool

/-- The scale code of a blocked format whose scale format has no positive finite value (R126 names none, log entry 21). -/
opaque scaleOfNone : Nat → Nat

/-- The code delivered when the bounded search of Elementary.lean ends undecided; the Lantern stage decides every entry
(R162), the model's search is cut at its last precision (log entry 23). Applied to the destination width. -/
opaque undecidedCode : Nat → Nat

/-- The part's public identity key, 1,312 bytes, the first the least significant (R462, `MIDPK`, log entry 24). -/
opaque identityKey : BitVec 10496

/-- The Edaifin public key that images are verified under, 1,312 bytes, the first the least significant (R461, log entry 133). -/
opaque edaifinKey : BitVec 10496

/-- Byte k of the ML-DSA-44 signature that the key pair with a public key makes of a digest (R461, R462, log entry 24). -/
opaque signatureByte : BitVec 10496 → BitVec 256 → Nat → BitVec 8

/-- Whether ML-DSA-44 accepts another signature of a digest under a public key (R462, log entry 24). -/
opaque acceptsToo : BitVec 10496 → BitVec 256 → List (BitVec 8) → Bool

/-- The usable memory in GB when channels of some stacks are fenced (R433, R464 `FNMEM`), applied to the mask of stacks. -/
opaque usableMemory : Nat → Nat

/-- What a byte beyond the 576 GB of device memory reads as (R3, log entry 122), applied to its physical address. -/
opaque absentByte : Nat → BitVec 8

/-- A value that the spec leaves open at one step, applied to the free-value counter of the state. -/
opaque freeWord : Nat → BitVec 64

end Sys2Proof.Config
end

