-- ==== Sys2Proof/Machine/Numbers.lean ====
section
/-!
DEFINITION. Numbers and rounding (spec/05_numbers.md): exact values, element formats, decoding and RoundTo, NaNs, flags,
narrow formats, blocks and companding. Every result is an exact value rounded once (R127).
-/

namespace Sys2Proof.Machine

/-! ## Exact rationals -/

/-- An exact rational number, kept in lowest terms with a positive denominator by `Q.mk`. -/
structure Q where
  num : Int
  den : Nat
deriving DecidableEq, Repr

/-- `n / d` in lowest terms; `d` is not 0 where it is used. -/
def Q.norm (n : Int) (d : Nat) : Q :=
  let g := Nat.gcd n.natAbs d
  if g ≤ 1 then ⟨n, d⟩ else ⟨n / (g : Int), d / g⟩

def Q.ofInt (n : Int) : Q := ⟨n, 1⟩
/-- 2^e for any integer e. -/
def Q.pow2 (e : Int) : Q := if e ≥ 0 then ⟨((2 ^ e.toNat : Nat) : Int), 1⟩ else ⟨1, 2 ^ (-e).toNat⟩
def Q.neg (a : Q) : Q := ⟨-a.num, a.den⟩
def Q.add (a b : Q) : Q := if a.den = b.den then Q.norm (a.num + b.num) a.den else Q.norm (a.num * b.den + b.num * a.den) (a.den * b.den)
def Q.sub (a b : Q) : Q := a.add b.neg
def Q.mul (a b : Q) : Q := Q.norm (a.num * b.num) (a.den * b.den)
/-- `a / b` for b not 0. -/
def Q.div (a b : Q) : Q :=
  if b.num < 0 then Q.norm (-(a.num * b.den)) (a.den * b.num.natAbs) else Q.norm (a.num * b.den) (a.den * b.num.natAbs)
def Q.abs (a : Q) : Q := ⟨(a.num.natAbs : Int), a.den⟩
def Q.isZero (a : Q) : Bool := a.num == 0
def Q.isNeg (a : Q) : Bool := decide (a.num < 0)
def Q.lt (a b : Q) : Bool := decide (a.num * b.den < b.num * a.den)
def Q.le (a b : Q) : Bool := decide (a.num * b.den ≤ b.num * a.den)
def Q.eq (a b : Q) : Bool := decide (a.num * b.den = b.num * a.den)
def Q.floor (a : Q) : Int := a.num / (a.den : Int)
def Q.ceil (a : Q) : Int := -((-a.num) / (a.den : Int))
/-- Truncation towards zero. -/
def Q.trunc (a : Q) : Int := if a.num < 0 then a.ceil else a.floor
/-- `a * 2^e`. -/
def Q.scale2 (a : Q) (e : Int) : Q := a.mul (Q.pow2 e)
/-- floor(log2 |a|) for a not 0. -/
def Q.log2 (a : Q) : Int :=
  let n := a.num.natAbs
  let g : Int := (Nat.log2 n : Int) - (Nat.log2 a.den : Int)
  -- the true value is g or g - 1
  if (Q.pow2 g).le ⟨n, a.den⟩ then g else g - 1
def Q.zero : Q := ⟨0, 1⟩
def Q.one : Q := ⟨1, 1⟩

/-! ## Values -/

/-- A decoded operand. A NaN keeps its sign, whether it is signalling, and its fraction bits `frac` out of `fbits`;
the finite value of `fin` is not 0. -/
inductive FVal where
  | nan (neg sig : Bool) (frac fbits : Nat)
  | inf (neg : Bool)
  | zero (neg : Bool)
  | fin (q : Q)
deriving DecidableEq, Repr

def FVal.isNan : FVal → Bool
  | .nan .. => true | _ => false
def FVal.isSig : FVal → Bool
  | .nan _ s _ _ => s | _ => false
def FVal.isInf : FVal → Bool
  | .inf _ => true | _ => false
def FVal.isZero : FVal → Bool
  | .zero _ => true | _ => false
def FVal.isFinite : FVal → Bool
  | .zero _ => true | .fin _ => true | _ => false
/-- The sign bit. -/
def FVal.sign : FVal → Bool
  | .nan n .. => n | .inf n => n | .zero n => n | .fin q => q.isNeg
/-- The real value of a finite operand (0 for the others). -/
def FVal.q : FVal → Q
  | .fin q => q | _ => Q.zero
/-- A finite value, an exact zero with the sign `neg`. -/
def FVal.ofQ (neg : Bool) (q : Q) : FVal := if q.isZero then .zero neg else .fin q
def FVal.setSign (neg : Bool) : FVal → FVal
  | .nan _ s f b => .nan neg s f b
  | .inf _ => .inf neg
  | .zero _ => .zero neg
  | .fin q => .fin (if neg then q.abs.neg else q.abs)
def FVal.negate (v : FVal) : FVal := v.setSign (!v.sign)
/-- The canonical quiet NaN (R131): quiet bit alone, which every destination keeps as its canonical NaN. -/
def FVal.cnan : FVal := .nan false false 1 1

/-! ## Flags (R104, R134) -/

abbrev FlagSet := BitVec 8
def fNV : FlagSet := 1
def fDZ : FlagSet := 2
def fOF : FlagSet := 4
def fUF : FlagSet := 8
def fNX : FlagSet := 16
def fNS : FlagSet := 32
def fAS : FlagSet := 64
def fEB : FlagSet := 128

/-- The rounding modes of R101 and R127. -/
inductive Rnd where
  | rne | rna | rtz | rup | rdn | dith
deriving DecidableEq, Repr

/-- The mode of a rounding code; codes 6 and 7 are refused where they are read (R103). -/
def Rnd.ofCode (n : Nat) : Rnd :=
  match n with
  | 0 => .rne | 1 => .rna | 2 => .rtz | 3 => .rup | 4 => .rdn | _ => .dith

/-! ## Formats -/

/-- A narrow format read from its descriptor (R118), with the companding points of its table, empty when `CMP` is 0. -/
structure NFmt where
  sgn : Bool
  e : Nat
  m : Nat
  bias : Int
  pol : Nat
  blk : Nat
  scl : Nat
  cmp : Nat
  outl : Nat
  curve : List (Q × Q)
deriving DecidableEq, Repr

/-- An element format: a plain integer, a binary format (exponent bits, fraction bits), or a narrow one. -/
inductive Fmt where
  | int (signed : Bool) (w : Nat)
  | bin (ebits fbits : Nat)
  | nar (n : NFmt)
deriving DecidableEq, Repr

def Fmt.f16 : Fmt := .bin 5 10
def Fmt.bf16 : Fmt := .bin 8 7
def Fmt.f32 : Fmt := .bin 8 23
def Fmt.f64 : Fmt := .bin 11 52
def NFmt.width (n : NFmt) : Nat := (if n.sgn then 1 else 0) + n.e + n.m
def Fmt.width : Fmt → Nat
  | .int _ w => w
  | .bin e f => 1 + e + f
  | .nar n => n.width

/-- The bits of an NFD (R118). -/
def NFmt.ofBits (d : W32) (curve : List (Q × Q)) : NFmt :=
  { sgn := d.getLsbD 31, e := (d.extractLsb' 28 3).toNat, m := (d.extractLsb' 25 3).toNat,
    bias := (d.extractLsb' 17 8).toInt, pol := (d.extractLsb' 15 2).toNat,
    blk := (match (d.extractLsb' 13 2).toNat with | 0 => 0 | 1 => 16 | 2 => 32 | _ => 64),
    scl := (d.extractLsb' 9 4).toNat, cmp := (d.extractLsb' 5 4).toNat, outl := (d.extractLsb' 1 4).toNat,
    curve := curve }

/-- Exponent of the value of one unit of the code at exponent field 0: the least exponent of a normal value. -/
def NFmt.emin (n : NFmt) : Int := 1 - n.bias

/-- The largest magnitude code of a finite value (R120), for e ≥ 1; for e = 0 the largest integer. -/
def NFmt.maxIdx (n : NFmt) : Nat :=
  if n.e = 0 then 2 ^ n.m - 1
  else match n.pol with
    | 0 => (2 ^ n.e - 1) * 2 ^ n.m - 1
    | 1 => 2 ^ (n.e + n.m) - 2
    | _ => 2 ^ (n.e + n.m) - 1

/-- The magnitude of code index `i` (exponent and mantissa bits together) in a format with `f` fraction bits whose
least normal exponent is `emin`. -/
def magOf (f : Nat) (emin : Int) (i : Nat) : Q :=
  let m := i % 2 ^ f
  let ex := i / 2 ^ f
  if ex = 0 then (Q.ofInt m).scale2 (emin - f)
  else (Q.ofInt ((m + 2 ^ f : Nat) : Int)).scale2 (emin - f + ((ex : Int) - 1))

/-- The largest finite magnitude M of a narrow format. -/
def NFmt.maxQ (n : NFmt) : Q :=
  if n.e = 0 then (Q.ofInt n.maxIdx).scale2 (-n.bias) else magOf n.m n.emin n.maxIdx

/-- Decoding a narrow code without companding (R119, R120). The NaN of policy 1 is a quiet NaN (log entry 20). -/
def NFmt.decodePlain (n : NFmt) (code : Nat) : FVal :=
  let c := code % 2 ^ n.width
  let mag := c % 2 ^ (n.e + n.m)
  let neg := n.sgn && decide (c ≥ 2 ^ (n.e + n.m))
  if n.e = 0 then
    if neg && n.pol == 1 && mag == 0 then .nan true false 0 n.m
    else
      let i : Int := if neg then (mag : Int) - 2 ^ n.m else mag
      FVal.ofQ false ((Q.ofInt i).scale2 (-n.bias))
  else
    let ex := mag / 2 ^ n.m
    let m := mag % 2 ^ n.m
    if n.pol == 0 && ex == 2 ^ n.e - 1 then
      if m == 0 then .inf neg else .nan neg (decide (m < 2 ^ (n.m - 1))) m n.m
    else if n.pol == 1 && mag == 2 ^ (n.e + n.m) - 1 then .nan neg false m n.m
    else
      let q := magOf n.m n.emin mag
      FVal.ofQ neg (if neg then q.neg else q)

/-! ## Companding (R125) -/

/-- C on the segments after the point (x0, y0); beyond the last point the last segment continues. -/
def curveUp : Q → Q → List (Q × Q) → Q → Q
  | _, _, [], t => t
  | x0, y0, [(x1, y1)], t => y0.add (((t.sub x0).mul (y1.sub y0)).div (x1.sub x0))
  | x0, y0, (x1, y1) :: p :: rest, t =>
    if t.le x1 then y0.add (((t.sub x0).mul (y1.sub y0)).div (x1.sub x0)) else curveUp x1 y1 (p :: rest) t

/-- The curve C at t ≥ 0; the identity when there is no table. -/
def curveC (c : List (Q × Q)) (t : Q) : Q := if c.isEmpty then t else curveUp Q.zero Q.zero c t
/-- The inverse of C. -/
def curveInv (c : List (Q × Q)) (t : Q) : Q := curveC (c.map fun p => (p.2, p.1)) t

/-- Applies `f` to the magnitude of a finite value. -/
def FVal.mapMag (f : Q → Q) : FVal → FVal
  | .fin q => FVal.ofQ q.isNeg (if q.isNeg then (f q.abs).neg else f q)
  | v => v

/-- Decoding of a narrow code with its table, exactly (R126). -/
def NFmt.decode (n : NFmt) (code : Nat) : FVal := (n.decodePlain code).mapMag (curveInv n.curve)

/-- Decoding a binary code (R116). -/
def binDecode (eb fb : Nat) (code : Nat) : FVal :=
  let c := code % 2 ^ (1 + eb + fb)
  let neg := decide (c ≥ 2 ^ (eb + fb))
  let mag := c % 2 ^ (eb + fb)
  let ex := mag / 2 ^ fb
  let m := mag % 2 ^ fb
  if ex == 2 ^ eb - 1 then
    if m == 0 then .inf neg else .nan neg (decide (m < 2 ^ (fb - 1))) m fb
  else
    let q := magOf fb (2 - 2 ^ (eb - 1)) mag
    FVal.ofQ neg (if neg then q.neg else q)

/-- Decoding an element code: R113, R116, R119. A code's bits above the width are ignored (R114). -/
def Fmt.decode (f : Fmt) (code : Nat) : FVal :=
  match f with
  | .int sg w =>
    let c := code % 2 ^ w
    FVal.ofQ false (Q.ofInt (if sg && decide (c ≥ 2 ^ (w - 1)) then (c : Int) - 2 ^ w else c))
  | .bin e fb => binDecode e fb code
  | .nar n => n.decode code

/-! ## Rounding (R127 to R131) -/

/-- The dither table D (R128): the bit reversal of a 5-bit index. -/
def ditherD (i : Nat) : Nat :=
  let i := i % 32
  16 * (i % 2) + 8 * (i / 2 % 2) + 4 * (i / 4 % 2) + 2 * (i / 8 % 2) + i / 16 % 2

/-- The spacing grid of a format: `f` fraction bits above the exponent `emin`, or a single spacing 2^(emin) when `fixed`. -/
structure Grid where
  f : Nat
  emin : Int
  fixed : Bool
deriving DecidableEq, Repr

/-- The exponent that sets the spacing at magnitude `a` (not 0). -/
def Grid.expAt (g : Grid) (bounded : Bool) (a : Q) : Int :=
  if g.fixed then g.emin else if bounded then max a.log2 g.emin else a.log2

/-- Rounds x (not 0) to the grid with the exponent range unbounded above, and also below when `bounded` is false.
Answers the rounded value. `even` says that a tie under RNA goes to the even code (narrow formats). -/
def Grid.round (g : Grid) (bounded : Bool) (rnaEven : Bool) (mode : Rnd) (dth : Nat) (x : Q) : Q :=
  let a := x.abs
  let ex := g.expAt bounded a
  let ulp := Q.pow2 (ex - (if g.fixed then 0 else g.f))
  let t := a.div ulp
  let lo := t.floor
  if (Q.ofInt lo).eq t then x
  else
    let fr := t.sub (Q.ofInt lo)
    let half : Q := ⟨1, 2⟩
    -- the least significant bit of the code of lo
    let code : Int := if g.fixed then lo else (ex - g.emin) * 2 ^ g.f + lo
    let nearEven := if fr.lt half then false else if half.lt fr then true else decide (code % 2 = 1)
    let up : Bool := match mode with
      | .rne => nearEven
      | .rna => if rnaEven then nearEven else half.le fr
      | .rtz => false
      | .rup => !x.isNeg
      | .rdn => x.isNeg
      | .dith =>
        let th : Q := ⟨2 * (ditherD dth : Int) + 1, 64⟩
        -- f is measured from the lower neighbour of x itself
        if x.isNeg then !(th.le (Q.one.sub fr)) else th.le fr
    let y := (Q.ofInt (if up then lo + 1 else lo)).mul ulp
    if x.isNeg then y.neg else y

/-- What an overflow delivers: the infinity (true) or the largest finite value, by mode and sign (R127 step 4). -/
def overflowToInf (mode : Rnd) (neg : Bool) : Bool :=
  match mode with
  | .rne => true | .rna => true | .dith => true
  | .rtz => false
  | .rup => !neg
  | .rdn => neg

/-- The fraction bits of a NaN moved into a destination with `fd` of them, its quiet bit set (R131). -/
def nanFrac (frac fs fd : Nat) : Nat :=
  let t := if fs ≥ fd then frac / 2 ^ (fs - fd) else frac * 2 ^ (fd - fs)
  if fd = 0 then 0 else t % 2 ^ (fd - 1) + 2 ^ (fd - 1)

/-- A result: its code in the destination's width, and the flags it raises. -/
structure Rounded where
  code : Nat
  flags : FlagSet
deriving DecidableEq, Repr

/-- The magnitude index of a representable magnitude `a` in a floating grid. -/
def magIdx (f : Nat) (emin : Int) (a : Q) : Nat :=
  if a.isZero then 0 else
  let ex := max a.log2 emin
  let n := (a.div (Q.pow2 (ex - f))).floor
  ((ex - emin) * 2 ^ f + n).toNat

/-- Where a saturation or an out-of-range value of R127 and R140 differ: at long-accumulator round-out `AS` replaces the
flags `NS`, `NV` and, but for binary32 and binary64, `OF` (R140). -/
inductive RoundAt where
  | plain | roundOut
deriving DecidableEq, Repr

/-- RoundTo into a plain integer type (R113, R127, R129, R140). -/
def roundInt (at_ : RoundAt) (sg : Bool) (w : Nat) (mode : Rnd) (dth : Nat) (v : FVal) : Rounded :=
  let lo : Int := if sg then -(2 ^ (w - 1)) else 0
  let hi : Int := if sg then 2 ^ (w - 1) - 1 else 2 ^ w - 1
  let enc (i : Int) : Nat := (i % 2 ^ w).toNat
  let bad : FlagSet := (match at_ with | .plain => fNV | .roundOut => fAS) ||| fNX
  match v with
  | .nan .. => ⟨0, fNV⟩
  | .inf neg => ⟨enc (if neg then lo else hi), bad⟩
  | .zero _ => ⟨0, 0⟩
  | .fin x =>
    if !sg && x.isNeg then ⟨0, bad⟩
    else
      let y := (Grid.round ⟨0, 0, true⟩ true false mode dth x)
      let i := y.floor
      let beyond := decide (i < lo) || decide (i > hi)
        || (at_ == .roundOut && ((Q.ofInt hi).lt x || x.lt (Q.ofInt lo)))
      if beyond then ⟨enc (if x.isNeg then lo else hi), bad⟩
      else ⟨enc i, if y.eq x then 0 else fNX⟩

/-- RoundTo into a binary format (R116, R127, R131, R140). -/
def roundBin (at_ : RoundAt) (eb fb : Nat) (mode : Rnd) (dth : Nat) (v : FVal) : Rounded :=
  let emin : Int := 2 - 2 ^ (eb - 1)
  let sbit (neg : Bool) : Nat := if neg then 2 ^ (eb + fb) else 0
  let infIdx := (2 ^ eb - 1) * 2 ^ fb
  let maxQ := magOf fb emin (infIdx - 1)
  match v with
  | .nan neg sig fr fs =>
    -- the canonical NaN arises with sign 0 and the quiet bit alone
    ⟨sbit neg + infIdx + nanFrac fr fs fb, if sig then fNV else 0⟩
  | .inf neg => ⟨sbit neg + infIdx, 0⟩
  | .zero neg => ⟨sbit neg, 0⟩
  | .fin x =>
    let g : Grid := ⟨fb, emin, false⟩
    let y := g.round true false mode dth x
    let sat := at_ == .roundOut && decide (eb + fb < 31)
    if sat && maxQ.lt x.abs then ⟨sbit x.isNeg + (infIdx - 1), fAS ||| fNX⟩
    else if maxQ.lt y.abs then
      ⟨sbit x.isNeg + (if overflowToInf mode x.isNeg then infIdx else infIdx - 1), fOF ||| fNX⟩
    else
      let nx := !(y.eq x)
      let uf := nx && (g.round false false mode dth x).abs.lt (Q.pow2 emin)
      ⟨sbit x.isNeg + magIdx fb emin y.abs, (if nx then fNX else 0) ||| (if uf then fUF else 0)⟩

/-- RoundTo into a narrow format, after scaling and companding (R120, R126, R127, R129, R131, R140). -/
def roundNar (at_ : RoundAt) (n : NFmt) (mode : Rnd) (dth : Nat) (v : FVal) : Rounded :=
  let sbit (neg : Bool) : Nat := if neg && n.sgn then 2 ^ (n.e + n.m) else 0
  let infIdx := (2 ^ n.e - 1) * 2 ^ n.m
  let satF : FlagSet := (match at_ with | .plain => fNS | .roundOut => fAS) ||| fNX
  -- the largest finite value is that of R122, of either sign: for e = 0 its negative code is that of −(2^m − 1) (log entry 13)
  let largest (neg : Bool) : Nat :=
    if n.e = 0 then (if neg && n.sgn then 2 ^ n.m + 1 else n.maxIdx) else sbit neg + n.maxIdx
  match v with
  | .nan neg sig fr fs =>
    let nv : FlagSet := if sig then fNV else 0
    match n.pol with
    | 0 => ⟨sbit neg + infIdx + nanFrac fr fs n.m, nv⟩
    | 1 => if n.e = 0 then ⟨2 ^ n.m, nv⟩ else ⟨sbit neg + (2 ^ (n.e + n.m) - 1), nv⟩
    | _ => ⟨0, fNV⟩
  | .inf neg =>
    if neg && !n.sgn then ⟨0, satF⟩
    else if n.pol == 0 then ⟨sbit neg + infIdx, 0⟩
    else ⟨largest neg, satF⟩
  | .zero neg => ⟨if n.e = 0 then 0 else sbit neg, 0⟩
  | .fin x =>
    let neg := x.isNeg
    if neg && !n.sgn then ⟨0, satF⟩
    else
      let g : Grid := if n.e = 0 then ⟨0, -n.bias, true⟩ else ⟨n.m, n.emin, false⟩
      let y := g.round true true mode dth x
      if at_ == .roundOut && n.maxQ.lt x.abs then ⟨largest neg, satF⟩
      else if n.maxQ.lt y.abs then
        if n.pol == 0 then
          ⟨sbit neg + (if overflowToInf mode neg then infIdx else infIdx - 1), fOF ||| fNX⟩
        else ⟨largest neg, satF⟩
      else
        let nx := !(y.eq x)
        let uf := nx && n.e != 0 && (g.round false true mode dth x).abs.lt (Q.pow2 n.emin)
        let fl : FlagSet := (if nx then fNX else 0) ||| (if uf then fUF else 0)
        if n.e = 0 then
          let i := (y.div (Q.pow2 (-n.bias))).floor
          ⟨(i % 2 ^ n.width).toNat, fl⟩
        else ⟨sbit neg + magIdx n.m n.emin y.abs, fl⟩

/-- RoundTo(fmt, mode, x) of R127, with dither index `dth` = i + φ; a companded narrow format applies its curve to the
magnitude first (R126). -/
def roundAt (at_ : RoundAt) (f : Fmt) (mode : Rnd) (dth : Nat) (v : FVal) : Rounded :=
  match f with
  | .int sg w => roundInt at_ sg w mode dth v
  | .bin e fb => roundBin at_ e fb mode dth v
  | .nar n => roundNar at_ n mode dth (v.mapMag (curveC n.curve))

def roundTo (f : Fmt) (mode : Rnd) (dth : Nat) (v : FVal) : Rounded := roundAt .plain f mode dth v
/-- Round-out of R140. -/
def roundOut (f : Fmt) (mode : Rnd) (dth : Nat) (v : FVal) : Rounded := roundAt .roundOut f mode dth v

/-- The canonical NaN result of an invalid case (R131), with `NV`. -/
def invalidNan (f : Fmt) (mode : Rnd) : Rounded :=
  let r := roundTo f mode 0 .cnan
  ⟨r.code, r.flags ||| fNV⟩

/-- NaNPick (R131): the first NaN operand rounded into the destination; `NV` for any signalling operand. -/
def nanPick (f : Fmt) (ops : List FVal) : Rounded :=
  let r := roundTo f .rne 0 ((ops.find? FVal.isNan).getD .cnan)
  ⟨r.code, if ops.any FVal.isSig then r.flags ||| fNV else r.flags⟩

/-! ## The rounding test of an escalatable word (R157) -/

/-- Whether a lane of an escalatable word is parked at its rounding test: never, where a table fixes its result; as the approximation of the part
turns out, where an allowed interval around the exact value holds a point of R157's list; always, where the exact value is such a point. -/
inductive ParkNeed where
  | never | may | must
deriving DecidableEq, Repr

/-- The precision p of R157 of a destination. -/
def Fmt.precision : Fmt → Nat
  | .int _ w => w
  | .bin _ fb => fb + 1
  | .nar n => if n.e = 0 then n.width else n.m + 1

/-- The grid of a destination's values, and its largest finite magnitude (for a plain integer type, that of its wider end). -/
def Fmt.grid : Fmt → Grid
  | .int _ _ => ⟨0, 0, true⟩
  | .bin eb fb => ⟨fb, 2 - 2 ^ (eb - 1), false⟩
  | .nar n => if n.e = 0 then ⟨0, -n.bias, true⟩ else ⟨n.m, n.emin, false⟩
def Fmt.largest : Fmt → Q
  | .int sg w => Q.ofInt (2 ^ (if sg then w - 1 else w))
  | .bin eb fb => magOf fb (2 - 2 ^ (eb - 1)) ((2 ^ eb - 1) * 2 ^ fb - 1)
  | .nar n => n.maxQ

/-- Whether some k + c, k an integer, lies in [lo, hi]. -/
def holdsPoint (c lo hi : Q) : Bool := ((Q.ofInt (lo.sub c).ceil).add c).le hi

/-- Whether the closed interval [lo, hi] of positive magnitudes holds a representable value, a midpoint in RNE and RNA, a dither threshold, the
least normal magnitude or the overflow threshold of a mode, which are points of the grid up to one step beyond the largest finite value. -/
def holdsSpecial (f : Fmt) (mode : Rnd) (dth : Nat) (neg : Bool) (lo hi : Q) : Bool :=
  let g := f.grid
  let ulp (a : Q) : Q := Q.pow2 (g.expAt true a - (if g.fixed then 0 else g.f))
  if (f.largest.add (ulp f.largest)).lt lo then false
  else
    let u := ulp lo
    let a := lo.div u
    let b := hi.div u
    holdsPoint Q.zero a b || match mode with
      | .rne | .rna => holdsPoint ⟨1, 2⟩ a b
      | .dith => let d : Int := 2 * ditherD dth + 1
                 holdsPoint ⟨if neg then 64 - d else d, 64⟩ a b
      | _ => false

/-- Whether an interval decides the rounding of every value in it (R157, R339): it holds none of the values that R157 lists for the format and mode, of
the values divided by a block's scale and companded; nor 0. -/
def intervalDecided (s : Q) (f : Fmt) (m : Rnd) (dth : Nat) (i : Q × Q) : Bool :=
  if i.1.num ≤ 0 ∧ 0 ≤ i.2.num then false
  else
    let neg := i.1.isNeg
    let c (q : Q) : Q := match f with | .nar n => curveC n.curve (q.abs.div s) | _ => q.abs.div s
    !holdsSpecial f m dth neg (c (if neg then i.2 else i.1)) (c (if neg then i.1 else i.2))
/-- Whether an exact value is itself a point of that list, which no interval around it decides. -/
def onPoint (s : Q) (f : Fmt) (m : Rnd) (dth : Nat) (q : Q) : Bool := !q.isZero && !intervalDecided s f m dth (q, q)

/-- How far an interval of R157 around an exact magnitude reaches beyond it, at most: 2ε, with ε = 2^(−p − 10) × |y′|. -/
def intervalReach (p : Nat) (m : Q) : Q :=
  let e := Q.pow2 (-(p : Int) - 9)
  (e.div (Q.one.sub (e.mul ⟨1, 2⟩))).mul m

/-- The rounding test's outcomes for an exact value in [lo, hi], with the p of R157. A companded format is tested on its curve. -/
def parkNeedAt (p : Nat) (f : Fmt) (mode : Rnd) (dth : Nat) (lo hi : Q) : ParkNeed :=
  if lo.num ≤ 0 && 0 ≤ hi.num then .may
  else
    let neg := lo.isNeg
    let m0 := if neg then hi.abs else lo
    let m1 := if neg then lo.abs else hi
    let c (q : Q) : Q := match f with | .nar n => curveC n.curve q | _ => q
    if holdsSpecial f mode dth neg (c (m0.sub (intervalReach p m0))) (c (m1.add (intervalReach p m1))) then
      if m0.eq m1 && holdsSpecial f mode dth neg (c m0) (c m0) then .must else .may
    else .never
/-- The outcomes for a word that is no exact sum, with p the precision of its destination. -/
def parkNeed (f : Fmt) (mode : Rnd) (dth : Nat) (lo hi : Q) : ParkNeed := parkNeedAt f.precision f mode dth lo hi
/-- The outcomes for an exact result: zeros, infinities and NaNs are fixed (R221). -/
def FVal.parkNeed (f : Fmt) (mode : Rnd) (dth : Nat) : FVal → ParkNeed
  | .fin q => Machine.parkNeed f mode dth q q
  | _ => .never

/-! ## Writing an element into a lane (R114) -/

/-- The element bits of a lane or pair: the low w bits. Writing copies bit w − 1 upwards for s8 and s16, zeros otherwise. -/
def Fmt.lane (f : Fmt) (code : Nat) : W32 :=
  match f with
  | .int true 8 => (BitVec.ofNat 8 code).signExtend 32
  | .int true 16 => (BitVec.ofNat 16 code).signExtend 32
  | _ => BitVec.ofNat 32 (code % 2 ^ f.width)

/-! ## Exact arithmetic on values (R131, R132) -/

/-- An exact operation's outcome before rounding, with the flags of its invalid case. -/
structure Exact where
  v : FVal
  flags : FlagSet
deriving DecidableEq, Repr

def Exact.bad : Exact := ⟨.cnan, fNV⟩

/-- Product of non-NaN operands. -/
def mulE (a b : FVal) : Exact :=
  let s := a.sign != b.sign
  if (a.isInf && b.isZero) || (a.isZero && b.isInf) then Exact.bad
  else if a.isInf || b.isInf then ⟨.inf s, 0⟩
  else ⟨FVal.ofQ s (a.q.mul b.q), 0⟩

/-- Sum of two non-NaN operands; an exact zero follows R132. -/
def addE (mode : Rnd) (a b : FVal) : Exact :=
  match a, b with
  | .inf x, .inf y => if x == y then ⟨.inf x, 0⟩ else Exact.bad
  | .inf x, _ => ⟨.inf x, 0⟩
  | _, .inf y => ⟨.inf y, 0⟩
  | .zero x, .zero y => ⟨.zero (if x == y then x else mode == .rdn), 0⟩
  | _, _ => ⟨FVal.ofQ (mode == .rdn) (a.q.add b.q), 0⟩

/-- Quotient of non-NaN operands, with `DZ` of x / 0. -/
def divE (a b : FVal) : Exact :=
  let s := a.sign != b.sign
  match a, b with
  | .inf _, .inf _ => Exact.bad
  | .zero _, .zero _ => Exact.bad
  | .inf _, _ => ⟨.inf s, 0⟩
  | _, .inf _ => ⟨.zero s, 0⟩
  | .zero _, _ => ⟨.zero s, 0⟩
  | _, .zero _ => ⟨.inf s, fDZ⟩
  | _, _ => ⟨FVal.ofQ s (a.q.div b.q), 0⟩

/-- The kind of an exactly zero sum of many terms (R132): all +0, all −0, or mixed. -/
def zeroOfTerms (mode : Rnd) (ts : List FVal) : FVal :=
  if ts.isEmpty then .zero false
  else if ts.all (fun t => t == .zero true) then .zero true
  else if ts.all (fun t => t == .zero false) then .zero false
  else .zero (mode == .rdn)

/-- The exact sum of a list of terms in order (R132, R138): the first NaN wins; infinities of unlike sign give NaN. -/
def sumE (mode : Rnd) (ts : List FVal) : Exact :=
  let rec go (acc : FVal) (fl : FlagSet) : List FVal → Exact
    | [] => ⟨acc, fl⟩
    | t :: rest =>
      match acc, t with
      | .nan .., _ => go acc fl rest
      | _, .nan n sg f b => go (.nan n false f b) (if sg then fl ||| fNV else fl) rest
      | .inf x, .inf y => if x == y then go acc fl rest else go .cnan (fl ||| fNV) rest
      | .inf _, _ => go acc fl rest
      | _, .inf y => go (.inf y) fl rest
      | a, b => go (FVal.ofQ false (a.q.add b.q)) fl rest
  let r := go (.zero false) 0 ts
  match r.v with
  | .zero _ => ⟨zeroOfTerms mode ts, r.flags⟩
  | _ => r

/-! ## Descriptor checks and blocks -/

/-- The points of a companding table's 32 words, x and y in turn (R125). -/
def curvePoints : List W32 → List (Q × Q)
  | x :: y :: rest => ((binDecode 8 23 x.toNat).q, (binDecode 8 23 y.toNat).q) :: curvePoints rest
  | _ => []

/-- Whether 0 < x1 < ... < x16 and the same for y, all finite (R125). -/
def curveRising : Q → List Q → Bool
  | _, [] => true
  | p, x :: rest => p.lt x && curveRising x rest
def curveValid (ws : List W32) : Bool :=
  let ps := curvePoints ws
  ws.all (fun w => (binDecode 8 23 w.toNat).isFinite) && ps.length == 16
    && curveRising Q.zero (ps.map Prod.fst) && curveRising Q.zero (ps.map Prod.snd)

/-- The checks of R121 that look at one descriptor alone. -/
def nfdSelfOk (d : W32) : Bool :=
  let n := NFmt.ofBits d []
  let w := n.width
  decide (0 < w) && decide (w ≤ 8) && !d.getLsbD 0 && n.pol != 3
    && (n.pol != 0 || (decide (2 ≤ n.e) && decide (1 ≤ n.m)))
    && (n.pol != 1 || n.e != 0 || n.sgn)
    && (n.outl == 0 || n.blk != 0)

/-- Whether the descriptor `d` is legal at its first use (R121), with the table of descriptors `nfd` and of companding
tables `tab`. -/
def nfdOk (nfd : Nat → W32) (tab : Nat → List W32) (d : W32) : Bool :=
  let n := NFmt.ofBits d []
  nfdSelfOk d
    && (n.cmp == 0 || curveValid (tab n.cmp))
    && (n.blk == 0 || n.scl == 0 ||
        (let sd := nfd n.scl
         let sn := NFmt.ofBits sd []
         nfdSelfOk sd && !sn.sgn && sn.blk == 0 && sn.cmp == 0 && sn.outl == 0))

/-- The scale format of a block (R123): UE8 is none. -/
abbrev ScaleFmt := Option NFmt

/-- The value of a scale code (R123). -/
def scaleDecode (sf : ScaleFmt) (k : Nat) : FVal :=
  match sf with
  | none => if k % 256 == 255 then .cnan else .fin (Q.pow2 ((k % 256 : Nat) - 127))
  | some n => n.decode k

/-- The scale codes with positive finite values. -/
def scaleCodes (sf : ScaleFmt) : List Nat :=
  let w := match sf with | none => 8 | some n => n.width
  (List.range (2 ^ w)).filter fun k =>
    match scaleDecode sf k with | .fin q => !q.isNeg | _ => false

/-- The least-valued code among `cs` that `ok` accepts. -/
def leastScale (sf : ScaleFmt) (ok : Q → Bool) (cs : List Nat) : Option Nat :=
  cs.foldl (fun best k =>
    let q := (scaleDecode sf k).q
    if ok q then
      match best with
      | none => some k
      | some b => if q.lt (scaleDecode sf b).q then some k else best
    else best) none

/-- The largest-valued code among `cs`. -/
def largestScale (sf : ScaleFmt) (cs : List Nat) : Option Nat :=
  cs.foldl (fun best k =>
    match best with
    | none => some k
    | some b => if (scaleDecode sf b).q.lt (scaleDecode sf k).q then some k else best) none

/-- A quantised block: codes, scale code, outliers (position, bf16), flags. -/
structure QBlock where
  codes : List Nat
  scale : Nat
  outs : List (Nat × Nat)
  flags : FlagSet
deriving DecidableEq, Repr

/-- Inserts a magnitude into a list sorted from the largest down. -/
def insertDown (x : Q) : List Q → List Q
  | [] => [x]
  | y :: r => if y.lt x then x :: y :: r else y :: insertDown x r

/-- Step 1 of the block procedure of R126: the magnitude that rules the scale. -/
def blockRank (n : NFmt) (xs : List FVal) : Q :=
  (((xs.filter FVal.isFinite).foldl (fun l v => insertDown v.q.abs l) [])[n.outl]?).getD Q.zero
/-- Step 2: the scale code for that magnitude, and whether a scale overflow arose. `noScale` is what a scale format with no positive finite value
answers, a free value of Config (log entry 21). -/
def scaleFor (n : NFmt) (sf : ScaleFmt) (noScale : Nat) (a : Q) : Nat × Bool :=
  let cs := scaleCodes sf
  if a.isZero then
    match cs.find? (fun k => (scaleDecode sf k).q.eq Q.one) with
    | some k => (k, false)
    | none => ((leastScale sf (fun _ => true) cs).getD noScale, false)
  else
    match leastScale sf (fun s => (curveC n.curve (a.div s)).le n.maxQ) cs with
    | some k => (k, false)
    | none => ((largestScale sf cs).getD noScale, true)
def blockScale (n : NFmt) (sf : ScaleFmt) (noScale : Nat) (xs : List FVal) : Nat × Bool := scaleFor n sf noScale (blockRank n xs)

/-- The scaled, companded magnitude of step 3. -/
def reachQ (n : NFmt) (s : Q) (x : FVal) : Q := curveC n.curve (x.q.abs.div s)

/-- Steps 3 and 4 of R126 over the elements from position `i`, with `left` outlier records free. A negative value beyond reach that finds none is +0
in a format without a sign, which has no −M (log entry 110). -/
def blockCodes (n : NFmt) (mode : Rnd) (phase : Nat) (s : Q) : Nat → Nat → List FVal → List Nat × List (Nat × Nat) × FlagSet
  | _, _, [] => ([], [], 0)
  | i, left, x :: rest =>
    if x.isFinite && n.maxQ.lt (reachQ n s x) then
      match left with
      | l + 1 =>
        let o := roundTo .bf16 (if mode == .dith then .rne else mode) 0 x
        let r := blockCodes n mode phase s (i + 1) l rest
        (0 :: r.1, (i, o.code) :: r.2.1, o.flags ||| r.2.2)
      | 0 =>
        let c := roundNar .plain { n with curve := [] } .rtz 0
          (if x.sign && !n.sgn then .zero false else FVal.ofQ x.sign (if x.sign then n.maxQ.neg else n.maxQ))
        let r := blockCodes n mode phase s (i + 1) 0 rest
        (c.code :: r.1, r.2.1, fNS ||| fNX ||| r.2.2)
    else
      let c := roundNar .plain n mode (i + phase) ((x.mapMag (fun a => a.div s)).mapMag (curveC n.curve))
      let r := blockCodes n mode phase s (i + 1) left rest
      (c.code :: r.1, r.2.1, c.flags ||| r.2.2)

/-- Quantising one block (R126), dither index i and phase. Where the scale format has no positive finite value and the free scale code decodes to
zero, an infinity or NaN, the codes are formed with s = 1 (log entry 109). -/
def quantBlock (n : NFmt) (sf : ScaleFmt) (noScale : Nat) (mode : Rnd) (phase : Nat) (xs : List FVal) : QBlock :=
  let sc := blockScale n sf noScale xs
  let s := (scaleDecode sf sc.1).q
  let s := if s.isZero then Q.one else s
  let r := blockCodes n mode phase s 0 n.outl xs
  ⟨r.1, sc.1, r.2.1, (if sc.2 then fNS else 0) ||| r.2.2⟩

/-- The outcomes of the rounding tests of a block's elements (R157): a value beyond reach is written as its step fixes it, every other as its scaled,
companded value. -/
def blockNeeds (n : NFmt) (sf : ScaleFmt) (noScale : Nat) (mode : Rnd) (phase : Nat) (xs : List FVal) : List ParkNeed :=
  let s := (scaleDecode sf (blockScale n sf noScale xs).1).q
  let s := if s.isZero then Q.one else s
  xs.mapIdx fun i x =>
    if x.isFinite && n.maxQ.lt (reachQ n s x) then .never else (x.mapMag fun a => a.div s).parkNeed (.nar n) mode (i + phase)

/-- Decoding element `i` of a block (R123, R124, R126): exact, but rounded once to `op` in RNE when companded; a NaN scale gives
the canonical NaN. A zero under an infinite scale, and an infinite code under a zero one, give it too, without `NV` (log entry 111). -/
def blockElem (n : NFmt) (sf : ScaleFmt) (op : Fmt) (scale : Nat) (outs : List (Nat × Nat)) (i code : Nat) : FVal :=
  match scaleDecode sf scale with
  | .nan .. => .cnan
  | sv =>
    match outs.reverse.find? (fun o => o.1 == i) with
    | some o => binDecode 8 7 o.2
    | none =>
      let v := n.decode code
      let p := if v.isNan then v else (mulE v sv).v
      if n.curve.isEmpty then p else op.decode (roundTo op .rne 0 p).code

/-- Bytes of codes of a block record (R124). -/
def NFmt.codeBytes (n : NFmt) : Nat := (n.blk * n.width + 7) / 8
/-- The length of a block record (R124). -/
def NFmt.recBytes (n : NFmt) : Nat := (n.codeBytes + 2 + 3) / 4 * 4 + 4 * n.outl
/-- Where the outlier records of a block record begin. -/
def NFmt.outBase (n : NFmt) : Nat := (n.codeBytes + 2 + 3) / 4 * 4

/-- Element codes packed at bit i·w of a little-endian bit string. -/
def packCodes (w : Nat) : List Nat → Nat
  | [] => 0
  | c :: r => c % 2 ^ w + 2 ^ w * packCodes w r

/-- The bytes of a number, least significant first. -/
def bytesOf (len n : Nat) : List Byte := (List.range len).map fun k => BitVec.ofNat 8 (n / 2 ^ (8 * k))
/-- The number of a little-endian byte list. -/
def natOf : List Byte → Nat
  | [] => 0
  | b :: r => b.toNat + 256 * natOf r

/-- The bytes of a block record (R124). -/
def blockBytes (n : NFmt) (b : QBlock) : List Byte :=
  bytesOf n.codeBytes (packCodes n.width b.codes) ++ [BitVec.ofNat 8 b.scale, BitVec.ofNat 8 b.outs.length]
    ++ List.replicate (n.outBase - n.codeBytes - 2) 0
    ++ (b.outs.flatMap fun o => bytesOf 4 (o.2 * 65536 + o.1)) ++ List.replicate (4 * (n.outl - b.outs.length)) 0

/-- The scale code and the first n outlier records of a block record's bytes; a count above `OUTL` is read as `OUTL`. -/
def blockHead (n : NFmt) (bs : List Byte) : Nat × List (Nat × Nat) :=
  let sc := ((bs[n.codeBytes]?).getD 0).toNat
  let cnt := min n.outl ((bs[n.codeBytes + 1]?).getD 0).toNat
  (sc, (List.range cnt).map fun k =>
    let w := natOf ((bs.drop (n.outBase + 4 * k)).take 4)
    (w % 64, w / 65536))

/-- The decoded elements of a block record. -/
def blockDecode (n : NFmt) (sf : ScaleFmt) (op : Fmt) (bs : List Byte) : List FVal :=
  let h := blockHead n bs
  let cs := natOf (bs.take n.codeBytes)
  (List.range n.blk).map fun i => blockElem n sf op h.1 h.2 i (cs / 2 ^ (i * n.width) % 2 ^ n.width)

end Sys2Proof.Machine
end

