-- ==== Sys2Proof/Machine/Elementary.lean ====
section
/-!
DEFINITION. The exactly rounded elementary functions (R221 to R228): enclosures of the exact real value in rational
intervals, refined until both ends round to one result with one set of flags, which is then RoundTo of the exact value.
-/

namespace Sys2Proof.Machine

/-! ## Integer square root and constants -/

/-- Newton's iteration from above. -/
def isqrtGo (n : Nat) : Nat → Nat → Nat
  | 0, x => x
  | f + 1, x => let y := (x + n / x) / 2; if y < x then isqrtGo n f y else x
/-- floor(sqrt n). -/
def isqrt (n : Nat) : Nat := if n = 0 then 0 else isqrtGo n 80 (2 ^ (Nat.log2 n / 2 + 1))
/-- The square root of a perfect square. -/
def sqrt? (n : Nat) : Option Nat := let r := isqrt n; if r * r = n then some r else none
/-- The exact square root of a rational, when it is rational. -/
def Q.sqrt? (q : Q) : Option Q :=
  match Machine.sqrt? q.num.natAbs, Machine.sqrt? q.den with
  | some a, some b => some ⟨(a : Int), b⟩
  | _, _ => none

/-- Sum of t/k over odd k with t divided by n2 each time: artanh(1/n), alternating for arctan. -/
def invSeries (n2 : Nat) (alt : Bool) : Nat → Nat → Nat → Bool → Int → Int
  | 0, _, _, _, acc => acc
  | f + 1, t, k, pos, acc =>
    if t = 0 then acc
    else invSeries n2 alt f (t / n2) (k + 2) (!pos) (if alt && !pos then acc - (t / k : Nat) else acc + (t / k : Nat))
def artanhInv (n w : Nat) : Int := invSeries (n * n) false w (2 ^ w / n) 1 true 0
def arctanInv (n w : Nat) : Int := invSeries (n * n) true w (2 ^ w / n) 1 true 0
/-- ln 2 × 2^w, within 2. -/
def ln2Fix (w : Nat) : Int := 2 * artanhInv 3 (w + 20) / 1048576
/-- π × 2^w, within 2. -/
def piFix (w : Nat) : Int := 4 * (4 * arctanInv 5 (w + 20) - arctanInv 239 (w + 20)) / 1048576

/-! ## Taylor loops in fixed point of w fraction bits -/

/-- Sum of r^n / n! from the term t at index n. -/
def expGo (r : Int) (w : Nat) : Nat → Nat → Int → Int → Int
  | 0, _, _, acc => acc
  | f + 1, n, t, acc => if t = 0 then acc else expGo r w f (n + 1) ((t * r).tdiv ((n : Int) * 2 ^ w)) (acc + t)
def expFix (r : Int) (w : Nat) : Int := expGo r w w 1 (2 ^ w) 0

/-- Sum of terms t, t·(−r²)/(n(n+1)), ...: sine from t = r, n = 2; cosine from t = 1, n = 1. -/
def trigGo (r2 : Int) (w : Nat) : Nat → Nat → Int → Int → Int
  | 0, _, _, acc => acc
  | f + 1, n, t, acc =>
    if t = 0 then acc else trigGo r2 w f (n + 2) (-((t * r2).tdiv ((n * (n + 1) : Nat) * 2 ^ w))) (acc + t)
def sinFix (r : Int) (w : Nat) : Int := trigGo (r * r / 2 ^ w) w w 2 r 0
def cosFix (r : Int) (w : Nat) : Int := trigGo (r * r / 2 ^ w) w w 1 (2 ^ w) 0

/-- Sum of ±z^k/k over odd k: arctan when alternating, else artanh. -/
def oddGo (z2 : Int) (w : Nat) (alt : Bool) : Nat → Nat → Int → Int → Int
  | 0, _, _, acc => acc
  | f + 1, k, t, acc =>
    if t = 0 then acc
    else oddGo z2 w alt f (k + 2) (let u := (t * z2).tdiv (2 ^ w); if alt then -u else u) (acc + t.tdiv (k : Int))
def oddFix (z : Int) (w : Nat) (alt : Bool) : Int := oddGo (z * z / 2 ^ w) w alt w 1 z 0

/-- Sum of (−1)^n x^(2n+1) / (n! (2n+1)) in fixed point, from the term t = x^(2n+1)/n!. -/
def erfGo (x2 : Int) (w : Nat) : Nat → Nat → Int → Int → Int
  | 0, _, _, acc => acc
  | f + 1, n, t, acc =>
    if t = 0 then acc
    else erfGo x2 w f (n + 1) (-((t * x2).tdiv (((n + 1 : Nat) : Int) * 2 ^ w))) (acc + t.tdiv ((2 * n + 1 : Nat) : Int))

/-! ## Enclosures -/

/-- An interval of rationals; none when nothing is known at this precision. -/
abbrev Encl := Option (Q × Q)

/-- The interval (v ± err) × 2^e. -/
def around (v err : Int) (e : Int) : Q × Q := ((Q.ofInt (v - err)).scale2 e, (Q.ofInt (v + err)).scale2 e)
def fixOf (x : Q) (w : Nat) : Int := (x.scale2 w).floor
def enclNeg (i : Q × Q) : Q × Q := (i.2.neg, i.1.neg)
def enclAdd (a b : Q × Q) : Q × Q := (a.1.add b.1, a.2.add b.2)
def enclShift (a : Q × Q) (c : Q) : Q × Q := (a.1.add c, a.2.add c)
def Q.min (a b : Q) : Q := if b.lt a then b else a
def Q.max (a b : Q) : Q := if a.lt b then b else a
/-- Quotient of intervals, the divisor not around 0. -/
def enclDiv (a b : Q × Q) : Encl :=
  if b.1.isNeg == b.2.isNeg && !b.1.isZero && !b.2.isZero then
    let c1 := a.1.div b.1; let c2 := a.1.div b.2; let c3 := a.2.div b.1; let c4 := a.2.div b.2
    some (((c1.min c2).min c3).min c4, ((c1.max c2).max c3).max c4)
  else none
def enclMul (a b : Q × Q) : Q × Q :=
  let c1 := a.1.mul b.1; let c2 := a.1.mul b.2; let c3 := a.2.mul b.1; let c4 := a.2.mul b.2
  (((c1.min c2).min c3).min c4, ((c1.max c2).max c3).max c4)
/-- An odd function from its enclosure at positive arguments. -/
def oddly (f : Q → Encl) (x : Q) : Encl := if x.isNeg then (f x.abs).map enclNeg else f x

/-- A stand-in for a positive value too small, or too large, for any format to tell apart from others like it. -/
def tinyQ : Q := Q.pow2 (-40000)
def hugeQ : Q := Q.pow2 40000

def enclPi (p : Nat) : Q × Q := around (piFix (p + 8)) 4 (-((p + 8 : Nat) : Int))

/-- e^x, x not 0. -/
def enclExp (x : Q) (p : Nat) : Encl :=
  if x.log2 ≥ 15 then some (if x.isNeg then (tinyQ, tinyQ) else (hugeQ, hugeQ))
  else if x.log2 < -100 then
    let b := Q.one.add x
    some (b, b.add (x.mul x))
  else
    let w := p + 48
    let l := ln2Fix w
    let xf := fixOf x w
    let k := xf / l
    let e := expFix (xf - k * l) w
    some (around e (8 * (w : Int) + 16 * (k.natAbs + 2 : Nat)) (k - w))

/-- e^x − 1. -/
def enclExpm1 (x : Q) (p : Nat) : Encl :=
  if x.log2 < -60 then
    let x2 := x.mul x
    let m := x.add (x2.mul ⟨1, 2⟩)
    let d := (x2.mul x).abs
    some (m.sub d, m.add d)
  else (enclExp x (p + 64)).map fun i => enclShift i (Q.ofInt (-1))

/-- ln x for x > 0, x not 1. -/
def enclLog (x : Q) (p : Nat) : Encl :=
  let k0 := x.log2
  let m0 := x.scale2 (-k0)
  let up := Q.lt ⟨3, 2⟩ m0
  let k := if up then k0 + 1 else k0
  let m := if up then m0.scale2 (-1) else m0
  let z := (m.sub Q.one).div (m.add Q.one)
  let extra : Nat := if k = 0 then (-z.log2).toNat else 0
  let w := p + 48 + extra
  let a := oddFix (fixOf z w) w false
  some (around (k * ln2Fix w + 2 * a) (8 * (w : Int) + 8 * (k.natAbs + 2 : Nat)) (-(w : Int)))

/-- ln(1 + x) for x > −1. -/
def enclLog1p (x : Q) (p : Nat) : Encl :=
  if x.log2 < -60 then
    let x2 := x.mul x
    let m := x.sub (x2.mul ⟨1, 2⟩)
    let d := (x2.mul x).abs
    some (m.sub d, m.add d)
  else enclLog (Q.one.add x) p

def enclLn2 (p : Nat) : Q × Q := around (ln2Fix (p + 8)) 4 (-((p + 8 : Nat) : Int))
def enclLog2 (x : Q) (p : Nat) : Encl := (enclLog x (p + 8)).bind fun i => enclDiv i (enclLn2 (p + 64))

/-- 2^t for a rational interval point t: e^(t ln 2) with the integer part kept exact. -/
def enclPow2 (t : Q × Q) (p : Nat) : Encl :=
  if Q.le (Q.ofInt 40000) t.1 then some (hugeQ, hugeQ)
  else if Q.le t.2 (Q.ofInt (-40000)) then some (tinyQ, tinyQ)
  else
    let k := (t.1.add ⟨1, 2⟩).floor
    let f := enclMul (enclShift t (Q.ofInt (-k))) (enclLn2 (p + 48))
    let lo := if f.1.isZero then some (Q.one, Q.one) else enclExp f.1 (p + 16)
    let hi := if f.2.isZero then some (Q.one, Q.one) else enclExp f.2 (p + 16)
    match lo, hi with
    | some a, some b => some (a.1.scale2 k, b.2.scale2 k)
    | _, _ => none

/-- Reduction of x ≥ 0 by π/2: quadrant, remainder in fixed point of w bits, and its error. -/
def trigReduce (x : Q) (p : Nat) : Nat × Int × Int × Nat :=
  let big : Nat := if x.isZero then 0 else x.log2.toNat
  let w := p + 48 + big
  let h := piFix (w + big + 8)
  -- π/2 in w + big + 9 fraction bits
  let w2 := w + big + 9
  let xf := fixOf x w2
  let k := (2 * xf + h) / (2 * h)
  let r := (xf - k * h) / 2 ^ (w2 - w)
  ((k % 4).toNat, r, 8, w)

/-- The enclosures of (sin x, cos x) for x > 0. -/
def enclSinCos (x : Q) (p : Nat) : (Q × Q) × (Q × Q) :=
  if x.log2 < -60 then
    let x2 := x.mul x
    let x3 := x2.mul x
    let s := x.sub (x3.mul ⟨1, 6⟩)
    let c := Q.one.sub (x2.mul ⟨1, 2⟩)
    ((s, s.add (x3.mul x2)), (c, c.add (x2.mul x2)))
  else
    let (q, r, er, w) := trigReduce x p
    let err := 8 * (w : Int) + er
    let s := around (sinFix r w) err (-(w : Int))
    let c := around (cosFix r w) err (-(w : Int))
    match q with
    | 0 => (s, c)
    | 1 => (c, enclNeg s)
    | 2 => (enclNeg s, enclNeg c)
    | _ => (enclNeg c, s)
def enclSin (x : Q) (p : Nat) : Encl := oddly (fun a => some (enclSinCos a p).1) x
def enclCos (x : Q) (p : Nat) : Encl := some (enclSinCos x.abs p).2
def enclTan (x : Q) (p : Nat) : Encl :=
  oddly (fun a =>
    if a.log2 < -60 then
      let x2 := a.mul a
      let x3 := x2.mul a
      let t := a.add (x3.mul ⟨1, 3⟩)
      some (t, t.add (x3.mul x2))
    else let sc := enclSinCos a (p + 16); enclDiv sc.1 sc.2) x

/-- atan x for 0 < x ≤ 1. -/
def enclAtanUnit (x : Q) (p : Nat) : Encl :=
  if x.log2 < -60 then
    let x2 := x.mul x
    let x3 := x2.mul x
    let t := x.sub (x3.mul ⟨1, 3⟩)
    some (t, t.add (x3.mul x2))
  else
    let w := p + 48 + (-x.log2).toNat
    if x.le ⟨1, 4⟩ then some (around (oddFix (fixOf x w) w true) (8 * (w : Int)) (-(w : Int)))
    else
      let z := (x.sub ⟨1, 2⟩).div (Q.one.add (x.mul ⟨1, 2⟩))
      let half := arctanInv 2 (w + 20) / 1048576
      some (around (half + oddFix (fixOf z w) w true) (8 * (w : Int)) (-(w : Int)))
def enclAtan (x : Q) (p : Nat) : Encl :=
  oddly (fun a =>
    if a.le Q.one then enclAtanUnit a p
    else
      let h := enclPi (p + 16)
      (enclAtanUnit (Q.one.div a) (p + 16)).map fun i => ((h.1.mul ⟨1, 2⟩).sub i.2, (h.2.mul ⟨1, 2⟩).sub i.1)) x

/-- atan2 of finite non-zero y and x (R223). -/
def enclAtan2 (y x : Q) (p : Nat) : Encl :=
  oddly (fun b =>
    let t := enclAtan (b.div x.abs) (p + 16)
    if x.isNeg then
      let h := enclPi (p + 24)
      t.map fun i => (h.1.sub i.2, h.2.sub i.1)
    else t) y

def enclTanh (x : Q) (p : Nat) : Encl :=
  oddly (fun a =>
    if a.log2 ≥ 13 then let v := Q.one.sub tinyQ; some (v, v)
    else if a.log2 < -60 then
      let x2 := a.mul a
      let x3 := x2.mul a
      let t := a.sub (x3.mul ⟨1, 3⟩)
      some (t, t.add (x3.mul x2))
    else (enclExpm1 (a.scale2 1) (p + 16)).bind fun e =>
      -- t/(t+2) rises with t
      some (e.1.div (e.1.add (Q.ofInt 2)), e.2.div (e.2.add (Q.ofInt 2)))) x

def enclErf (x : Q) (p : Nat) : Encl :=
  oddly (fun a =>
    if Q.le (Q.ofInt 14) a then let v := Q.one.sub tinyQ; some (v, v)
    else
      let w := p + 400 + (-a.log2).toNat
      -- 2/√π = 2 · 2^w / sqrt(π · 2^2w / 2^w ...)
      let rootPi := isqrt ((piFix (2 * w)).toNat)
      let c := around (2 ^ (2 * w + 1) / (rootPi : Int)) 16 (-(w : Int))
      let ser : Q × Q :=
        if a.log2 < -60 then
          let x2 := a.mul a
          let t := a.sub ((x2.mul a).mul ⟨1, 3⟩)
          (t, t.add ((x2.mul x2).mul a))
        else
          let xf := fixOf a w
          around (erfGo (xf * xf / 2 ^ w) w (4 * w) 0 xf 0) (2 ^ 320) (-(w : Int))
      some (enclMul c ser)) x

/-- √q for q > 0 that is no rational square. -/
def enclSqrt (q : Q) (p : Nat) : Encl :=
  let e := q.log2 / 2
  let w : Int := (p : Int) + 8 - e
  let n := (q.scale2 (2 * w)).floor.toNat
  let r : Int := isqrt n
  some ((Q.ofInt r).scale2 (-w), (Q.ofInt (r + 1)).scale2 (-w))

/-- |x|^y by 2^(y log2 x), for x > 0 not 1. -/
def enclPow (x y : Q) (p : Nat) : Encl :=
  let extra : Nat := (max y.log2 0).toNat + (max (-y.log2) 0).toNat
  if extra > 2200 then none
  else (enclLog2 x (p + 32 + extra)).bind fun l => enclPow2 (enclMul l (y, y)) p

/-! ## Deciding -/

/-- Refines an enclosure until both ends give one result and one set of flags (R157, R162), with twice the precision each time, and from `last`
doublings on with what no operand reaches (log entry 23). -/
def decideAt (f : Fmt) (mode : Rnd) (dth : Nat) (enc : Nat → Encl) : Nat → Nat → Rounded
  | 0, _ => ⟨Config.undecidedCode f.width % 2 ^ f.width, fNX⟩
  | last + 1, p =>
    match enc p with
    | none => decideAt f mode dth enc last (2 * p)
    | some (lo, hi) =>
      let a := roundTo f mode dth (FVal.ofQ false lo)
      let b := roundTo f mode dth (FVal.ofQ false hi)
      if a = b then a else decideAt f mode dth enc last (2 * p)

/-- The doublings of the precision, from 64 bits to 2^36. -/
def doublings : Nat := 30

/-- The exact result of an operation before it is rounded: one that a table fixes with its flags, a rational, or the real number that enclosures
give. -/
inductive Exactly where
  | fixed (r : Rounded)
  | rat (q : Q)
  | real (enc : Nat → Encl)

/-- RoundTo of the exact result. -/
def Exactly.round (f : Fmt) (mode : Rnd) (dth : Nat) : Exactly → Rounded
  | .fixed r => r
  | .rat q => roundTo f mode dth (.fin q)
  | .real enc => decideAt f mode dth enc doublings 64

/-- The outcomes of its rounding test (R157, R221). -/
def Exactly.need (f : Fmt) (mode : Rnd) (dth : Nat) : Exactly → ParkNeed
  | .fixed _ => .never
  | .rat q => parkNeed f mode dth q q
  | .real enc => match enc 256 with
    | some (lo, hi) => parkNeed f mode dth lo hi
    | none => .may

/-- √q, exact when q is a rational square. -/
def sqrtExactly (q : Q) : Exactly :=
  match q.sqrt? with
  | some r => .rat r
  | none => .real (enclSqrt q)

/-- RoundTo(√q). -/
def roundSqrt (f : Fmt) (mode : Rnd) (dth : Nat) (q : Q) : Rounded := (sqrtExactly q).round f mode dth

/-! ## The functions of R222 to R226 on decoded operands -/

/-- The elementary words' functions (R222). -/
inductive Elem where
  | rcp | rsq | exp | exp2 | expm1 | log | log2 | log1p | sin | cos | tan | atan | tanh | erf
deriving DecidableEq, Repr

def isPow2 (n : Nat) : Bool := n != 0 && 2 ^ Nat.log2 n == n
/-- k with q = 2^k. -/
def Q.exactLog2 (q : Q) : Option Int :=
  if !q.isNeg && isPow2 q.num.natAbs && isPow2 q.den then some q.log2 else none

/-- A rational multiple of π. -/
def piExactly (c : Q) : Exactly := .real fun p => let h := enclPi p; some (enclMul h (c, c))

/-- A fixed case with `DZ`: an infinity from a finite operand (R134). -/
def withDZ (r : Rounded) : Rounded := ⟨r.code, r.flags ||| fDZ⟩

/-- The one-operand elementary functions (R222). A fixed result that the format does not hold goes through RoundTo with its flags (log
entry 115). -/
def exactly1 (f : Fmt) (mode : Rnd) (dth : Nat) (e : Elem) (a : FVal) : Exactly :=
  let ex (v : FVal) : Exactly := .fixed (roundTo f mode dth v)
  let dz (v : FVal) : Exactly := .fixed (withDZ (roundTo f mode dth v))
  let bad : Exactly := .fixed (invalidNan f mode)
  let one := FVal.fin Q.one
  let mone := FVal.fin Q.one.neg
  match a with
  | .nan .. => .fixed (nanPick f [a])
  | .inf neg =>
    match e with
    | .rcp => ex (.zero neg)
    | .rsq => if neg then bad else ex (.zero false)
    | .exp | .exp2 => ex (if neg then .zero false else .inf false)
    | .expm1 => ex (if neg then mone else .inf false)
    | .log | .log2 | .log1p => if neg then bad else ex (.inf false)
    | .sin | .cos | .tan => bad
    | .atan => .fixed ((piExactly (if neg then ⟨-1, 2⟩ else ⟨1, 2⟩)).round f mode dth)
    | .tanh | .erf => ex (if neg then mone else one)
  | .zero neg =>
    match e with
    | .rcp | .rsq => dz (.inf neg)
    | .exp | .exp2 | .cos => ex one
    | .log | .log2 => dz (.inf true)
    | .expm1 | .log1p | .sin | .tan | .atan | .tanh | .erf => ex (.zero neg)
  | .fin q =>
    match e with
    | .rcp => if q.abs.exactLog2.isSome && (roundTo f mode dth (.fin (Q.one.div q))).flags == 0 then ex (.fin (Q.one.div q)) else .rat (Q.one.div q)
    | .rsq =>
      if q.isNeg then bad
      else match q.exactLog2 with
        | some k => if k % 2 = 0 then ex (.fin (Q.pow2 (-(k / 2)))) else sqrtExactly (Q.one.div q)
        | none => sqrtExactly (Q.one.div q)
    | .exp => .real (enclExp q)
    | .exp2 =>
      if q.den = 1 then ex (.fin (if q.num > 40000 then hugeQ else if q.num < -40000 then tinyQ else Q.pow2 q.num))
      else .real fun p => enclPow2 (q, q) p
    | .expm1 => .real (enclExpm1 q)
    | .log => if q.isNeg then bad else if q.eq Q.one then ex (.zero false) else .real (enclLog q)
    | .log2 =>
      if q.isNeg then bad
      else match q.exactLog2 with
        | some k => ex (FVal.ofQ false (Q.ofInt k))
        | none => .real (enclLog2 q)
    | .log1p =>
      if q.eq Q.one.neg then dz (.inf true)
      else if q.lt Q.one.neg then bad
      else .real (enclLog1p q)
    | .sin => .real (enclSin q)
    | .cos => .real (enclCos q)
    | .tan => .real (enclTan q)
    | .atan => .real (enclAtan q)
    | .tanh => .real (enclTanh q)
    | .erf => .real (enclErf q)
def elem1 (f : Fmt) (mode : Rnd) (dth : Nat) (e : Elem) (a : FVal) : Rounded := (exactly1 f mode dth e a).round f mode dth

/-- atan2 (R223). -/
def exactlyAtan2 (f : Fmt) (mode : Rnd) (dth : Nat) (y x : FVal) : Exactly :=
  let pi (c : Q) : Exactly := .fixed ((piExactly (if y.sign then c.neg else c)).round f mode dth)
  match y, x with
  | .nan .., _ => .fixed (nanPick f [y, x])
  | _, .nan .. => .fixed (nanPick f [y, x])
  | .zero _, x => if x.sign then pi Q.one else .fixed (roundTo f mode dth y)
  | .inf _, .inf n => pi (if n then ⟨3, 4⟩ else ⟨1, 4⟩)
  | .inf _, _ => pi ⟨1, 2⟩
  | .fin _, .inf n => if n then pi Q.one else .fixed (roundTo f mode dth (.zero y.sign))
  | .fin _, .zero _ => pi ⟨1, 2⟩
  | .fin a, .fin b => .real (enclAtan2 a b)
def elemAtan2 (f : Fmt) (mode : Rnd) (dth : Nat) (y x : FVal) : Rounded := (exactlyAtan2 f mode dth y x).round f mode dth

/-- Exact square roots taken while the exponent's denominator and the base allow. -/
def powHalve : Nat → Q → Int → Nat → Q × Int × Nat
  | 0, x, n, d => (x, n, d)
  | fuel + 1, x, n, d =>
    if d = 1 then (x, n, d)
    else match x.sqrt? with
      | some r => powHalve fuel r n (d / 2)
      | none => (x, n, d)

def Q.powNat (x : Q) : Nat → Q
  | 0 => Q.one
  | n + 1 => x.mul (x.powNat n)

/-- x^y for finite x > 0 and finite y not 0, negated when `neg`; an exact result is found as such. -/
def powExactly (neg : Bool) (x y : Q) : Exactly :=
  let sg (q : Q) : Q := if neg then q.neg else q
  let enclosed (enc : Nat → Encl) : Exactly := .real fun p => (enc p).map fun i => if neg then enclNeg i else i
  if x.eq Q.one then .rat (sg Q.one) else
  let (b, n, d) := powHalve 1100 x y.num y.den
  if d = 1 && n.natAbs ≤ 64 then
    let r := b.powNat n.natAbs
    .rat (sg (if n < 0 then Q.one.div r else r))
  else
    match b.exactLog2 with
    | some k =>
      let t := Q.norm (k * n) d
      if t.den = 1 then .rat (sg (if t.num > 40000 then hugeQ else if t.num < -40000 then tinyQ else Q.pow2 t.num))
      else enclosed fun p => enclPow2 (t, t) p
    | none => enclosed fun p => enclPow x y p

/-- Whether a value is an integer, and an odd one. -/
def Q.isInt (q : Q) : Bool := q.den == 1
def Q.isOdd (q : Q) : Bool := q.den == 1 && q.num % 2 == 1

/-- VFPOW (R224). The rows of 1 raise no flag but `NV` (log entry 115). -/
def exactlyPow (f : Fmt) (mode : Rnd) (dth : Nat) (x y : FVal) : Exactly :=
  let ex (v : FVal) : Exactly := .fixed (roundTo f mode dth v)
  let dz (v : FVal) : Exactly := .fixed (withDZ (roundTo f mode dth v))
  let one := FVal.fin Q.one
  let sig : FlagSet := if x.isSig || y.isSig then fNV else 0
  let yOdd := match y with | .fin q => q.isOdd | _ => false
  let yNeg := y.sign
  if y.isZero || x == one then .fixed ⟨(roundTo f mode dth one).code, sig⟩
  else match x, y with
    | .nan .., _ => .fixed (nanPick f [x, y])
    | _, .nan .. => .fixed (nanPick f [x, y])
    | .zero _, .inf true => ex (.inf false)
    | .zero n, _ => if yNeg then dz (.inf (if yOdd then n else false)) else ex (.zero (if yOdd then n else false))
    | .inf false, _ => ex (if yNeg then .zero false else .inf false)
    | .inf true, .inf n => ex (if n then .zero false else .inf false)
    | .inf true, _ => ex (if yNeg then .zero yOdd else .inf yOdd)
    | .fin q, .inf n =>
      if q.eq Q.one.neg then .fixed ⟨(roundTo f mode dth one).code, 0⟩
      else if q.abs.lt Q.one then ex (if n then .inf false else .zero false)
      else ex (if n then .zero false else .inf false)
    | .fin q, .fin r =>
      if q.isNeg && !r.isInt then .fixed (invalidNan f mode)
      else powExactly (q.isNeg && r.isOdd) q.abs r
    | .fin _, .zero _ => ex one
def elemPow (f : Fmt) (mode : Rnd) (dth : Nat) (x y : FVal) : Rounded := (exactlyPow f mode dth x y).round f mode dth

/-- VFHYP (R225). -/
def exactlyHyp (f : Fmt) (mode : Rnd) (dth : Nat) (x y : FVal) : Exactly :=
  if x.isInf || y.isInf then
    let r := roundTo f mode dth (.inf false)
    .fixed ⟨r.code, if x.isSig || y.isSig then r.flags ||| fNV else r.flags⟩
  else if x.isNan || y.isNan then .fixed (nanPick f [x, y])
  else
    let s := (x.q.mul x.q).add (y.q.mul y.q)
    if s.isZero then .fixed (roundTo f mode dth (.zero false)) else sqrtExactly s
def elemHyp (f : Fmt) (mode : Rnd) (dth : Nat) (x y : FVal) : Rounded := (exactlyHyp f mode dth x y).round f mode dth

/-- VFSMX: e^(a − b) (R226). -/
def exactlySmx (f : Fmt) (mode : Rnd) (dth : Nat) (a b : FVal) : Exactly :=
  let ex (v : FVal) : Exactly := .fixed (roundTo f mode dth v)
  match a, b with
  | .nan .., _ => .fixed (nanPick f [a, b])
  | _, .nan .. => .fixed (nanPick f [a, b])
  | .inf x, .inf y => if x == y then .fixed (invalidNan f mode) else ex (if x then .zero false else .inf false)
  | .inf x, _ => ex (if x then .zero false else .inf false)
  | _, .inf y => ex (if y then .inf false else .zero false)
  | a, b =>
    let d := a.q.sub b.q
    if d.isZero then ex (.fin Q.one) else .real (enclExp d)
def elemSmx (f : Fmt) (mode : Rnd) (dth : Nat) (a b : FVal) : Rounded := (exactlySmx f mode dth a b).round f mode dth

/-- The two roundings of cos θ and sin θ to binary32 in RNE (R228); `neg` is the sign of a zero θ. -/
def rotCS (theta : Q) (neg : Bool) : FVal × FVal :=
  if theta.isZero then (.fin Q.one, .zero neg)
  else (Fmt.f32.decode ((Exactly.real (enclCos theta)).round .f32 .rne 0).code, Fmt.f32.decode ((Exactly.real (enclSin theta)).round .f32 .rne 0).code)

/-- A sum of two products as R212 does products and sums, rounded once (R228). -/
def dot2 (f : Fmt) (mode : Rnd) (dth : Nat) (a b c d : FVal) : Rounded :=
  let p := mulE a b
  let q := mulE c d
  if p.v.isNan || q.v.isNan then invalidNan f mode
  else
    let s := addE mode p.v q.v
    let r := roundTo f mode dth s.v
    ⟨r.code, r.flags ||| s.flags⟩

/-- One pair of VFROT (R228): components, position, ω, and the dither index of lane 2k. -/
def rotPair (f : Fmt) (mode : Rnd) (lane : Nat) (x y : FVal) (pos : Nat) (w : FVal) : Rounded × Rounded :=
  if w.isNan || w.isInf then
    let r := nanPick f [x, y, w]
    let r := if w.isInf then ⟨r.code, r.flags ||| fNV⟩ else r
    (r, r)
  else if x.isNan || y.isNan then
    -- R212 on the products and the sums: NaNPick in operand order, and `NV` for an ∞ against a zero c or s
    let (c, s) := rotCS ((Q.ofInt pos).mul w.q) w.sign
    let badMul (a b : FVal) : FlagSet := if !a.isNan && (mulE a b).v.isNan then fNV else 0
    let r := nanPick f [x, y]
    (⟨r.code, r.flags ||| badMul x c ||| badMul y s⟩, ⟨r.code, r.flags ||| badMul x s ||| badMul y c⟩)
  else
    let (c, s) := rotCS ((Q.ofInt pos).mul w.q) w.sign
    (dot2 f mode lane x c y.negate s, dot2 f mode (lane + 1) x s y c)

/-- The outcomes of the rounding tests of a pair of VFROT. -/
def rotNeed (f : Fmt) (mode : Rnd) (lane : Nat) (x y : FVal) (pos : Nat) (w : FVal) : ParkNeed × ParkNeed :=
  if w.isNan || w.isInf || x.isNan || y.isNan then (.never, .never)
  else
    let (c, s) := rotCS ((Q.ofInt pos).mul w.q) w.sign
    let sum (a b c d : FVal) : FVal := (addE mode (mulE a b).v (mulE c d).v).v
    let bad (a b c d : FVal) : Bool := (mulE a b).v.isNan || (mulE c d).v.isNan
    ((if bad x c y s then .never else (sum x c y.negate s).parkNeed f mode lane),
     (if bad x s y c then .never else (sum x s y c).parkNeed f mode (lane + 1)))

end Sys2Proof.Machine
end

