-- ==== Sys2Proof/Machine/Flags.lean ====
section
/-!
DEFINITION. The flag computations of the scalar words: SF after SCMP, SCMPN, SADDC and SSUBB (R104, R190, R191) and the conditions tested
on it (R96).
-/

namespace Sys2Proof.Machine

/-- SF from its four flags (R104): V, C, N, Z. -/
def sfWord (v c n z : Bool) : W32 :=
  BitVec.ofNat 32 ((if v then 8 else 0) + (if c then 4 else 0) + (if n then 2 else 0) + (if z then 1 else 0))

def sfZ (sf : W32) : Bool := sf.getLsbD 0
def sfN (sf : W32) : Bool := sf.getLsbD 1
def sfC (sf : W32) : Bool := sf.getLsbD 2
def sfV (sf : W32) : Bool := sf.getLsbD 3

/-- Cond(cond, SF) (R96); code 15 is illegal and never tested. -/
def condHolds (c : Nat) (sf : W32) : Bool :=
  match c with
  | 0 => sfZ sf
  | 1 => !sfZ sf
  | 2 => sfN sf != sfV sf
  | 3 => sfN sf == sfV sf
  | 4 => sfZ sf || (sfN sf != sfV sf)
  | 5 => !sfZ sf && (sfN sf == sfV sf)
  | 6 => !sfC sf
  | 7 => sfC sf
  | 8 => !sfC sf || sfZ sf
  | 9 => sfC sf && !sfZ sf
  | 10 => sfN sf
  | 11 => !sfN sf
  | 12 => sfV sf
  | 13 => !sfV sf
  | 14 => true
  | _ => false

/-- The signed reading of a w-bit number. -/
def signedOf (w a : Nat) : Int := if a < 2 ^ (w - 1) then a else (a : Int) - 2 ^ w
/-- Whether an integer lies outside the signed w-bit range. -/
def overflows (w : Nat) (r : Int) : Bool := decide (r < -(2 ^ (w - 1))) || decide (2 ^ (w - 1) ≤ r)
/-- Reduction modulo 2^w. -/
def wrapInt (w : Nat) (r : Int) : Nat := (r % 2 ^ w).toNat

/-- SF of SCMP (R190). -/
def scmpFlags (w a b : Nat) : W32 :=
  let d := wrapInt w ((a : Int) - b)
  sfWord (overflows w (signedOf w a - signedOf w b)) (decide (b ≤ a)) (d / 2 ^ (w - 1) % 2 == 1) (d == 0)
/-- SF of SCMPN (R190). -/
def scmpnFlags (a b : Nat) : W32 := sfWord false (decide (b ≤ a)) (decide (a < b)) (a == b)

/-- The result and SF of SADDC (R191). -/
def saddcResult (w a b c : Nat) : Nat × W32 :=
  let r := a + b + c
  let x := r % 2 ^ w
  (x, sfWord (overflows w (signedOf w a + signedOf w b + c)) (decide (2 ^ w ≤ r)) (x / 2 ^ (w - 1) % 2 == 1) (x == 0))
/-- The result and SF of SSUBB (R191). -/
def ssubbResult (w a b c : Nat) : Nat × W32 :=
  let r : Int := (a : Int) - b - (1 - (c : Int))
  let x := wrapInt w r
  (x, sfWord (overflows w (signedOf w a - signedOf w b - (1 - (c : Int)))) (decide (0 ≤ r)) (x / 2 ^ (w - 1) % 2 == 1) (x == 0))

end Sys2Proof.Machine
end

