-- ==== Sys2Proof/Syntax.lean ====
section
/-! DEFINITION. The instructions: one constructor for each row of spec/opcode_table.json, words of the three streams (R95, R97, R98)
and events of the device alike. Fields have the widths of R91, R94, R291 and R322; the operands of an event say which unit acts. -/

namespace Sys2Proof

inductive Instr where
  /-- `NOP` (R175): Does nothing and retires as one word of the logical clock. -/
  | nop
  /-- `STOP` (R176): Waits until the group's counters are 0 and no register is locked, then the group exits. -/
  | stop
  /-- `BR` (R169): Unconditional branch by a signed 20-bit word offset. -/
  | br (off : BitVec 20)
  /-- `BRC` (R169): Branches when the condition tested on SF holds. -/
  | brc (cond : BitVec 4) (off : BitVec 20)
  /-- `PBR` (R170): Branches on an any, all or none test of a predicate over the enabled lanes. -/
  | pbr (p : BitVec 4) (test : BitVec 2) (off : BitVec 18)
  /-- `CALL` (R169): Writes the next word to s383 and branches. -/
  | call (off : BitVec 20)
  /-- `RET` (R169): Branches to the code index held in s383. -/
  | ret
  /-- `JMPR` (R169): Branches to the code index held in s[sa]. -/
  | jmpr (sa : BitVec 9)
  /-- `LOOPS` (R172): Pushes a hardware loop entry for the body up to the end offset, or skips the body when the count is 0. -/
  | loops (sc : BitVec 9) (last : BitVec 15)
  /-- `YIELD` (R175): Changes no state and resets the ready count of the group's next pass. -/
  | yield
  /-- `SETM` (R179): Writes one MODE field from an immediate. -/
  | setm (field : BitVec 4) (value : BitVec 5)
  /-- `SETM_REG` (R179): Writes one MODE field from bits [4:0] of an s register. -/
  | setmReg (field : BitVec 4) (src : BitVec 9)
  /-- `SETMR` (R180): Writes all of MODE from s[sa]. -/
  | setmr (sa : BitVec 9)
  /-- `GETM` (R180): Copies MODE into s[sd]. -/
  | getm (sd : BitVec 9)
  /-- `RDSR` (R181): Reads a special register into s[sd]. -/
  | rdsr (sd num : BitVec 9)
  /-- `WRSR` (R181): Writes s[sd] into a special register for the next word issued. -/
  | wrsr (sd num : BitVec 9)
  /-- `TRAP` (R177): Waits for counters, releases at system scope, and calls the host through the host-call ring. -/
  | trap (imm : BitVec 24)
  /-- `HOST_CALL_RECORD` (R414): A host-call or fault record is written into the ring once it has room, HCWR advances and the host-call interrupt is sent. -/
  | hostCallRecord
  /-- `BKPT` (R178): Stops the group before its next word and reports a breakpoint to the host. -/
  | bkpt (imm : BitVec 24)
  /-- `ERET` (R185): Releases the selected stopped target group at its resume index and ends the selection. -/
  | eret
  /-- `XSEL` (R182): Selects a target group of the served gang for supervisor access. -/
  | xsel (sa : BitVec 9)
  /-- `XRV` (R183): Copies a vector register of the stopped target into the supervisor group. -/
  | xrv (own target : BitVec 8)
  /-- `XWV` (R183): Copies a supervisor vector register into the stopped target. -/
  | xwv (own target : BitVec 8)
  /-- `XRS` (R184): Reads an s, p, predicate-stack or special register of the target into s[sd]. -/
  | xrs (sd idx : BitVec 9) (space : BitVec 3)
  /-- `XWS` (R184): Writes s[sd] into an s, p, predicate-stack or special register of the target. -/
  | xws (sd idx : BitVec 9) (space : BitVec 3)
  /-- `SADD` (R187): Scalar add modulo 2^w. -/
  | sadd (sd sa : BitVec 9) (pair : Bool)
  /-- `SSUB` (R187): Scalar subtract modulo 2^w. -/
  | ssub (sd sa : BitVec 9) (pair : Bool)
  /-- `SMUL` (R187): Scalar multiply, low w bits. -/
  | smul (sd sa : BitVec 9) (pair : Bool)
  /-- `SMULH` (R187): Scalar signed multiply, high w bits. -/
  | smulh (sd sa : BitVec 9) (pair : Bool)
  /-- `SMULHN` (R187): Scalar unsigned multiply, high w bits. -/
  | smulhn (sd sa : BitVec 9) (pair : Bool)
  /-- `SDIV` (R188): Scalar signed division in the divider, truncating. -/
  | sdiv (sd sa : BitVec 9) (pair : Bool)
  /-- `SDIVN` (R188): Scalar unsigned division in the divider. -/
  | sdivn (sd sa : BitVec 9) (pair : Bool)
  /-- `SREM` (R188): Scalar signed remainder in the divider. -/
  | srem (sd sa : BitVec 9) (pair : Bool)
  /-- `SREMN` (R188): Scalar unsigned remainder in the divider. -/
  | sremn (sd sa : BitVec 9) (pair : Bool)
  /-- `SAND` (R187): Scalar bitwise AND. -/
  | sand (sd sa : BitVec 9) (pair : Bool)
  /-- `SOR` (R187): Scalar bitwise OR. -/
  | sor (sd sa : BitVec 9) (pair : Bool)
  /-- `SXOR` (R187): Scalar bitwise XOR. -/
  | sxor (sd sa : BitVec 9) (pair : Bool)
  /-- `SSHL` (R187): Scalar shift left by the whole unsigned count. -/
  | sshl (sd sa : BitVec 9) (pair : Bool)
  /-- `SSHR` (R187): Scalar logical shift right. -/
  | sshr (sd sa : BitVec 9) (pair : Bool)
  /-- `SSAR` (R187): Scalar arithmetic shift right. -/
  | ssar (sd sa : BitVec 9) (pair : Bool)
  /-- `SMIN` (R187): Scalar signed minimum. -/
  | smin (sd sa : BitVec 9) (pair : Bool)
  /-- `SMAX` (R187): Scalar signed maximum. -/
  | smax (sd sa : BitVec 9) (pair : Bool)
  /-- `SMINN` (R187): Scalar unsigned minimum. -/
  | sminn (sd sa : BitVec 9) (pair : Bool)
  /-- `SMAXN` (R187): Scalar unsigned maximum. -/
  | smaxn (sd sa : BitVec 9) (pair : Bool)
  /-- `SMOV` (R189): Scalar move. -/
  | smov (sd sa : BitVec 9) (pair : Bool)
  /-- `SNOT` (R189): Scalar bitwise NOT. -/
  | snot (sd sa : BitVec 9) (pair : Bool)
  /-- `SNEG` (R189): Scalar negation modulo 2^w. -/
  | sneg (sd sa : BitVec 9) (pair : Bool)
  /-- `SCLZ` (R189): Scalar count of leading zeros. -/
  | sclz (sd sa : BitVec 9) (pair : Bool)
  /-- `SPOPC` (R189): Scalar population count. -/
  | spopc (sd sa : BitVec 9) (pair : Bool)
  /-- `SCMP` (R190): Compares two scalars and writes SF from the difference. -/
  | scmp (sd sa : BitVec 9) (pair : Bool)
  /-- `SCMPN` (R190): Compares two scalars unsigned and writes SF. -/
  | scmpn (sd sa : BitVec 9) (pair : Bool)
  /-- `SADDI` (R193): Adds a signed 15-bit immediate to s[sd]. -/
  | saddi (sd : BitVec 9) (imm : BitVec 15)
  /-- `SMOVI` (R193): Writes a sign-extended 15-bit immediate to s[sd]. -/
  | smovi (sd : BitVec 9) (imm : BitVec 15)
  /-- `SLIT` (R193): Writes the following literal word to s[sd]. -/
  | slit (sd : BitVec 9)
  /-- `SADDC` (R191): Adds with carry from SF and writes sd and SF. -/
  | saddc (sd sa : BitVec 9) (pair : Bool)
  /-- `SSUBB` (R191): Subtracts with borrow from SF and writes sd and SF. -/
  | ssubb (sd sa : BitVec 9) (pair : Bool)
  /-- `SSEL` (R192): Copies sa to sd when the SF condition holds. -/
  | ssel (sd sa : BitVec 9) (pair : Bool) (cond : BitVec 4)
  /-- `PAND` (R194): Predicate AND. -/
  | pand (pd pa pb : BitVec 4)
  /-- `POR` (R194): Predicate OR. -/
  | por (pd pa pb : BitVec 4)
  /-- `PXOR` (R194): Predicate XOR. -/
  | pxor (pd pa pb : BitVec 4)
  /-- `PNOT` (R194): Predicate NOT. -/
  | pnot (pd pa : BitVec 4)
  /-- `PMOV` (R194): Predicate move. -/
  | pmov (pd pa : BitVec 4)
  /-- `PSETS` (R194): Sets a predicate from an s register. -/
  | psets (pd : BitVec 4) (src : BitVec 9)
  /-- `PGETS` (R194): Copies a predicate into an s register. -/
  | pgets (sd : BitVec 9) (pa : BitVec 4)
  /-- `PCNT` (R194): Counts the set bits of a predicate into an s register. -/
  | pcnt (sd : BitVec 9) (pa : BitVec 4)
  /-- `PFFS` (R194): Writes the index of a predicate's lowest set bit, or 32. -/
  | pffs (sd : BitVec 9) (pa : BitVec 4)
  /-- `PLANE` (R194): Sets a predicate to the single lane bit named by an s register. -/
  | plane (pd : BitVec 4) (src : BitVec 9)
  /-- `PPUSH` (R195): Pushes a predicate onto the predicate stack. -/
  | ppush (pa : BitVec 4)
  /-- `PPOP` (R195): Pops the predicate stack into a predicate. -/
  | ppop (pd : BitVec 4)
  /-- `VADD` (R200): Vector integer add, wrapping or saturating. -/
  | vadd (vd va vb : BitVec 8)
  /-- `VSUB` (R200): Vector integer subtract. -/
  | vsub (vd va vb : BitVec 8)
  /-- `VMUL` (R200): Vector integer multiply. -/
  | vmul (vd va vb : BitVec 8)
  /-- `VMULH` (R200): Vector integer multiply, high half. -/
  | vmulh (vd va vb : BitVec 8)
  /-- `VMAD` (R201): Vector integer multiply-add into vd. -/
  | vmad (vd va vb : BitVec 8)
  /-- `VAND` (R200): Vector bitwise AND. -/
  | vand (vd va vb : BitVec 8)
  /-- `VOR` (R200): Vector bitwise OR. -/
  | vor (vd va vb : BitVec 8)
  /-- `VXOR` (R200): Vector bitwise XOR. -/
  | vxor (vd va vb : BitVec 8)
  /-- `VNOT` (R203): Vector bitwise NOT. -/
  | vnot (vd va : BitVec 8)
  /-- `VSHL` (R202): Vector shift left. -/
  | vshl (vd va vb : BitVec 8)
  /-- `VSHR` (R202): Vector shift right, arithmetic or logical by type. -/
  | vshr (vd va vb : BitVec 8)
  /-- `VMIN` (R200): Vector integer minimum. -/
  | vmin (vd va vb : BitVec 8)
  /-- `VMAX` (R200): Vector integer maximum. -/
  | vmax (vd va vb : BitVec 8)
  /-- `VABS` (R203): Vector integer absolute value. -/
  | vabs (vd va : BitVec 8)
  /-- `VCLZ` (R203): Vector count of leading zeros. -/
  | vclz (vd va : BitVec 8)
  /-- `VPOPC` (R203): Vector population count. -/
  | vpopc (vd va : BitVec 8)
  /-- `VSEL` (R205): Selects va or vb per lane by the guard, writing every lane. -/
  | vsel (vd va vb : BitVec 8)
  /-- `VMOV` (R203): Vector move. -/
  | vmov (vd va : BitVec 8)
  /-- `VBCAST` (R206): Broadcasts an s register to the enabled lanes. -/
  | vbcast (vd src : BitVec 8)
  /-- `VLANE` (R206): Writes each enabled lane's number. -/
  | vlane (vd : BitVec 8)
  /-- `VSHFL` (R207): Permutes elements by per-lane source indices. -/
  | vshfl (vd va vb : BitVec 8)
  /-- `VROT` (R207): Rotates elements across lanes by an immediate. -/
  | vrot (vd va : BitVec 8) (imm : BitVec 5)
  /-- `VSCAN` (R208): Integer inclusive scan over enabled lanes. -/
  | vscan (vd va : BitVec 8) (op : BitVec 4)
  /-- `VRED` (R208): Integer reduction over enabled lanes. -/
  | vred (vd va : BitVec 8) (op : BitVec 4)
  /-- `VCMP` (R204): Integer compare writing a predicate. -/
  | vcmp (pd cond : BitVec 4) (va vb : BitVec 8)
  /-- `VPACK` (R209): Packs sub-elements into one lane element. -/
  | vpack (vd va vb : BitVec 8)
  /-- `VUNPK` (R209): Unpacks one sub-element. -/
  | vunpk (vd va : BitVec 8) (k : BitVec 2)
  /-- `VHASH` (R210): Writes the 32-bit mix of each lane. -/
  | vhash (vd va : BitVec 8)
  /-- `VXTR` (R206): Extracts one lane into an s register. -/
  | vxtr (sd va : BitVec 8) (lane : BitVec 5)
  /-- `VINS` (R206): Inserts an s register into one lane. -/
  | vins (vd src : BitVec 8) (lane : BitVec 5)
  /-- `VFADD` (R212): Floating add rounded once. -/
  | vfadd (vd va vb : BitVec 8)
  /-- `VFSUB` (R212): Floating subtract rounded once. -/
  | vfsub (vd va vb : BitVec 8)
  /-- `VFMUL` (R212): Floating multiply rounded once. -/
  | vfmul (vd va vb : BitVec 8)
  /-- `VFMULZ` (R212): Floating multiply with the zero-product rule. -/
  | vfmulz (vd va vb : BitVec 8)
  /-- `VFMA` (R212): Fused a*b+d rounded once. -/
  | vfma (vd va vb : BitVec 8)
  /-- `VFMS` (R212): Fused a*b-d rounded once. -/
  | vfms (vd va vb : BitVec 8)
  /-- `VFNMA` (R212): Fused -(a*b)+d rounded once. -/
  | vfnma (vd va vb : BitVec 8)
  /-- `VFDIV` (R216): Floating division in the divider. -/
  | vfdiv (vd va vb : BitVec 8)
  /-- `VFSQRT` (R216): Floating square root in the divider. -/
  | vfsqrt (vd va : BitVec 8)
  /-- `VFRSQ` (R221): Escalatable reciprocal square root. -/
  | vfrsq (vd va : BitVec 8)
  /-- `VFRCP` (R221): Escalatable reciprocal. -/
  | vfrcp (vd va : BitVec 8)
  /-- `VFEXP` (R221): Escalatable e^a. -/
  | vfexp (vd va : BitVec 8)
  /-- `VFEXP2` (R221): Escalatable 2^a. -/
  | vfexp2 (vd va : BitVec 8)
  /-- `VFEXPM1` (R221): Escalatable e^a-1. -/
  | vfexpm1 (vd va : BitVec 8)
  /-- `VFLOG` (R221): Escalatable natural logarithm. -/
  | vflog (vd va : BitVec 8)
  /-- `VFLOG2` (R221): Escalatable base-2 logarithm. -/
  | vflog2 (vd va : BitVec 8)
  /-- `VFLOG1P` (R221): Escalatable ln(1+a). -/
  | vflog1p (vd va : BitVec 8)
  /-- `VFSIN` (R221): Escalatable sine. -/
  | vfsin (vd va : BitVec 8)
  /-- `VFCOS` (R221): Escalatable cosine. -/
  | vfcos (vd va : BitVec 8)
  /-- `VFTAN` (R221): Escalatable tangent. -/
  | vftan (vd va : BitVec 8)
  /-- `VFATAN` (R221): Escalatable arctangent. -/
  | vfatan (vd va : BitVec 8)
  /-- `VFATAN2` (R223): Escalatable two-argument arctangent. -/
  | vfatan2 (vd va vb : BitVec 8)
  /-- `VFTANH` (R221): Escalatable hyperbolic tangent. -/
  | vftanh (vd va : BitVec 8)
  /-- `VFERF` (R221): Escalatable error function. -/
  | vferf (vd va : BitVec 8)
  /-- `VFPOW` (R224): Escalatable x^y. -/
  | vfpow (vd va vb : BitVec 8)
  /-- `VFHYP` (R225): Escalatable hypotenuse in one rounding. -/
  | vfhyp (vd va vb : BitVec 8)
  /-- `VFMIN` (R213): Floating minimum returning an operand. -/
  | vfmin (vd va vb : BitVec 8)
  /-- `VFMAX` (R213): Floating maximum returning an operand. -/
  | vfmax (vd va vb : BitVec 8)
  /-- `VFABS` (R214): Clears the sign bit. -/
  | vfabs (vd va : BitVec 8)
  /-- `VFNEG` (R214): Inverts the sign bit. -/
  | vfneg (vd va : BitVec 8)
  /-- `VFCPS` (R214): Copies the sign of vb onto va. -/
  | vfcps (vd va vb : BitVec 8)
  /-- `VFRND` (R217): Rounds to an integral value in its own format. -/
  | vfrnd (vd va : BitVec 8)
  /-- `VFTOI` (R218): Converts floating to an integer type. -/
  | vftoi (vd va : BitVec 8) (imm : BitVec 5)
  /-- `VITOF` (R218): Converts integer to a floating type. -/
  | vitof (vd va : BitVec 8) (imm : BitVec 5)
  /-- `VFCVT` (R218): Converts between floating types. -/
  | vfcvt (vd va : BitVec 8) (imm : BitVec 5)
  /-- `VFQNT` (R219): Quantises binary32 lanes into a narrow format with side data. -/
  | vfqnt (vd va vb : BitVec 8)
  /-- `VFDQ` (R220): Decodes narrow codes with side data into binary32. -/
  | vfdq (vd va vb : BitVec 8)
  /-- `VFCLS` (R217): Classifies each value into a one-hot class word. -/
  | vfcls (vd va : BitVec 8)
  /-- `VFCMP` (R215): Floating compare writing a predicate. -/
  | vfcmp (pd cond : BitVec 4) (va vb : BitVec 8)
  /-- `VFSMX` (R226): Escalatable fused softmax step e^(a-b). -/
  | vfsmx (vd va vb : BitVec 8)
  /-- `VFSSQ` (R227): Escalatable exact sum of squares over enabled lanes. -/
  | vfssq (vd va : BitVec 8)
  /-- `VFRED` (R227): Exact-sum, min or max reduction over enabled lanes. -/
  | vfred (vd va : BitVec 8) (op : BitVec 4)
  /-- `VFSCAN` (R227): Exact-sum, min or max scan over enabled lanes. -/
  | vfscan (vd va : BitVec 8) (op : BitVec 4)
  /-- `VFROT` (R228): Escalatable rotation of lane pairs by pos*omega. -/
  | vfrot (vd va vb : BitVec 8)
  /-- `VFLDX` (R217): Scales by 2^k rounded once. -/
  | vfldx (vd va vb : BitVec 8)
  /-- `VFFRX` (R217): Extracts fraction or exponent. -/
  | vffrx (vd va : BitVec 8) (sel : BitVec 1)
  /-- `VFREM` (R216): Exact floating remainder in the divider. -/
  | vfrem (vd va vb : BitVec 8)
  /-- `LD` (R270): Global load through the read cache. -/
  | ld (v va : BitVec 8) (n : BitVec 5) (scope : BitVec 3)
  /-- `LDF` (R270): Global load at the cluster cache over the gang store buffer. -/
  | ldf (v va : BitVec 8) (n : BitVec 5) (scope : BitVec 3)
  /-- `LDD` (R270): Device-class load at the memory-side cache. -/
  | ldd (v va : BitVec 8) (n : BitVec 5) (scope : BitVec 3)
  /-- `LDA` (R270): Acquiring load at its scope. -/
  | lda (v va : BitVec 8) (n : BitVec 5) (scope : BitVec 3)
  /-- `ST` (R270): Ordinary store into the gang store buffer. -/
  | st (v va : BitVec 8) (n : BitVec 5) (scope : BitVec 3)
  /-- `STNT` (R261): Non-temporal store straight to the memory side. -/
  | stnt (v va : BitVec 8) (n : BitVec 5) (scope : BitVec 3)
  /-- `STD` (R270): Device-class store at the memory-side cache. -/
  | std (v va : BitVec 8) (n : BitVec 5) (scope : BitVec 3)
  /-- `STL` (R270): Releasing store at its scope. -/
  | stl (v va : BitVec 8) (n : BitVec 5) (scope : BitVec 3)
  /-- `DRAINNT` (R274): Lowers VMC when the group's earlier STNT words are written at the memory side. -/
  | drainnt
  /-- `FENCE` (R273): Release and acquire at its scope, committing the store buffer at cluster scope and wider. -/
  | fence (scope : BitVec 3)
  /-- `AADD` (R276): Atomic integer add. -/
  | aadd (v va : BitVec 8) (n : BitVec 5) (scope : BitVec 3)
  /-- `AFADD` (R278): Atomic floating add, held for ordered application in reproducible tasks. -/
  | afadd (v va : BitVec 8) (n : BitVec 5) (scope : BitVec 3)
  /-- `AMIN` (R276): Atomic minimum. -/
  | amin (v va : BitVec 8) (n : BitVec 5) (scope : BitVec 3)
  /-- `AMAX` (R276): Atomic maximum. -/
  | amax (v va : BitVec 8) (n : BitVec 5) (scope : BitVec 3)
  /-- `AAND` (R276): Atomic AND. -/
  | aand (v va : BitVec 8) (n : BitVec 5) (scope : BitVec 3)
  /-- `AOR` (R276): Atomic OR. -/
  | aor (v va : BitVec 8) (n : BitVec 5) (scope : BitVec 3)
  /-- `AXOR` (R276): Atomic XOR. -/
  | axor (v va : BitVec 8) (n : BitVec 5) (scope : BitVec 3)
  /-- `AXCHG` (R276): Atomic exchange. -/
  | axchg (v va : BitVec 8) (n : BitVec 5) (scope : BitVec 3)
  /-- `ACAS` (R277): Atomic compare and swap on raw bits. -/
  | acas (v va : BitVec 8) (n : BitVec 5) (scope : BitVec 3)
  /-- `LDB` (R282): Loads from an A-buffer or W-buffer handle. -/
  | ldb (v va : BitVec 8) (h : BitVec 6)
  /-- `STB` (R282): Stores into an A-buffer handle. -/
  | stb (v va : BitVec 8) (h : BitVec 6)
  /-- `ABADD` (R283): Atomic add in the A-buffer. -/
  | abadd (v va : BitVec 8) (h : BitVec 6)
  /-- `ABCAS` (R283): Atomic compare and swap in the A-buffer. -/
  | abcas (v va : BitVec 8) (h : BitVec 6)
  /-- `LDC` (R284): Rounds out a long-accumulator element, or moves it raw in a handler group. -/
  | ldc (v va : BitVec 8) (h : BitVec 6)
  /-- `STC` (R285): Writes long-accumulator elements exactly, or raw in a handler group. -/
  | stc (v va : BitVec 8) (h : BitVec 6)
  /-- `PREF` (R272): Prefetches lines into the read and cluster caches without faulting. -/
  | pref (va : BitVec 8) (n : BitVec 5) (scope : BitVec 3)
  /-- `LDKV` (R364): Loads raw KV codes or scale codes. -/
  | ldkv (v va src : BitVec 8)
  /-- `STKV` (R364): Stores raw KV codes or scale codes. -/
  | stkv (v va src : BitVec 8)
  /-- `KVMAP` (R366): Inserts one KV key mapping as a map operation. -/
  | kvmap (sd sa : BitVec 9)
  /-- `KVFORK` (R367): Maps a destination sequence onto a source's first n tokens. -/
  | kvfork (sd sa : BitVec 9)
  /-- `KVDROP` (R368): Removes a sequence's keys and counts blocks freed. -/
  | kvdrop (sd sa : BitVec 9)
  /-- `KVINFO` (R369): Looks up a key and returns block, REF, FILL and FLG. -/
  | kvinfo (sd sa : BitVec 9)
  /-- `BAR` (R391): Arrives at a block barrier and waits for the phase. -/
  | bar (b : BitVec 4)
  /-- `BARA` (R391): Arrives at a block barrier without waiting. -/
  | bara (b : BitVec 4)
  /-- `BARW` (R391): Waits on a block barrier phase without arriving. -/
  | barw (b : BitVec 4)
  /-- `GBAR` (R392): Arrives at and/or waits on a gang barrier. -/
  | gbar (g mode : BitVec 2)
  /-- `HWAIT` (R393): Waits for a handle state and phase, then acquires. -/
  | hwait (h : BitVec 6) (st : BitVec 2) (ph : BitVec 1)
  /-- `HSET` (R394): Makes one handle transition as the groups' engine. -/
  | hset (h : BitVec 6) (st : BitVec 2)
  /-- `WAIT` (R396): Waits until VMC, BFC and SFC are at or below their limits. -/
  | wait (vmc bfc sfc : BitVec 6)
  /-- `EVPOP` (R395): Removes the oldest event record, waiting or polling. -/
  | evpop (sd : BitVec 9) (poll : Bool)
  /-- `QPUSH` (R398): Pushes an entry to a device queue or hands it to a waiter. -/
  | qpush (sd sa : BitVec 9)
  /-- `QPOP` (R398): Pops an entry from a device queue or joins its waiter list. -/
  | qpop (sd sa : BitVec 9)
  /-- `MWATCH` (R399): Arms the group's watch on a 128-byte line. -/
  | mwatch (sa : BitVec 9)
  /-- `MWAIT` (R399): Waits for a write to the watched line, then disarms. -/
  | mwait
  /-- `LAUNCH` (R400): Enqueues an LPB into a device-fed task queue through the queue engine. -/
  | launch (sd sa : BitVec 9)
  /-- `SIGNAL` (R401): Releases at system scope and sends the host an interrupt flit. -/
  | signal (sd sa : BitVec 9)
  /-- `DEAL` (R402): Takes a chunk of job-card records. -/
  | deal (sd : BitVec 9)
  /-- `TKICK` (R403): Restarts an ended Tender at a given code index. -/
  | tkick (sa : BitVec 9)
  /-- `CKPT` (R404): Commits the gang store buffer as a release at cluster scope. -/
  | ckpt
  /-- `CLOCK` (R405): Writes the group's logical clock to an s pair. -/
  | clock (sd : BitVec 9)
  /-- `CLKSYNC` (R405): Waits until the group is the least group of its gang. -/
  | clksync
  /-- `RNGK` (R230): Writes Spar of a key pair and counter pair. -/
  | rngk (vd va vb : BitVec 8)
  /-- `RNG` (R230): Draws Spar of the lane state and advances the counter. -/
  | rng (vd : BitVec 8)
  /-- `RNGS` (R230): Seeds each lane's key from SEED and its global lane index. -/
  | rngs
  /-- `RNGF` (R230): Converts random bits to a binary32 in [0,1). -/
  | rngf (vd va : BitVec 8)
  /-- `RNGSV` (R230): Saves the lane RNG state into four registers. -/
  | rngsv (vd : BitVec 8)
  /-- `RNGLD` (R230): Loads the lane RNG state from four registers. -/
  | rngld (va : BitVec 8)
  /-- `ILLEGAL_INSTRUCTION` (R108): A group word with a reserved opcode or a non-zero reserved field raises an illegal-instruction fault at the word. -/
  | illegalInstruction (w : BitVec 32)
  /-- `MATRIX_STREAM_ILLEGAL` (R97): A matrix-stream word with opcode 0x15 to 0xFF, or a non-zero reserved field, raises a matrix-stream illegal fault. -/
  | matrixStreamIllegal (w : BitVec 32)
  /-- `TENDER_ILLEGAL` (R98): A Tender word with opcode 0x28 to 0xFF, or a non-zero reserved field, raises a Tender illegal fault and suspends the Tender. -/
  | tenderIllegal (w : BitVec 32)
  /-- `MNOP` (R323): Matrix-stream no operation. -/
  | mnop
  /-- `MEND` (R323): Waits for queued engine words, posts MFLAGS and ends the stream. -/
  | mend
  /-- `MLI` (R323): Loads a signed 19-bit immediate into an m register. -/
  | mli (md : BitVec 5) (imm : BitVec 19)
  /-- `MADDI` (R323): Adds a signed 19-bit immediate to an m register. -/
  | maddi (md : BitVec 5) (imm : BitVec 19)
  /-- `MBR` (R323): Matrix-stream conditional branch. -/
  | mbr (ma : BitVec 5) (cond : BitVec 3) (off : BitVec 16)
  /-- `MLOOP` (R323): Matrix-stream bottom-tested loop. -/
  | mloop (ma : BitVec 5) (off : BitVec 16)
  /-- `MSETF` (R324): Writes the operand formats MFMT. -/
  | msetf (ma : BitVec 5)
  /-- `MTILE` (R325): Sets tile M, N and K. -/
  | mtile (mc nc : BitVec 4) (ma : BitVec 5)
  /-- `MBIND` (R326): Binds a block handle to slot A, B, C or map. -/
  | mbind (slot : BitVec 2) (h : BitVec 6) (ma mb : BitVec 5)
  /-- `MRMT` (R327): Binds slot A or B to a handle of another gang block, with a join mask. -/
  | mrmt (src : BitVec 5) (slot : BitVec 2) (h : BitVec 6) (ma mb : BitVec 5)
  /-- `MZERO` (R331): Zeroes the bound C tile. -/
  | mzero
  /-- `MMA` (R331): Adds the exact product A×B into the long accumulators. -/
  | mma (ra rb ev : Bool)
  /-- `MMAS` (R335): MMA with element bitmaps that skip products. -/
  | mmas (ra rb ev : Bool)
  /-- `MEPI` (R338): Rounds out the C tile into a destination handle, possibly quantising. -/
  | mepi (h : BitVec 6) (bg fin ev : Bool) (md ma mb : BitVec 5)
  /-- `MEPKV` (R371): Scatters the C tile into KV space, optionally rotating. -/
  | mepkv (rot : Bool) (rnd : BitVec 3) (ev : Bool) (md ma mb : BitVec 5)
  /-- `ATT` (R372): Computes one attention tile over KV blocks. -/
  | att (causal : Bool) (pf : BitVec 2) (rnd : BitVec 3) (ev : Bool) (md ma mb : BitVec 5)
  /-- `MBAR` (R344): Matrix sequencer barrier arrival and/or wait. -/
  | mbar (g : Bool) (mode : BitVec 2) (n : BitVec 4)
  /-- `MWAITH` (R345): Waits for a local or remote handle state and phase. -/
  | mwaith (md : BitVec 5) (h : BitVec 6) (st : BitVec 2) (ph : BitVec 1)
  /-- `MHSET` (R345): Makes one handle transition as the matrix engine. -/
  | mhset (md : BitVec 5) (h : BitVec 6) (st : BitVec 2)
  /-- `MCHK` (R346): Waits for engine words and reads, optionally clears, MFLAGS. -/
  | mchk (c : Bool) (md : BitVec 5)
  /-- `MSTAT` (R346): Waits for engine words and reads a status counter. -/
  | mstat (md : BitVec 5) (sel : BitVec 4)
  /-- `ENGINE_WORD_START` (R321): The engine starts the next queued engine word once the previous finished its cell and port work, after its checks and waits. -/
  | engineWordStart (gang blk : Nat)
  /-- `ESCALATION_BUDGET` (R341): A failing quantising epilogue, once lower tile keys are decided, widens its tile or is clipped. -/
  | escalationBudget (gang blk : Nat)
  /-- `ENGINE_WORD_COMPLETE` (R321): An engine word completes when its elements, parked entries, transitions and event are done. -/
  | engineWordComplete (gang blk : Nat)
  /-- `TNOP` (R292): Tender no operation. -/
  | tnop
  /-- `TEND` (R315): Waits for copy words, posts KIND 3 and ends the Tender. -/
  | tend
  /-- `TLI` (R294): Loads a sign-extended 18-bit immediate. -/
  | tli (td : BitVec 6) (imm : BitVec 18)
  /-- `TLIH` (R294): Replaces a 16-bit field of a t register. -/
  | tlih (td : BitVec 6) (sh : BitVec 2) (imm : BitVec 16)
  /-- `TADD` (R293): Tender add, register form. -/
  | tadd (td ta tb : BitVec 6)
  /-- `TADD_IMM` (R293): Tender add, immediate form. -/
  | taddImm (td ta : BitVec 6) (imm : BitVec 11)
  /-- `TSUB` (R293): Tender subtract, register form. -/
  | tsub (td ta tb : BitVec 6)
  /-- `TSUB_IMM` (R293): Tender subtract, immediate form. -/
  | tsubImm (td ta : BitVec 6) (imm : BitVec 11)
  /-- `TMUL` (R293): Tender multiply, register form. -/
  | tmul (td ta tb : BitVec 6)
  /-- `TMUL_IMM` (R293): Tender multiply, immediate form. -/
  | tmulImm (td ta : BitVec 6) (imm : BitVec 11)
  /-- `TMAD` (R293): Tender multiply-add, register form. -/
  | tmad (td ta tb : BitVec 6)
  /-- `TMAD_IMM` (R293): Tender multiply-add, immediate form. -/
  | tmadImm (td ta : BitVec 6) (imm : BitVec 11)
  /-- `TSHL` (R293): Tender shift left, register form. -/
  | tshl (td ta tb : BitVec 6)
  /-- `TSHL_IMM` (R293): Tender shift left, immediate form. -/
  | tshlImm (td ta : BitVec 6) (imm : BitVec 11)
  /-- `TSHR` (R293): Tender logical shift right, register form. -/
  | tshr (td ta tb : BitVec 6)
  /-- `TSHR_IMM` (R293): Tender logical shift right, immediate form. -/
  | tshrImm (td ta : BitVec 6) (imm : BitVec 11)
  /-- `TAND` (R293): Tender AND, register form. -/
  | tand (td ta tb : BitVec 6)
  /-- `TAND_IMM` (R293): Tender AND, immediate form. -/
  | tandImm (td ta : BitVec 6) (imm : BitVec 11)
  /-- `TOR` (R293): Tender OR, register form. -/
  | tor (td ta tb : BitVec 6)
  /-- `TOR_IMM` (R293): Tender OR, immediate form. -/
  | torImm (td ta : BitVec 6) (imm : BitVec 11)
  /-- `TMIN` (R293): Tender signed minimum, register form. -/
  | tmin (td ta tb : BitVec 6)
  /-- `TMIN_IMM` (R293): Tender signed minimum, immediate form. -/
  | tminImm (td ta : BitVec 6) (imm : BitVec 11)
  /-- `TMAX` (R293): Tender signed maximum, register form. -/
  | tmax (td ta tb : BitVec 6)
  /-- `TMAX_IMM` (R293): Tender signed maximum, immediate form. -/
  | tmaxImm (td ta : BitVec 6) (imm : BitVec 11)
  /-- `TBC` (R295): Tender conditional branch on t[ta] against 0. -/
  | tbc (ta : BitVec 6) (cond : BitVec 3) (off : BitVec 15)
  /-- `TBA` (R295): Tender branch and link, relative or register-based. -/
  | tba (td ta : BitVec 6) (off : BitVec 12)
  /-- `TLOOP` (R295): Tender bottom-tested loop. -/
  | tloop (ta : BitVec 6) (off : BitVec 18)
  /-- `TLD` (R296): Tender index load from global memory. -/
  | tld (td ta : BitVec 6) (sz : BitVec 2) (imm : BitVec 10)
  /-- `TLD_ENV` (R297): Loads an environment value into a t register. -/
  | tldEnv (td : BitVec 6) (idx : BitVec 10)
  /-- `TST` (R296): Tender store of a t register to global memory. -/
  | tst (td ta : BitVec 6) (sz : BitVec 2) (imm : BitVec 10)
  /-- `TLDB` (R298): Tender load from a typed-buffer handle. -/
  | tldb (td h tb : BitVec 6) (sz : BitVec 2)
  /-- `TDESC` (R299): Loads a 256-bit tensor descriptor. -/
  | tdesc (d : BitVec 4) (ta : BitVec 6)
  /-- `TCOPY` (R306): Copies a global box into a handle. -/
  | tcopy (d : BitVec 4) (tc tb : BitVec 6) (bg fin ev : Bool)
  /-- `TSTORE` (R306): Copies a handle box to global memory. -/
  | tstore (d : BitVec 4) (tc tb : BitVec 6) (bg fin ev : Bool)
  /-- `TCOPYL` (R307): Starts a looping copy through a ring of handles. -/
  | tcopyl (d : BitVec 4) (tc tn : BitVec 6) (k ring : BitVec 3)
  /-- `TGATH` (R308): Gathers global rows through an index list into a handle. -/
  | tgath (d : BitVec 4) (ti tn h : BitVec 6)
  /-- `TSCAT` (R308): Scatters handle rows to global rows through an index list. -/
  | tscat (d : BitVec 4) (ti tn h : BitVec 6)
  /-- `TKVR` (R310): Reads KV token rows into a handle. -/
  | tkvr (d : BitVec 4) (tk tn : BitVec 6) (bg fin ev : Bool)
  /-- `TKVW` (R310): Writes handle rows into KV space. -/
  | tkvw (d : BitVec 4) (tk tn : BitVec 6) (bg fin ev : Bool)
  /-- `TCVT` (R311): Converts a box between handles element by element. -/
  | tcvt (dd ds : BitVec 4) (rnd : BitVec 3) (bg fin : Bool)
  /-- `TRED` (R312): Adds n contributions into a global box exactly. -/
  | tred (dd ds : BitVec 4) (tn : BitVec 6) (rnd : BitVec 3) (sat : Bool)
  /-- `TMCAST` (R313): Multicasts one global box into handles of several gang blocks. -/
  | tmcast (d : BitVec 4) (tc tm : BitVec 6) (bg fin ev : Bool)
  /-- `TBAR` (R315): Tender barrier arrival and/or wait. -/
  | tbar (g : Bool) (n : BitVec 4) (mode : BitVec 2)
  /-- `THSET` (R315): Makes one handle transition as the Tender. -/
  | thset (h : BitVec 6) (st : BitVec 2)
  /-- `THWAIT` (R315): Waits for a handle state and phase. -/
  | thwait (h : BitVec 6) (st : BitVec 2) (ph : BitVec 1)
  /-- `TEVT` (R315): Posts a user event record. -/
  | tevt (ta : BitVec 6) (tag : BitVec 16) (f c : Bool)
  /-- `TSEND` (R314): Sends a global box as a peer message. -/
  | tsend (d : BitVec 4) (tc tq : BitVec 6) (ev : Bool)
  /-- `TRECV` (R314): Receives a peer message into a global box. -/
  | trecv (d : BitVec 4) (tc tq : BitVec 6) (ev : Bool)
  /-- `TFENCE` (R315): Orders the Tender's accesses at a scope. -/
  | tfence (scope : BitVec 3)
  /-- `TWAIT` (R315): Waits until at most n copy words are in flight. -/
  | twait (n : BitVec 8)
  /-- `TTRAP` (R315): Suspends the Tender with a Tender-trap fault. -/
  | ttrap (imm : BitVec 24)
  /-- `TCOPYL_ITERATION` (R307): A looping-copy iteration begins once its stage handle is FREE. -/
  | tcopylIteration (gang blk k : Nat)
  /-- `COPY_WORD_COMPLETE` (R302): A copy word completes once its elements, finish transition and event are done. -/
  | copyWordComplete (gang blk k : Nat)
  /-- `EVENT_POST` (R254): A poster waiting for room posts its event record once EVPOP frees a slot. -/
  | eventPost (gang blk : Nat)
  /-- `BARRIER_RELEASE` (R390): Waiters of a completed barrier phase are released after the release delay. -/
  | barrierRelease (gang blk b : Nat)
  /-- `VARIABLE_LATENCY_WRITEBACK` (R150): A variable-latency result lands in a lane and releases its scoreboard lock and counter. -/
  | variableLatencyWriteback (gang blk grp k : Nat)
  /-- `REPLAY` (R154): After a checked-issue mismatch the frozen group's word is replayed and compared. `unit`: the unit of the core, and which of the
  words that it compares. -/
  | replay (core : Nat) (unit : Nat × Nat) (matched : Bool)
  /-- `BEACON_TAKE` (R161): The Beacon unit takes up to two waiting park entries round-robin when slots are free. -/
  | beaconTake (cluster : Nat)
  /-- `BEACON_COMPLETE` (R161): The Beacon unit finishes an entry, resolving it or placing it on the Lantern list. -/
  | beaconComplete (core entry : Nat) (decided : Bool)
  /-- `LANTERN_TAKE` (R162): The Lantern stage takes the listed entry with the earliest PTIME. -/
  | lanternTake (cluster : Nat)
  /-- `LANTERN_COMPLETE` (R162): The Lantern stage delivers the exact rounded result of its entry. -/
  | lanternComplete (cluster : Nat)
  /-- `COMMIT` (R257): The gang store buffer merges into the cluster cache as one action after any earlier commit. -/
  | commit (gang : Nat) (bad : Bool)
  /-- `TINVCTL` (R241): A write starts translation invalidation in every TLB and translation unit and sets busy. -/
  | tinvctl (val : BitVec 32)
  /-- `TRANSLATION_INVALIDATION_DONE` (R241): Busy clears when every covered entry is gone and every in-flight walk has ended. -/
  | translationInvalidationDone
  /-- `KVINVCTL` (R361): Writing 1 invalidates every KV TLB entry of the space and sets busy. -/
  | kvinvctl (val : BitVec 32)
  /-- `KV_INVALIDATION_DONE` (R361): KVINVCTL busy clears when all entries of the space are gone. -/
  | kvInvalidationDone
  /-- `XREL` (R409): Releases a suspended Tender or matrix sequencer of the selected block. -/
  | xrel (val : BitVec 32)
  /-- `XFAIL` (R409): A non-zero write fails the task with that code. -/
  | xfail (val : BitVec 32)
  /-- `HANDLER_START` (R407): The gang's handler group starts in its handler slot for the next pending pager, save or restore work. -/
  | handlerStart (gang : Nat)
  /-- `TASK_DEQUEUE` (R45): With fewer than 128 active tasks the dispatcher dequeues a task from the chosen queue and checks it. -/
  | taskDequeue
  /-- `AGEING` (R45): Each DAGE×2^16 clocks of waiting improves a queue head's effective class. -/
  | ageing (queue : BitVec 6)
  /-- `GANG_PLACEMENT` (R50): The dispatcher places the first eligible fitting gang on a run of cores. -/
  | gangPlacement
  /-- `RESERVATION` (R53): A gang passed over for 2^16 clocks reserves a run of cores. -/
  | reservation
  /-- `DRAIN_LIMIT` (R422): A drained gang not retired within PDLIM×1,024 clocks is saved. -/
  | drainLimit (gang : Nat)
  /-- `SAVE_COMPLETE` (R424): After the save handler's STOP the store buffer commits and the gang's cores are released. -/
  | saveComplete (gang : Nat)
  /-- `EDGE_ACTION` (R77): A cluster's edge coherence engine performs the next queued edge action. -/
  | edgeAction (cluster : Nat) (bad : Option Nat)
  /-- `GANG_START` (R73): When gang-start actions end, every stream of every block of the gang begins. -/
  | gangStart (gang : Nat)
  /-- `GANG_COMPLETION` (R73): All streams ended and the store buffer committed; completion actions are requested. -/
  | gangCompletion (gang : Nat)
  /-- `GANG_RETIREMENT` (R434): After write-backs are acknowledged the completion bit is set and the gang's resources released. -/
  | gangRetirement (gang : Nat)
  /-- `TASK_RETIREMENT` (R435): After the last gang retires, held contributions apply and the completion record is written. -/
  | taskRetirement (task : Nat)
  /-- `HREAD` (R440): Host read of device memory answered by HRDATA. -/
  | hread (tag : BitVec 16) (flen : BitVec 32) (faddr : BitVec 64)
  /-- `HWRITE` (R440): Host masked write of one line of device memory. -/
  | hwrite (faddr : BitVec 64) (data : BitVec 1024) (mask : BitVec 128)
  /-- `NOTIFY` (R43): Queue-notify flit; the dispatcher reads the queue's QTAIL. -/
  | notify (flen : BitVec 32)
  /-- `REPLY` (R415): Host-call reply resuming or failing the stopped stream. -/
  | reply (faddr : BitVec 64) (payload : BitVec 512)
  /-- `TINV` (R440): Host translation invalidation, answered by TINVDONE. -/
  | tinv (tag : BitVec 16) (flen : BitVec 32) (faddr : BitVec 64)
  /-- `CANCEL` (R438): Cancels a queued or active task. -/
  | cancel (flen : BitVec 32) (faddr : BitVec 64)
  /-- `SRDATA` (R442): Host response completing a device read of host memory. -/
  | srdata (tag : BitVec 16) (data : BitVec 1024)
  /-- `SWACK` (R442): Host response completing a device write to host memory. -/
  | swack (tag : BitVec 16)
  /-- `SARES` (R441): Host response completing an atomic on host memory with the old value. -/
  | sares (tag : BitVec 16) (stat : BitVec 8) (old : BitVec 64)
  /-- `DISCARDED_FLIT` (R440): A flit of unknown type or with non-zero reserved fields is discarded and counted. -/
  | discardedFlit (ftype : BitVec 8)
  /-- `MGMT_WRITE` (R464): Management write to a register without behaviour of its own, checked and applied by the dispatcher. -/
  | mgmtWrite (tag : BitVec 16) (flen : BitVec 32) (faddr : BitVec 64)
  /-- `MREMOVE` (R464): Asks for removal of a gang of the task named by MRTASK. -/
  | mremove (tag : BitVec 16) (faddr : BitVec 64)
  /-- `MATTCMD` (R462): Starts an attestation report and sets busy. -/
  | mattcmd (tag : BitVec 16) (faddr : BitVec 64)
  /-- `ATTESTATION_REPORT` (R462): The signed report is written and MATTCMD busy clears. -/
  | attestationReport
  /-- `POWER_GOOD` (R460): Power-good or an ordered reset runs bring-up to ready and sends class 6. -/
  | powerGood (failed : BitVec 4)
  /-- `POWER_CAP` (R463): Average power above PCAP inserts idle issue clocks on every engine. -/
  | powerCap
  /-- `OUTLET_ABOVE_60` (R463): Coolant outlet above 60 °C inserts idle issue clocks. -/
  | outletAbove60
  /-- `OUTLET_ABOVE_70` (R463): Coolant outlet at 70 °C stops issue, raises class 5 for every cluster and stops. -/
  | outletAbove70
  /-- `ANNOUNCE` (R445): A peer announce flit is paired with a receive on its channel, which sends a grant. -/
  | announce (port : BitVec 4) (chan : BitVec 8) (len : BitVec 64)
  /-- `GRANT` (R445): A receiver grant lets the sender send min(Ls, Lr) bytes of data flits. -/
  | grant (port : BitVec 4) (chan : BitVec 8) (len : BitVec 64)
  /-- `PEER_DATA` (R445): A peer data flit's bytes are written by the receiver in box order. -/
  | peerData (port : BitVec 4) (chan : BitVec 8) (data : BitVec 1792)
  /-- `PEER_COMPLETION` (R445): A completion flit completes the TSEND and TRECV of a message. -/
  | peerCompletion (port : BitVec 4) (chan : BitVec 8)
  /-- `PORT_INACTIVE` (R445): A port leaving the active state suspends in-flight peer words with a peer fault. -/
  | portInactive (port : BitVec 4)
  /-- `PAGE_WALK_END` (R242): A translation walk ends, and the memory word's group, whose fetch stopped at issue, may fetch again. -/
  | pageWalkEnd (gang blk grp : Nat)
  /-- `AVERAGE_BELOW_PCAP` (R463): The 1 ms average power falls below PCAP, and the device stops inserting idle issue clocks. -/
  | averageBelowPcap
  /-- `OUTLET_BELOW_60` (R463): The coolant outlet falls back to 60 °C or below, and the inserted idle issue clocks end. -/
  | outletBelow60
  /-- `MODULE_LIMITS_EXCEEDED` (R459): The supply or coolant leaves its limits, and the device does not start or shuts down. -/
  | moduleLimitsExceeded
  /-- `PORT_ACTIVE` (R444): A peer port's link becomes trained and not fenced, and the port is active again. -/
  | portActive (port : BitVec 4)
  /-- `UNCORRECTABLE_ERROR_IN_LOGIC` (R432): An uncorrectable error in a unit's own logic is detected and declares the unit faulty at once. -/
  | uncorrectableErrorInLogic (kind : BitVec 4) (unit : BitVec 16)
deriving DecidableEq, Repr

end Sys2Proof
end

