-- ==== Sys2Proof/WellFormed.lean ====
section
/-!
DEFINITION. Static well-formedness of an instruction: every field holds a value that the spec allows in it, and every register
field names a register its file has (R93, R94, R96, R97, R107, R108, R291, R322). What depends on the block's register count, the element type
or the mode is checked where the word executes. For an event, the unit it names exists.
-/

namespace Sys2Proof

/-- An s field of 9 bits names s0 to s383 (R100). -/
def sOk (r : BitVec 9) : Bool := decide (r.toNat < 384)
/-- An even s register (R92, R107). -/
def sEven (r : BitVec 9) : Bool := decide (r.toNat < 384) && decide (r.toNat % 2 = 0)
/-- A register operand of an SS word, a pair when the pair bit is set (R91, R107). -/
def pairOk (pair : Bool) (r : BitVec 9) : Bool := decide (r.toNat < 384) && (!pair || decide (r.toNat % 2 = 0))
/-- An even v register. -/
def vEven (r : BitVec 8) : Bool := decide (r.toNat % 2 = 0)
/-- A v register that starts a block of four (R107, R230). -/
def vQuad (r : BitVec 8) : Bool := decide (r.toNat % 4 = 0)
/-- A condition code of the B and SS words; 15 is illegal (R96). -/
def condOk (c : BitVec 4) : Bool := c != 15
/-- A scope code (R93). -/
def scopeOk (s : BitVec 3) : Bool := decide (s.toNat ≤ 5)
/-- A rounding code (R101). -/
def rndOk (r : BitVec 3) : Bool := decide (r.toNat ≤ 5)

/-- The bits of a MODE field (R179). -/
def setmWidth (field : BitVec 4) : Nat :=
  match field.toNat with
  | 0 => 4 | 1 => 1 | 2 => 5 | 3 => 3 | 4 => 1 | _ => 4

/-- A field code and a value that SETM accepts (R103, R179). -/
def setmOk (field : BitVec 4) (v : Nat) : Bool :=
  decide (field.toNat ≤ 5) && decide (v < 2 ^ setmWidth field) && (field != 3 || decide (v < 6))

/-- The index range of an XRS or XWS space (R184); a write may name only the registers that R184 lets it write. -/
def xrIndexOk (write : Bool) (space : BitVec 3) (idx : BitVec 9) : Bool :=
  match space.toNat with
  | 0 => decide (idx.toNat < 384)
  | 1 => decide (idx.toNat < 16)
  | 2 => decide (idx.toNat < 8)
  | 3 => if write then decide (idx.toNat ≤ 5) else decide (idx.toNat ≤ 0x12)
  | _ => false

/-- Whether an instruction is well formed. -/
def Instr.wf : Instr → Bool
  | .nop => true
  | .stop => true
  | .br _ => true
  | .brc cond _ => condOk cond
  | .pbr _ test _ => decide (test.toNat ≤ 2)
  | .call _ => true
  | .ret => true
  | .jmpr sa => sOk sa
  | .loops sc last => sOk sc && last != 0
  | .yield => true
  | .setm field value => setmOk field value.toNat
  | .setmReg field src => decide (field.toNat ≤ 5) && sOk src
  | .setmr sa => sOk sa
  | .getm sd => sOk sd
  | .rdsr sd _ => sOk sd
  | .wrsr sd _ => sOk sd
  | .trap _ => true
  | .hostCallRecord => true
  | .bkpt _ => true
  | .eret => true
  | .xsel sa => sOk sa
  | .xrv _ _ => true
  | .xwv _ _ => true
  | .xrs sd idx space => sOk sd && xrIndexOk false space idx
  | .xws sd idx space => sOk sd && xrIndexOk true space idx
  | .sadd sd sa pair => pairOk pair sd && pairOk pair sa
  | .ssub sd sa pair => pairOk pair sd && pairOk pair sa
  | .smul sd sa pair => pairOk pair sd && pairOk pair sa
  | .smulh sd sa pair => pairOk pair sd && pairOk pair sa
  | .smulhn sd sa pair => pairOk pair sd && pairOk pair sa
  | .sdiv sd sa pair => pairOk pair sd && pairOk pair sa
  | .sdivn sd sa pair => pairOk pair sd && pairOk pair sa
  | .srem sd sa pair => pairOk pair sd && pairOk pair sa
  | .sremn sd sa pair => pairOk pair sd && pairOk pair sa
  | .sand sd sa pair => pairOk pair sd && pairOk pair sa
  | .sor sd sa pair => pairOk pair sd && pairOk pair sa
  | .sxor sd sa pair => pairOk pair sd && pairOk pair sa
  | .sshl sd sa pair => pairOk pair sd && pairOk pair sa
  | .sshr sd sa pair => pairOk pair sd && pairOk pair sa
  | .ssar sd sa pair => pairOk pair sd && pairOk pair sa
  | .smin sd sa pair => pairOk pair sd && pairOk pair sa
  | .smax sd sa pair => pairOk pair sd && pairOk pair sa
  | .sminn sd sa pair => pairOk pair sd && pairOk pair sa
  | .smaxn sd sa pair => pairOk pair sd && pairOk pair sa
  | .smov sd sa pair => pairOk pair sd && pairOk pair sa
  | .snot sd sa pair => pairOk pair sd && pairOk pair sa
  | .sneg sd sa pair => pairOk pair sd && pairOk pair sa
  | .sclz sd sa pair => pairOk pair sd && pairOk pair sa
  | .spopc sd sa pair => pairOk pair sd && pairOk pair sa
  | .scmp sd sa pair => pairOk pair sd && pairOk pair sa
  | .scmpn sd sa pair => pairOk pair sd && pairOk pair sa
  | .saddi sd _ => sOk sd
  | .smovi sd _ => sOk sd
  | .slit sd => sOk sd
  | .saddc sd sa pair => pairOk pair sd && pairOk pair sa
  | .ssubb sd sa pair => pairOk pair sd && pairOk pair sa
  | .ssel sd sa pair cond => pairOk pair sd && pairOk pair sa && condOk cond
  | .pand _ _ _ => true
  | .por _ _ _ => true
  | .pxor _ _ _ => true
  | .pnot _ _ => true
  | .pmov _ _ => true
  | .psets _ src => sOk src
  | .pgets sd _ => sOk sd
  | .pcnt sd _ => sOk sd
  | .pffs sd _ => sOk sd
  | .plane _ src => sOk src
  | .ppush _ => true
  | .ppop _ => true
  | .vadd _ _ _ => true
  | .vsub _ _ _ => true
  | .vmul _ _ _ => true
  | .vmulh _ _ _ => true
  | .vmad _ _ _ => true
  | .vand _ _ _ => true
  | .vor _ _ _ => true
  | .vxor _ _ _ => true
  | .vnot _ _ => true
  | .vshl _ _ _ => true
  | .vshr _ _ _ => true
  | .vmin _ _ _ => true
  | .vmax _ _ _ => true
  | .vabs _ _ => true
  | .vclz _ _ => true
  | .vpopc _ _ => true
  | .vsel _ _ _ => true
  | .vmov _ _ => true
  | .vbcast _ _ => true
  | .vlane _ => true
  | .vshfl _ _ _ => true
  | .vrot _ _ _ => true
  | .vscan _ _ op => decide (op.toNat ≤ 5)
  | .vred _ _ op => decide (op.toNat ≤ 5)
  | .vcmp _ cond _ _ => decide (cond.toNat ≤ 5)
  | .vpack _ _ _ => true
  | .vunpk _ _ _ => true
  | .vhash _ _ => true
  | .vxtr _ _ _ => true
  | .vins _ _ _ => true
  | .vfadd _ _ _ => true
  | .vfsub _ _ _ => true
  | .vfmul _ _ _ => true
  | .vfmulz _ _ _ => true
  | .vfma _ _ _ => true
  | .vfms _ _ _ => true
  | .vfnma _ _ _ => true
  | .vfdiv _ _ _ => true
  | .vfsqrt _ _ => true
  | .vfrsq _ _ => true
  | .vfrcp _ _ => true
  | .vfexp _ _ => true
  | .vfexp2 _ _ => true
  | .vfexpm1 _ _ => true
  | .vflog _ _ => true
  | .vflog2 _ _ => true
  | .vflog1p _ _ => true
  | .vfsin _ _ => true
  | .vfcos _ _ => true
  | .vftan _ _ => true
  | .vfatan _ _ => true
  | .vfatan2 _ _ _ => true
  | .vftanh _ _ => true
  | .vferf _ _ => true
  | .vfpow _ _ _ => true
  | .vfhyp _ _ _ => true
  | .vfmin _ _ _ => true
  | .vfmax _ _ _ => true
  | .vfabs _ _ => true
  | .vfneg _ _ => true
  | .vfcps _ _ _ => true
  | .vfrnd _ _ => true
  | .vftoi _ _ imm => decide (imm.toNat ≤ 7)
  | .vitof _ _ imm => decide (8 ≤ imm.toNat) && decide (imm.toNat ≤ 12)
  | .vfcvt _ _ imm => decide (8 ≤ imm.toNat) && decide (imm.toNat ≤ 12)
  | .vfqnt vd _ vb => vd != vb
  | .vfdq _ _ _ => true
  | .vfcls _ _ => true
  | .vfcmp _ cond _ _ => decide (cond.toNat ≤ 7)
  | .vfsmx _ _ _ => true
  | .vfssq _ _ => true
  | .vfred _ _ op => decide (op.toNat ≤ 2)
  | .vfscan _ _ op => decide (op.toNat ≤ 2)
  | .vfrot _ _ _ => true
  | .vfldx _ _ _ => true
  | .vffrx _ _ _ => true
  | .vfrem _ _ _ => true
  | .ld _ _ _ scope => scopeOk scope
  | .ldf _ _ _ scope => scopeOk scope
  | .ldd _ _ _ scope => scopeOk scope
  | .lda _ _ _ scope => scopeOk scope
  | .st _ _ _ scope => scopeOk scope
  | .stnt _ _ _ scope => scopeOk scope
  | .std _ _ _ scope => scopeOk scope
  | .stl _ _ _ scope => scopeOk scope
  | .drainnt => true
  | .fence scope => scopeOk scope
  | .aadd _ _ _ scope => scopeOk scope
  | .afadd _ _ _ scope => scopeOk scope
  | .amin _ _ _ scope => scopeOk scope
  | .amax _ _ _ scope => scopeOk scope
  | .aand _ _ _ scope => scopeOk scope
  | .aor _ _ _ scope => scopeOk scope
  | .axor _ _ _ scope => scopeOk scope
  | .axchg _ _ _ scope => scopeOk scope
  | .acas _ _ _ scope => scopeOk scope
  | .ldb _ _ _ => true
  | .stb _ _ _ => true
  | .abadd _ _ _ => true
  | .abcas _ _ _ => true
  | .ldc _ _ _ => true
  | .stc _ _ _ => true
  | .pref _ _ scope => scopeOk scope
  | .ldkv _ va src => vEven va && src != 255
  | .stkv _ va src => vEven va && src != 255
  | .kvmap sd sa => sOk sd && sEven sa
  | .kvfork sd sa => sOk sd && decide (sa.toNat ≤ 382)
  | .kvdrop sd sa => sOk sd && decide (sa.toNat ≤ 382)
  | .kvinfo sd sa => decide (sd.toNat ≤ 381) && sEven sa
  | .bar _ => true
  | .bara _ => true
  | .barw _ => true
  | .gbar _ mode => decide (mode.toNat ≤ 2)
  | .hwait _ _ _ => true
  | .hset _ _ => true
  | .wait _ _ _ => true
  | .evpop sd _ => decide (sd.toNat % 4 = 0) && decide (sd.toNat ≤ 380)
  | .qpush sd sa => decide (sd.toNat ≤ 367) && sEven sa
  | .qpop sd sa => decide (sd.toNat ≤ 367) && sEven sa
  | .mwatch sa => sEven sa
  | .mwait => true
  | .launch sd sa => sOk sd && sEven sa
  | .signal sd sa => sOk sd && sEven sa
  | .deal sd => sEven sd
  | .tkick sa => sOk sa
  | .ckpt => true
  | .clock sd => sEven sd
  | .clksync => true
  | .rngk _ va vb => vEven va && vEven vb
  | .rng _ => true
  | .rngs => true
  | .rngf _ _ => true
  | .rngsv vd => vQuad vd
  | .rngld va => vQuad va
  | .illegalInstruction _ => true
  | .matrixStreamIllegal _ => true
  | .tenderIllegal _ => true
  | .mnop => true
  | .mend => true
  | .mli _ _ => true
  | .maddi _ _ => true
  | .mbr ma cond _ => decide (cond.toNat ≤ 4) && (cond != 0 || ma == 0)
  | .mloop _ _ => true
  | .msetf _ => true
  | .mtile _ _ _ => true
  | .mbind slot _ ma mb => (slot != 2 || mb == 0) && (slot != 3 || (ma == 0 && mb == 0))
  | .mrmt src slot _ _ _ => decide (src.toNat ≤ 15) && decide (slot.toNat ≤ 1)
  | .mzero => true
  | .mma _ _ _ => true
  | .mmas _ _ _ => true
  | .mepi _ _ _ _ _ _ _ => true
  | .mepkv _ rnd _ _ _ _ => rndOk rnd
  | .att _ pf rnd _ _ _ _ => rndOk rnd && pf != 3
  | .mbar g mode n => decide (mode.toNat ≤ 2) && (!g || decide (n.toNat ≤ 3))
  | .mwaith md _ _ _ => decide (16 ≤ md.toNat) || md == 0
  | .mhset md _ _ => decide (16 ≤ md.toNat) || md == 0
  | .mchk _ _ => true
  | .mstat _ sel => decide (sel.toNat ≤ 6)
  | .engineWordStart _ blk => decide (blk < 16)
  | .escalationBudget _ blk => decide (blk < 16)
  | .engineWordComplete _ blk => decide (blk < 16)
  | .tnop => true
  | .tend => true
  | .tli _ _ => true
  | .tlih _ _ _ => true
  | .tadd _ _ _ => true
  | .taddImm _ _ _ => true
  | .tsub _ _ _ => true
  | .tsubImm _ _ _ => true
  | .tmul _ _ _ => true
  | .tmulImm _ _ _ => true
  | .tmad _ _ _ => true
  | .tmadImm _ _ _ => true
  | .tshl _ _ _ => true
  | .tshlImm _ _ _ => true
  | .tshr _ _ _ => true
  | .tshrImm _ _ _ => true
  | .tand _ _ _ => true
  | .tandImm _ _ _ => true
  | .tor _ _ _ => true
  | .torImm _ _ _ => true
  | .tmin _ _ _ => true
  | .tminImm _ _ _ => true
  | .tmax _ _ _ => true
  | .tmaxImm _ _ _ => true
  | .tbc _ cond _ => decide (cond.toNat ≤ 5)
  | .tba _ _ _ => true
  | .tloop _ _ => true
  | .tld _ _ sz _ => sz != 3
  | .tldEnv _ idx => decide (idx.toNat ≤ 7)
  | .tst _ _ sz _ => sz == 0 || sz == 2
  | .tldb _ _ _ sz => sz != 3
  | .tdesc _ _ => true
  | .tcopy _ _ _ _ _ _ => true
  | .tstore _ _ _ _ _ _ => true
  | .tcopyl _ _ _ k _ => decide (k.toNat ≤ 4)
  | .tgath _ _ _ _ => true
  | .tscat _ _ _ _ => true
  | .tkvr _ _ _ _ _ _ => true
  | .tkvw _ _ _ _ _ _ => true
  | .tcvt _ _ rnd _ _ => rndOk rnd
  | .tred _ _ _ rnd _ => rndOk rnd
  | .tmcast _ _ _ _ _ _ => true
  | .tbar g n mode => decide (mode.toNat ≤ 2) && (!g || decide (n.toNat ≤ 3))
  | .thset _ _ => true
  | .thwait _ _ _ => true
  | .tevt _ _ _ _ => true
  | .tsend _ _ _ _ => true
  | .trecv _ _ _ _ => true
  | .tfence scope => scopeOk scope
  | .twait n => decide (n.toNat ≤ 15)
  | .ttrap _ => true
  | .tcopylIteration _ blk _ => decide (blk < 16)
  | .copyWordComplete _ blk _ => decide (blk < 16)
  | .eventPost _ blk => decide (blk < 16)
  | .barrierRelease _ blk _ => decide (blk < 16)
  | .variableLatencyWriteback _ blk grp _ => decide (blk < 17) && decide (grp < 64)
  | .replay core unit _ => decide (core < 256) && decide (unit.1 ≤ 16)
  | .beaconTake cluster => decide (cluster < 16)
  | .beaconComplete core entry _ => decide (core < 256) && decide (entry < 512)
  | .lanternTake cluster => decide (cluster < 16)
  | .lanternComplete cluster => decide (cluster < 16)
  | .commit _ _ => true
  | .tinvctl _ => true
  | .translationInvalidationDone => true
  | .kvinvctl _ => true
  | .kvInvalidationDone => true
  | .xrel _ => true
  | .xfail _ => true
  | .handlerStart _ => true
  | .taskDequeue => true
  | .ageing _ => true
  | .gangPlacement => true
  | .reservation => true
  | .drainLimit _ => true
  | .saveComplete _ => true
  | .edgeAction cluster bad => decide (cluster < 16) && decide (bad.getD 0 < 2 ^ 41)
  | .gangStart _ => true
  | .gangCompletion _ => true
  | .gangRetirement _ => true
  | .taskRetirement _ => true
  | .hread _ _ _ => true
  | .hwrite _ _ _ => true
  | .notify _ => true
  | .reply _ _ => true
  | .tinv _ _ _ => true
  | .cancel _ _ => true
  | .srdata _ _ => true
  | .swack _ => true
  | .sares _ _ _ => true
  | .discardedFlit _ => true
  | .mgmtWrite _ _ _ => true
  | .mremove _ _ => true
  | .mattcmd _ _ => true
  | .attestationReport => true
  | .powerGood _ => true
  | .powerCap => true
  | .outletAbove60 => true
  | .outletAbove70 => true
  | .announce _ _ _ => true
  | .grant _ _ _ => true
  | .peerData _ _ _ => true
  | .peerCompletion _ _ => true
  | .portInactive _ => true
  | .pageWalkEnd _ blk grp => decide (blk < 17) && decide (grp < 64)
  | .averageBelowPcap => true
  | .outletBelow60 => true
  | .moduleLimitsExceeded => true
  | .portActive _ => true
  | .uncorrectableErrorInLogic _ _ => true

/-- A well-formed instruction, as a proposition. -/
abbrev WellFormed (i : Instr) : Prop := i.wf = true

end Sys2Proof
end

