-- ==== Sys2Proof/Decode.lean ====
section
/-!
DEFINITION. Decoding of the three instruction streams, total on every word, and the encoder after it (R91, R94, R95, R97, R98, R108,
R291, R292, R322). A word with a reserved opcode, a non-zero reserved bit or an illegal field value decodes to its stream's illegal
instruction, which carries the word. `noncomputable` here says only that Lean's compiler emits no code: its runtime has no tags for an
inductive of this many constructors; the kernel evaluates every definition below.
-/

namespace Sys2Proof

/-- The n-bit field of a word that starts at bit lo. -/
def fieldAt (w : W32) (lo n : Nat) : BitVec n := BitVec.ofNat n (w.toNat / 2 ^ lo)
/-- One bit of a word. -/
def bitAt (w : W32) (lo : Nat) : Bool := w.toNat / 2 ^ lo % 2 == 1
/-- Whether the n bits from lo hold v: reserved and fixed fields. -/
def fixedAt (w : W32) (lo n v : Nat) : Bool := w.toNat / 2 ^ lo % 2 ^ n == v
/-- The 11-bit immediate of a Tender arithmetic word, [11:6] above [4:0] (R291). -/
def immT (w : W32) : BitVec 11 := BitVec.ofNat 11 (w.toNat / 64 % 64 * 32 + w.toNat % 32)
/-- The opcode of a word. -/
def opcodeOf (w : W32) : Nat := w.toNat / 16777216

/-- The fields of a group word, or none for a reserved opcode or a non-zero reserved bit. -/
def decodeGroupFields (w : W32) : Option Instr :=
  match opcodeOf w with
  | 0x00 => if fixedAt w 0 24 0 then some .nop else none
  | 0x01 => if fixedAt w 0 24 0 then some .stop else none
  | 0x02 => if fixedAt w 20 4 0 then some (.br (fieldAt w 0 20)) else none
  | 0x03 => some (.brc (fieldAt w 20 4) (fieldAt w 0 20))
  | 0x04 => some (.pbr (fieldAt w 20 4) (fieldAt w 18 2) (fieldAt w 0 18))
  | 0x05 => if fixedAt w 20 4 0 then some (.call (fieldAt w 0 20)) else none
  | 0x06 => if fixedAt w 0 24 0 then some .ret else none
  | 0x07 => if fixedAt w 0 6 0 && fixedAt w 15 9 0 then some (.jmpr (fieldAt w 6 9)) else none
  | 0x08 => some (.loops (fieldAt w 15 9) (fieldAt w 0 15))
  | 0x09 => if fixedAt w 0 24 0 then some .yield else none
  | 0x0A => if fixedAt w 5 15 0 then some (.setm (fieldAt w 20 4) (fieldAt w 0 5)) else if fixedAt w 0 5 0 && fixedAt w 14 6 32 then some (.setmReg (fieldAt w 20 4) (fieldAt w 5 9)) else none
  | 0x0B => if fixedAt w 0 6 0 && fixedAt w 15 9 0 then some (.setmr (fieldAt w 6 9)) else none
  | 0x0C => if fixedAt w 0 15 0 then some (.getm (fieldAt w 15 9)) else none
  | 0x0D => if fixedAt w 9 6 0 then some (.rdsr (fieldAt w 15 9) (fieldAt w 0 9)) else none
  | 0x0E => if fixedAt w 9 6 0 then some (.wrsr (fieldAt w 15 9) (fieldAt w 0 9)) else none
  | 0x0F => some (.trap (fieldAt w 0 24))
  | 0x10 => some (.bkpt (fieldAt w 0 24))
  | 0x11 => if fixedAt w 0 24 0 then some .eret else none
  | 0x12 => if fixedAt w 0 6 0 && fixedAt w 15 9 0 then some (.xsel (fieldAt w 6 9)) else none
  | 0x13 => if fixedAt w 0 8 0 then some (.xrv (fieldAt w 16 8) (fieldAt w 8 8)) else none
  | 0x14 => if fixedAt w 0 8 0 then some (.xwv (fieldAt w 16 8) (fieldAt w 8 8)) else none
  | 0x15 => if fixedAt w 3 3 0 then some (.xrs (fieldAt w 15 9) (fieldAt w 6 9) (fieldAt w 0 3)) else none
  | 0x16 => if fixedAt w 3 3 0 then some (.xws (fieldAt w 15 9) (fieldAt w 6 9) (fieldAt w 0 3)) else none
  | 0x18 => if fixedAt w 0 5 0 then some (.sadd (fieldAt w 15 9) (fieldAt w 6 9) (bitAt w 5)) else none
  | 0x19 => if fixedAt w 0 5 0 then some (.ssub (fieldAt w 15 9) (fieldAt w 6 9) (bitAt w 5)) else none
  | 0x1A => if fixedAt w 0 5 0 then some (.smul (fieldAt w 15 9) (fieldAt w 6 9) (bitAt w 5)) else none
  | 0x1B => if fixedAt w 0 5 0 then some (.smulh (fieldAt w 15 9) (fieldAt w 6 9) (bitAt w 5)) else none
  | 0x1C => if fixedAt w 0 5 0 then some (.smulhn (fieldAt w 15 9) (fieldAt w 6 9) (bitAt w 5)) else none
  | 0x1D => if fixedAt w 0 5 0 then some (.sdiv (fieldAt w 15 9) (fieldAt w 6 9) (bitAt w 5)) else none
  | 0x1E => if fixedAt w 0 5 0 then some (.sdivn (fieldAt w 15 9) (fieldAt w 6 9) (bitAt w 5)) else none
  | 0x1F => if fixedAt w 0 5 0 then some (.srem (fieldAt w 15 9) (fieldAt w 6 9) (bitAt w 5)) else none
  | 0x20 => if fixedAt w 0 5 0 then some (.sremn (fieldAt w 15 9) (fieldAt w 6 9) (bitAt w 5)) else none
  | 0x21 => if fixedAt w 0 5 0 then some (.sand (fieldAt w 15 9) (fieldAt w 6 9) (bitAt w 5)) else none
  | 0x22 => if fixedAt w 0 5 0 then some (.sor (fieldAt w 15 9) (fieldAt w 6 9) (bitAt w 5)) else none
  | 0x23 => if fixedAt w 0 5 0 then some (.sxor (fieldAt w 15 9) (fieldAt w 6 9) (bitAt w 5)) else none
  | 0x24 => if fixedAt w 0 5 0 then some (.sshl (fieldAt w 15 9) (fieldAt w 6 9) (bitAt w 5)) else none
  | 0x25 => if fixedAt w 0 5 0 then some (.sshr (fieldAt w 15 9) (fieldAt w 6 9) (bitAt w 5)) else none
  | 0x26 => if fixedAt w 0 5 0 then some (.ssar (fieldAt w 15 9) (fieldAt w 6 9) (bitAt w 5)) else none
  | 0x27 => if fixedAt w 0 5 0 then some (.smin (fieldAt w 15 9) (fieldAt w 6 9) (bitAt w 5)) else none
  | 0x28 => if fixedAt w 0 5 0 then some (.smax (fieldAt w 15 9) (fieldAt w 6 9) (bitAt w 5)) else none
  | 0x29 => if fixedAt w 0 5 0 then some (.sminn (fieldAt w 15 9) (fieldAt w 6 9) (bitAt w 5)) else none
  | 0x2A => if fixedAt w 0 5 0 then some (.smaxn (fieldAt w 15 9) (fieldAt w 6 9) (bitAt w 5)) else none
  | 0x2B => if fixedAt w 0 5 0 then some (.smov (fieldAt w 15 9) (fieldAt w 6 9) (bitAt w 5)) else none
  | 0x2C => if fixedAt w 0 5 0 then some (.snot (fieldAt w 15 9) (fieldAt w 6 9) (bitAt w 5)) else none
  | 0x2D => if fixedAt w 0 5 0 then some (.sneg (fieldAt w 15 9) (fieldAt w 6 9) (bitAt w 5)) else none
  | 0x2E => if fixedAt w 0 5 0 then some (.sclz (fieldAt w 15 9) (fieldAt w 6 9) (bitAt w 5)) else none
  | 0x2F => if fixedAt w 0 5 0 then some (.spopc (fieldAt w 15 9) (fieldAt w 6 9) (bitAt w 5)) else none
  | 0x30 => if fixedAt w 0 5 0 then some (.scmp (fieldAt w 15 9) (fieldAt w 6 9) (bitAt w 5)) else none
  | 0x31 => if fixedAt w 0 5 0 then some (.scmpn (fieldAt w 15 9) (fieldAt w 6 9) (bitAt w 5)) else none
  | 0x32 => some (.saddi (fieldAt w 15 9) (fieldAt w 0 15))
  | 0x33 => some (.smovi (fieldAt w 15 9) (fieldAt w 0 15))
  | 0x34 => if fixedAt w 0 15 0 then some (.slit (fieldAt w 15 9)) else none
  | 0x35 => if fixedAt w 0 5 0 then some (.saddc (fieldAt w 15 9) (fieldAt w 6 9) (bitAt w 5)) else none
  | 0x36 => if fixedAt w 0 5 0 then some (.ssubb (fieldAt w 15 9) (fieldAt w 6 9) (bitAt w 5)) else none
  | 0x37 => if fixedAt w 4 1 0 then some (.ssel (fieldAt w 15 9) (fieldAt w 6 9) (bitAt w 5) (fieldAt w 0 4)) else none
  | 0x38 => if fixedAt w 0 12 0 then some (.pand (fieldAt w 20 4) (fieldAt w 16 4) (fieldAt w 12 4)) else none
  | 0x39 => if fixedAt w 0 12 0 then some (.por (fieldAt w 20 4) (fieldAt w 16 4) (fieldAt w 12 4)) else none
  | 0x3A => if fixedAt w 0 12 0 then some (.pxor (fieldAt w 20 4) (fieldAt w 16 4) (fieldAt w 12 4)) else none
  | 0x3B => if fixedAt w 0 16 0 then some (.pnot (fieldAt w 20 4) (fieldAt w 16 4)) else none
  | 0x3C => if fixedAt w 0 16 0 then some (.pmov (fieldAt w 20 4) (fieldAt w 16 4)) else none
  | 0x3D => if fixedAt w 0 3 0 && fixedAt w 12 8 0 then some (.psets (fieldAt w 20 4) (fieldAt w 3 9)) else none
  | 0x3E => if fixedAt w 0 3 0 && fixedAt w 12 4 0 && fixedAt w 20 4 0 then some (.pgets (fieldAt w 3 9) (fieldAt w 16 4)) else none
  | 0x3F => if fixedAt w 0 3 0 && fixedAt w 12 4 0 && fixedAt w 20 4 0 then some (.pcnt (fieldAt w 3 9) (fieldAt w 16 4)) else none
  | 0x40 => if fixedAt w 0 3 0 && fixedAt w 12 4 0 && fixedAt w 20 4 0 then some (.pffs (fieldAt w 3 9) (fieldAt w 16 4)) else none
  | 0x41 => if fixedAt w 0 3 0 && fixedAt w 12 8 0 then some (.plane (fieldAt w 20 4) (fieldAt w 3 9)) else none
  | 0x42 => if fixedAt w 0 16 0 && fixedAt w 20 4 0 then some (.ppush (fieldAt w 16 4)) else none
  | 0x43 => if fixedAt w 0 20 0 then some (.ppop (fieldAt w 20 4)) else none
  | 0x48 => some (.vadd (fieldAt w 16 8) (fieldAt w 8 8) (fieldAt w 0 8))
  | 0x49 => some (.vsub (fieldAt w 16 8) (fieldAt w 8 8) (fieldAt w 0 8))
  | 0x4A => some (.vmul (fieldAt w 16 8) (fieldAt w 8 8) (fieldAt w 0 8))
  | 0x4B => some (.vmulh (fieldAt w 16 8) (fieldAt w 8 8) (fieldAt w 0 8))
  | 0x4C => some (.vmad (fieldAt w 16 8) (fieldAt w 8 8) (fieldAt w 0 8))
  | 0x4D => some (.vand (fieldAt w 16 8) (fieldAt w 8 8) (fieldAt w 0 8))
  | 0x4E => some (.vor (fieldAt w 16 8) (fieldAt w 8 8) (fieldAt w 0 8))
  | 0x4F => some (.vxor (fieldAt w 16 8) (fieldAt w 8 8) (fieldAt w 0 8))
  | 0x50 => if fixedAt w 0 8 0 then some (.vnot (fieldAt w 16 8) (fieldAt w 8 8)) else none
  | 0x51 => some (.vshl (fieldAt w 16 8) (fieldAt w 8 8) (fieldAt w 0 8))
  | 0x52 => some (.vshr (fieldAt w 16 8) (fieldAt w 8 8) (fieldAt w 0 8))
  | 0x53 => some (.vmin (fieldAt w 16 8) (fieldAt w 8 8) (fieldAt w 0 8))
  | 0x54 => some (.vmax (fieldAt w 16 8) (fieldAt w 8 8) (fieldAt w 0 8))
  | 0x55 => if fixedAt w 0 8 0 then some (.vabs (fieldAt w 16 8) (fieldAt w 8 8)) else none
  | 0x56 => if fixedAt w 0 8 0 then some (.vclz (fieldAt w 16 8) (fieldAt w 8 8)) else none
  | 0x57 => if fixedAt w 0 8 0 then some (.vpopc (fieldAt w 16 8) (fieldAt w 8 8)) else none
  | 0x58 => some (.vsel (fieldAt w 16 8) (fieldAt w 8 8) (fieldAt w 0 8))
  | 0x59 => if fixedAt w 0 8 0 then some (.vmov (fieldAt w 16 8) (fieldAt w 8 8)) else none
  | 0x5A => if fixedAt w 0 8 0 then some (.vbcast (fieldAt w 16 8) (fieldAt w 8 8)) else none
  | 0x5B => if fixedAt w 0 16 0 then some (.vlane (fieldAt w 16 8)) else none
  | 0x5C => some (.vshfl (fieldAt w 16 8) (fieldAt w 8 8) (fieldAt w 0 8))
  | 0x5D => if fixedAt w 5 3 0 then some (.vrot (fieldAt w 16 8) (fieldAt w 8 8) (fieldAt w 0 5)) else none
  | 0x5E => if fixedAt w 4 4 0 then some (.vscan (fieldAt w 16 8) (fieldAt w 8 8) (fieldAt w 0 4)) else none
  | 0x5F => if fixedAt w 4 4 0 then some (.vred (fieldAt w 16 8) (fieldAt w 8 8) (fieldAt w 0 4)) else none
  | 0x60 => some (.vcmp (fieldAt w 20 4) (fieldAt w 16 4) (fieldAt w 8 8) (fieldAt w 0 8))
  | 0x61 => some (.vpack (fieldAt w 16 8) (fieldAt w 8 8) (fieldAt w 0 8))
  | 0x62 => if fixedAt w 2 6 0 then some (.vunpk (fieldAt w 16 8) (fieldAt w 8 8) (fieldAt w 0 2)) else none
  | 0x63 => if fixedAt w 0 8 0 then some (.vhash (fieldAt w 16 8) (fieldAt w 8 8)) else none
  | 0x64 => if fixedAt w 0 3 0 then some (.vxtr (fieldAt w 16 8) (fieldAt w 8 8) (fieldAt w 3 5)) else none
  | 0x65 => if fixedAt w 0 3 0 then some (.vins (fieldAt w 16 8) (fieldAt w 8 8) (fieldAt w 3 5)) else none
  | 0x68 => some (.vfadd (fieldAt w 16 8) (fieldAt w 8 8) (fieldAt w 0 8))
  | 0x69 => some (.vfsub (fieldAt w 16 8) (fieldAt w 8 8) (fieldAt w 0 8))
  | 0x6A => some (.vfmul (fieldAt w 16 8) (fieldAt w 8 8) (fieldAt w 0 8))
  | 0x6B => some (.vfmulz (fieldAt w 16 8) (fieldAt w 8 8) (fieldAt w 0 8))
  | 0x6C => some (.vfma (fieldAt w 16 8) (fieldAt w 8 8) (fieldAt w 0 8))
  | 0x6D => some (.vfms (fieldAt w 16 8) (fieldAt w 8 8) (fieldAt w 0 8))
  | 0x6E => some (.vfnma (fieldAt w 16 8) (fieldAt w 8 8) (fieldAt w 0 8))
  | 0x6F => some (.vfdiv (fieldAt w 16 8) (fieldAt w 8 8) (fieldAt w 0 8))
  | 0x70 => if fixedAt w 0 8 0 then some (.vfsqrt (fieldAt w 16 8) (fieldAt w 8 8)) else none
  | 0x71 => if fixedAt w 0 8 0 then some (.vfrsq (fieldAt w 16 8) (fieldAt w 8 8)) else none
  | 0x72 => if fixedAt w 0 8 0 then some (.vfrcp (fieldAt w 16 8) (fieldAt w 8 8)) else none
  | 0x73 => if fixedAt w 0 8 0 then some (.vfexp (fieldAt w 16 8) (fieldAt w 8 8)) else none
  | 0x74 => if fixedAt w 0 8 0 then some (.vfexp2 (fieldAt w 16 8) (fieldAt w 8 8)) else none
  | 0x75 => if fixedAt w 0 8 0 then some (.vfexpm1 (fieldAt w 16 8) (fieldAt w 8 8)) else none
  | 0x76 => if fixedAt w 0 8 0 then some (.vflog (fieldAt w 16 8) (fieldAt w 8 8)) else none
  | 0x77 => if fixedAt w 0 8 0 then some (.vflog2 (fieldAt w 16 8) (fieldAt w 8 8)) else none
  | 0x78 => if fixedAt w 0 8 0 then some (.vflog1p (fieldAt w 16 8) (fieldAt w 8 8)) else none
  | 0x79 => if fixedAt w 0 8 0 then some (.vfsin (fieldAt w 16 8) (fieldAt w 8 8)) else none
  | 0x7A => if fixedAt w 0 8 0 then some (.vfcos (fieldAt w 16 8) (fieldAt w 8 8)) else none
  | 0x7B => if fixedAt w 0 8 0 then some (.vftan (fieldAt w 16 8) (fieldAt w 8 8)) else none
  | 0x7C => if fixedAt w 0 8 0 then some (.vfatan (fieldAt w 16 8) (fieldAt w 8 8)) else none
  | 0x7D => some (.vfatan2 (fieldAt w 16 8) (fieldAt w 8 8) (fieldAt w 0 8))
  | 0x7E => if fixedAt w 0 8 0 then some (.vftanh (fieldAt w 16 8) (fieldAt w 8 8)) else none
  | 0x7F => if fixedAt w 0 8 0 then some (.vferf (fieldAt w 16 8) (fieldAt w 8 8)) else none
  | 0x80 => some (.vfpow (fieldAt w 16 8) (fieldAt w 8 8) (fieldAt w 0 8))
  | 0x81 => some (.vfhyp (fieldAt w 16 8) (fieldAt w 8 8) (fieldAt w 0 8))
  | 0x82 => some (.vfmin (fieldAt w 16 8) (fieldAt w 8 8) (fieldAt w 0 8))
  | 0x83 => some (.vfmax (fieldAt w 16 8) (fieldAt w 8 8) (fieldAt w 0 8))
  | 0x84 => if fixedAt w 0 8 0 then some (.vfabs (fieldAt w 16 8) (fieldAt w 8 8)) else none
  | 0x85 => if fixedAt w 0 8 0 then some (.vfneg (fieldAt w 16 8) (fieldAt w 8 8)) else none
  | 0x86 => some (.vfcps (fieldAt w 16 8) (fieldAt w 8 8) (fieldAt w 0 8))
  | 0x87 => if fixedAt w 0 8 0 then some (.vfrnd (fieldAt w 16 8) (fieldAt w 8 8)) else none
  | 0x88 => if fixedAt w 5 3 0 then some (.vftoi (fieldAt w 16 8) (fieldAt w 8 8) (fieldAt w 0 5)) else none
  | 0x89 => if fixedAt w 5 3 0 then some (.vitof (fieldAt w 16 8) (fieldAt w 8 8) (fieldAt w 0 5)) else none
  | 0x8A => if fixedAt w 5 3 0 then some (.vfcvt (fieldAt w 16 8) (fieldAt w 8 8) (fieldAt w 0 5)) else none
  | 0x8B => some (.vfqnt (fieldAt w 16 8) (fieldAt w 8 8) (fieldAt w 0 8))
  | 0x8C => some (.vfdq (fieldAt w 16 8) (fieldAt w 8 8) (fieldAt w 0 8))
  | 0x8D => if fixedAt w 0 8 0 then some (.vfcls (fieldAt w 16 8) (fieldAt w 8 8)) else none
  | 0x8E => some (.vfcmp (fieldAt w 20 4) (fieldAt w 16 4) (fieldAt w 8 8) (fieldAt w 0 8))
  | 0x8F => some (.vfsmx (fieldAt w 16 8) (fieldAt w 8 8) (fieldAt w 0 8))
  | 0x90 => if fixedAt w 0 8 0 then some (.vfssq (fieldAt w 16 8) (fieldAt w 8 8)) else none
  | 0x91 => if fixedAt w 4 4 0 then some (.vfred (fieldAt w 16 8) (fieldAt w 8 8) (fieldAt w 0 4)) else none
  | 0x92 => if fixedAt w 4 4 0 then some (.vfscan (fieldAt w 16 8) (fieldAt w 8 8) (fieldAt w 0 4)) else none
  | 0x93 => some (.vfrot (fieldAt w 16 8) (fieldAt w 8 8) (fieldAt w 0 8))
  | 0x94 => some (.vfldx (fieldAt w 16 8) (fieldAt w 8 8) (fieldAt w 0 8))
  | 0x95 => if fixedAt w 1 7 0 then some (.vffrx (fieldAt w 16 8) (fieldAt w 8 8) (fieldAt w 0 1)) else none
  | 0x96 => some (.vfrem (fieldAt w 16 8) (fieldAt w 8 8) (fieldAt w 0 8))
  | 0xA0 => some (.ld (fieldAt w 16 8) (fieldAt w 8 8) (fieldAt w 3 5) (fieldAt w 0 3))
  | 0xA1 => some (.ldf (fieldAt w 16 8) (fieldAt w 8 8) (fieldAt w 3 5) (fieldAt w 0 3))
  | 0xA2 => some (.ldd (fieldAt w 16 8) (fieldAt w 8 8) (fieldAt w 3 5) (fieldAt w 0 3))
  | 0xA3 => some (.lda (fieldAt w 16 8) (fieldAt w 8 8) (fieldAt w 3 5) (fieldAt w 0 3))
  | 0xA4 => some (.st (fieldAt w 16 8) (fieldAt w 8 8) (fieldAt w 3 5) (fieldAt w 0 3))
  | 0xA5 => some (.stnt (fieldAt w 16 8) (fieldAt w 8 8) (fieldAt w 3 5) (fieldAt w 0 3))
  | 0xA6 => some (.std (fieldAt w 16 8) (fieldAt w 8 8) (fieldAt w 3 5) (fieldAt w 0 3))
  | 0xA7 => some (.stl (fieldAt w 16 8) (fieldAt w 8 8) (fieldAt w 3 5) (fieldAt w 0 3))
  | 0xA8 => if fixedAt w 0 24 0 then some .drainnt else none
  | 0xA9 => if fixedAt w 3 21 0 then some (.fence (fieldAt w 0 3)) else none
  | 0xAA => some (.aadd (fieldAt w 16 8) (fieldAt w 8 8) (fieldAt w 3 5) (fieldAt w 0 3))
  | 0xAB => some (.afadd (fieldAt w 16 8) (fieldAt w 8 8) (fieldAt w 3 5) (fieldAt w 0 3))
  | 0xAC => some (.amin (fieldAt w 16 8) (fieldAt w 8 8) (fieldAt w 3 5) (fieldAt w 0 3))
  | 0xAD => some (.amax (fieldAt w 16 8) (fieldAt w 8 8) (fieldAt w 3 5) (fieldAt w 0 3))
  | 0xAE => some (.aand (fieldAt w 16 8) (fieldAt w 8 8) (fieldAt w 3 5) (fieldAt w 0 3))
  | 0xAF => some (.aor (fieldAt w 16 8) (fieldAt w 8 8) (fieldAt w 3 5) (fieldAt w 0 3))
  | 0xB0 => some (.axor (fieldAt w 16 8) (fieldAt w 8 8) (fieldAt w 3 5) (fieldAt w 0 3))
  | 0xB1 => some (.axchg (fieldAt w 16 8) (fieldAt w 8 8) (fieldAt w 3 5) (fieldAt w 0 3))
  | 0xB2 => some (.acas (fieldAt w 16 8) (fieldAt w 8 8) (fieldAt w 3 5) (fieldAt w 0 3))
  | 0xB3 => if fixedAt w 0 2 0 then some (.ldb (fieldAt w 16 8) (fieldAt w 8 8) (fieldAt w 2 6)) else none
  | 0xB4 => if fixedAt w 0 2 0 then some (.stb (fieldAt w 16 8) (fieldAt w 8 8) (fieldAt w 2 6)) else none
  | 0xB5 => if fixedAt w 0 2 0 then some (.abadd (fieldAt w 16 8) (fieldAt w 8 8) (fieldAt w 2 6)) else none
  | 0xB6 => if fixedAt w 0 2 0 then some (.abcas (fieldAt w 16 8) (fieldAt w 8 8) (fieldAt w 2 6)) else none
  | 0xB7 => if fixedAt w 0 2 0 then some (.ldc (fieldAt w 16 8) (fieldAt w 8 8) (fieldAt w 2 6)) else none
  | 0xB8 => if fixedAt w 0 2 0 then some (.stc (fieldAt w 16 8) (fieldAt w 8 8) (fieldAt w 2 6)) else none
  | 0xB9 => if fixedAt w 16 8 0 then some (.pref (fieldAt w 8 8) (fieldAt w 3 5) (fieldAt w 0 3)) else none
  | 0xBA => some (.ldkv (fieldAt w 16 8) (fieldAt w 8 8) (fieldAt w 0 8))
  | 0xBB => some (.stkv (fieldAt w 16 8) (fieldAt w 8 8) (fieldAt w 0 8))
  | 0xBC => if fixedAt w 0 6 0 then some (.kvmap (fieldAt w 15 9) (fieldAt w 6 9)) else none
  | 0xBD => if fixedAt w 0 6 0 then some (.kvfork (fieldAt w 15 9) (fieldAt w 6 9)) else none
  | 0xBE => if fixedAt w 0 6 0 then some (.kvdrop (fieldAt w 15 9) (fieldAt w 6 9)) else none
  | 0xBF => if fixedAt w 0 6 0 then some (.kvinfo (fieldAt w 15 9) (fieldAt w 6 9)) else none
  | 0xC0 => if fixedAt w 0 20 0 then some (.bar (fieldAt w 20 4)) else none
  | 0xC1 => if fixedAt w 0 20 0 then some (.bara (fieldAt w 20 4)) else none
  | 0xC2 => if fixedAt w 0 20 0 then some (.barw (fieldAt w 20 4)) else none
  | 0xC3 => if fixedAt w 0 20 0 then some (.gbar (fieldAt w 22 2) (fieldAt w 20 2)) else none
  | 0xC4 => if fixedAt w 0 15 0 then some (.hwait (fieldAt w 18 6) (fieldAt w 16 2) (fieldAt w 15 1)) else none
  | 0xC5 => if fixedAt w 0 16 0 then some (.hset (fieldAt w 18 6) (fieldAt w 16 2)) else none
  | 0xC6 => if fixedAt w 0 6 0 then some (.wait (fieldAt w 18 6) (fieldAt w 12 6) (fieldAt w 6 6)) else none
  | 0xC7 => if fixedAt w 1 14 0 then some (.evpop (fieldAt w 15 9) (bitAt w 0)) else none
  | 0xC8 => if fixedAt w 0 6 0 then some (.qpush (fieldAt w 15 9) (fieldAt w 6 9)) else none
  | 0xC9 => if fixedAt w 0 6 0 then some (.qpop (fieldAt w 15 9) (fieldAt w 6 9)) else none
  | 0xCA => if fixedAt w 0 6 0 && fixedAt w 15 9 0 then some (.mwatch (fieldAt w 6 9)) else none
  | 0xCB => if fixedAt w 0 24 0 then some .mwait else none
  | 0xCC => if fixedAt w 0 6 0 then some (.launch (fieldAt w 15 9) (fieldAt w 6 9)) else none
  | 0xCD => if fixedAt w 0 6 0 then some (.signal (fieldAt w 15 9) (fieldAt w 6 9)) else none
  | 0xCE => if fixedAt w 0 15 0 then some (.deal (fieldAt w 15 9)) else none
  | 0xCF => if fixedAt w 0 6 0 && fixedAt w 15 9 0 then some (.tkick (fieldAt w 6 9)) else none
  | 0xD0 => if fixedAt w 0 24 0 then some .ckpt else none
  | 0xD1 => if fixedAt w 0 15 0 then some (.clock (fieldAt w 15 9)) else none
  | 0xD2 => if fixedAt w 0 24 0 then some .clksync else none
  | 0xD4 => some (.rngk (fieldAt w 16 8) (fieldAt w 8 8) (fieldAt w 0 8))
  | 0xD5 => if fixedAt w 0 16 0 then some (.rng (fieldAt w 16 8)) else none
  | 0xD6 => if fixedAt w 0 24 0 then some .rngs else none
  | 0xD7 => if fixedAt w 0 8 0 then some (.rngf (fieldAt w 16 8) (fieldAt w 8 8)) else none
  | 0xD8 => if fixedAt w 0 16 0 then some (.rngsv (fieldAt w 16 8)) else none
  | 0xD9 => if fixedAt w 0 8 0 && fixedAt w 16 8 0 then some (.rngld (fieldAt w 8 8)) else none
  | _ => none

/-- Decoding a word of the group stream. -/
def decodeGroup (w : W32) : Instr :=
  match decodeGroupFields w with
  | some i => if i.wf then i else .illegalInstruction w
  | none => .illegalInstruction w

/-- The fields of a matrix word, or none for a reserved opcode or a non-zero reserved bit. -/
def decodeMatrixFields (w : W32) : Option Instr :=
  match opcodeOf w with
  | 0x00 => if fixedAt w 0 24 0 then some .mnop else none
  | 0x01 => if fixedAt w 0 24 0 then some .mend else none
  | 0x02 => some (.mli (fieldAt w 19 5) (fieldAt w 0 19))
  | 0x03 => some (.maddi (fieldAt w 19 5) (fieldAt w 0 19))
  | 0x04 => some (.mbr (fieldAt w 19 5) (fieldAt w 16 3) (fieldAt w 0 16))
  | 0x05 => if fixedAt w 16 3 0 then some (.mloop (fieldAt w 19 5) (fieldAt w 0 16)) else none
  | 0x06 => if fixedAt w 0 14 0 && fixedAt w 19 5 0 then some (.msetf (fieldAt w 14 5)) else none
  | 0x07 => if fixedAt w 8 6 0 && fixedAt w 19 5 0 then some (.mtile (fieldAt w 0 4) (fieldAt w 4 4) (fieldAt w 14 5)) else none
  | 0x08 => if fixedAt w 0 1 0 && fixedAt w 19 5 0 then some (.mbind (fieldAt w 7 2) (fieldAt w 1 6) (fieldAt w 14 5) (fieldAt w 9 5)) else none
  | 0x09 => if fixedAt w 0 1 0 then some (.mrmt (fieldAt w 19 5) (fieldAt w 7 2) (fieldAt w 1 6) (fieldAt w 14 5) (fieldAt w 9 5)) else none
  | 0x0A => if fixedAt w 0 24 0 then some .mzero else none
  | 0x0B => if fixedAt w 3 21 0 then some (.mma (bitAt w 0) (bitAt w 1) (bitAt w 2)) else none
  | 0x0C => if fixedAt w 3 21 0 then some (.mmas (bitAt w 0) (bitAt w 1) (bitAt w 2)) else none
  | 0x0D => some (.mepi (fieldAt w 3 6) (bitAt w 0) (bitAt w 1) (bitAt w 2) (fieldAt w 19 5) (fieldAt w 14 5) (fieldAt w 9 5))
  | 0x0E => if fixedAt w 0 2 0 && fixedAt w 6 2 0 then some (.mepkv (bitAt w 8) (fieldAt w 3 3) (bitAt w 2) (fieldAt w 19 5) (fieldAt w 14 5) (fieldAt w 9 5)) else none
  | 0x0F => if fixedAt w 0 2 0 then some (.att (bitAt w 8) (fieldAt w 6 2) (fieldAt w 3 3) (bitAt w 2) (fieldAt w 19 5) (fieldAt w 14 5) (fieldAt w 9 5)) else none
  | 0x10 => if fixedAt w 4 2 0 && fixedAt w 9 15 0 then some (.mbar (bitAt w 8) (fieldAt w 6 2) (fieldAt w 0 4)) else none
  | 0x11 => if fixedAt w 9 10 0 then some (.mwaith (fieldAt w 19 5) (fieldAt w 3 6) (fieldAt w 1 2) (fieldAt w 0 1)) else none
  | 0x12 => if fixedAt w 0 1 0 && fixedAt w 9 10 0 then some (.mhset (fieldAt w 19 5) (fieldAt w 3 6) (fieldAt w 1 2)) else none
  | 0x13 => if fixedAt w 1 18 0 then some (.mchk (bitAt w 0) (fieldAt w 19 5)) else none
  | 0x14 => if fixedAt w 4 15 0 then some (.mstat (fieldAt w 19 5) (fieldAt w 0 4)) else none
  | _ => none

/-- Decoding a word of the matrix stream. -/
def decodeMatrix (w : W32) : Instr :=
  match decodeMatrixFields w with
  | some i => if i.wf then i else .matrixStreamIllegal w
  | none => .matrixStreamIllegal w

/-- The fields of a tender word, or none for a reserved opcode or a non-zero reserved bit. -/
noncomputable def decodeTenderFields (w : W32) : Option Instr :=
  match opcodeOf w with
  | 0x00 => if fixedAt w 0 24 0 then some .tnop else none
  | 0x01 => if fixedAt w 0 24 0 then some .tend else none
  | 0x02 => some (.tli (fieldAt w 18 6) (fieldAt w 0 18))
  | 0x03 => some (.tlih (fieldAt w 18 6) (fieldAt w 16 2) (fieldAt w 0 16))
  | 0x04 => if fixedAt w 0 6 0 then some (.tadd (fieldAt w 18 6) (fieldAt w 12 6) (fieldAt w 6 6)) else if fixedAt w 5 1 1 then some (.taddImm (fieldAt w 18 6) (fieldAt w 12 6) (immT w)) else none
  | 0x05 => if fixedAt w 0 6 0 then some (.tsub (fieldAt w 18 6) (fieldAt w 12 6) (fieldAt w 6 6)) else if fixedAt w 5 1 1 then some (.tsubImm (fieldAt w 18 6) (fieldAt w 12 6) (immT w)) else none
  | 0x06 => if fixedAt w 0 6 0 then some (.tmul (fieldAt w 18 6) (fieldAt w 12 6) (fieldAt w 6 6)) else if fixedAt w 5 1 1 then some (.tmulImm (fieldAt w 18 6) (fieldAt w 12 6) (immT w)) else none
  | 0x07 => if fixedAt w 0 6 0 then some (.tmad (fieldAt w 18 6) (fieldAt w 12 6) (fieldAt w 6 6)) else if fixedAt w 5 1 1 then some (.tmadImm (fieldAt w 18 6) (fieldAt w 12 6) (immT w)) else none
  | 0x08 => if fixedAt w 0 6 0 then some (.tshl (fieldAt w 18 6) (fieldAt w 12 6) (fieldAt w 6 6)) else if fixedAt w 5 1 1 then some (.tshlImm (fieldAt w 18 6) (fieldAt w 12 6) (immT w)) else none
  | 0x09 => if fixedAt w 0 6 0 then some (.tshr (fieldAt w 18 6) (fieldAt w 12 6) (fieldAt w 6 6)) else if fixedAt w 5 1 1 then some (.tshrImm (fieldAt w 18 6) (fieldAt w 12 6) (immT w)) else none
  | 0x0A => if fixedAt w 0 6 0 then some (.tand (fieldAt w 18 6) (fieldAt w 12 6) (fieldAt w 6 6)) else if fixedAt w 5 1 1 then some (.tandImm (fieldAt w 18 6) (fieldAt w 12 6) (immT w)) else none
  | 0x0B => if fixedAt w 0 6 0 then some (.tor (fieldAt w 18 6) (fieldAt w 12 6) (fieldAt w 6 6)) else if fixedAt w 5 1 1 then some (.torImm (fieldAt w 18 6) (fieldAt w 12 6) (immT w)) else none
  | 0x0C => if fixedAt w 0 6 0 then some (.tmin (fieldAt w 18 6) (fieldAt w 12 6) (fieldAt w 6 6)) else if fixedAt w 5 1 1 then some (.tminImm (fieldAt w 18 6) (fieldAt w 12 6) (immT w)) else none
  | 0x0D => if fixedAt w 0 6 0 then some (.tmax (fieldAt w 18 6) (fieldAt w 12 6) (fieldAt w 6 6)) else if fixedAt w 5 1 1 then some (.tmaxImm (fieldAt w 18 6) (fieldAt w 12 6) (immT w)) else none
  | 0x0E => some (.tbc (fieldAt w 18 6) (fieldAt w 15 3) (fieldAt w 0 15))
  | 0x0F => some (.tba (fieldAt w 18 6) (fieldAt w 12 6) (fieldAt w 0 12))
  | 0x10 => some (.tloop (fieldAt w 18 6) (fieldAt w 0 18))
  | 0x11 => if fixedAt w 10 8 3 then some (.tldEnv (fieldAt w 18 6) (fieldAt w 0 10)) else some (.tld (fieldAt w 18 6) (fieldAt w 12 6) (fieldAt w 10 2) (fieldAt w 0 10))
  | 0x12 => some (.tst (fieldAt w 18 6) (fieldAt w 12 6) (fieldAt w 10 2) (fieldAt w 0 10))
  | 0x13 => if fixedAt w 0 4 0 then some (.tldb (fieldAt w 18 6) (fieldAt w 12 6) (fieldAt w 6 6) (fieldAt w 4 2)) else none
  | 0x14 => if fixedAt w 0 12 0 && fixedAt w 22 2 0 then some (.tdesc (fieldAt w 18 4) (fieldAt w 12 6)) else none
  | 0x15 => if fixedAt w 3 3 0 && fixedAt w 22 2 0 then some (.tcopy (fieldAt w 18 4) (fieldAt w 12 6) (fieldAt w 6 6) (bitAt w 0) (bitAt w 1) (bitAt w 2)) else none
  | 0x16 => if fixedAt w 3 3 0 && fixedAt w 22 2 0 then some (.tstore (fieldAt w 18 4) (fieldAt w 12 6) (fieldAt w 6 6) (bitAt w 0) (bitAt w 1) (bitAt w 2)) else none
  | 0x17 => if fixedAt w 22 2 0 then some (.tcopyl (fieldAt w 18 4) (fieldAt w 12 6) (fieldAt w 6 6) (fieldAt w 3 3) (fieldAt w 0 3)) else none
  | 0x18 => if fixedAt w 22 2 0 then some (.tgath (fieldAt w 18 4) (fieldAt w 12 6) (fieldAt w 6 6) (fieldAt w 0 6)) else none
  | 0x19 => if fixedAt w 22 2 0 then some (.tscat (fieldAt w 18 4) (fieldAt w 12 6) (fieldAt w 6 6) (fieldAt w 0 6)) else none
  | 0x1A => if fixedAt w 3 3 0 && fixedAt w 22 2 0 then some (.tkvr (fieldAt w 18 4) (fieldAt w 12 6) (fieldAt w 6 6) (bitAt w 0) (bitAt w 1) (bitAt w 2)) else none
  | 0x1B => if fixedAt w 3 3 0 && fixedAt w 22 2 0 then some (.tkvw (fieldAt w 18 4) (fieldAt w 12 6) (fieldAt w 6 6) (bitAt w 0) (bitAt w 1) (bitAt w 2)) else none
  | 0x1C => if fixedAt w 5 7 0 && fixedAt w 16 2 0 && fixedAt w 22 2 0 then some (.tcvt (fieldAt w 18 4) (fieldAt w 12 4) (fieldAt w 0 3) (bitAt w 3) (bitAt w 4)) else none
  | 0x1D => if fixedAt w 4 2 0 && fixedAt w 16 2 0 && fixedAt w 22 2 0 then some (.tred (fieldAt w 18 4) (fieldAt w 12 4) (fieldAt w 6 6) (fieldAt w 0 3) (bitAt w 3)) else none
  | 0x1E => if fixedAt w 3 3 0 && fixedAt w 22 2 0 then some (.tmcast (fieldAt w 18 4) (fieldAt w 12 6) (fieldAt w 6 6) (bitAt w 0) (bitAt w 1) (bitAt w 2)) else none
  | 0x1F => if fixedAt w 0 16 0 && fixedAt w 22 1 0 then some (.tbar (bitAt w 23) (fieldAt w 18 4) (fieldAt w 16 2)) else none
  | 0x20 => if fixedAt w 0 16 0 then some (.thset (fieldAt w 18 6) (fieldAt w 16 2)) else none
  | 0x21 => if fixedAt w 0 15 0 then some (.thwait (fieldAt w 18 6) (fieldAt w 16 2) (fieldAt w 15 1)) else none
  | 0x22 => some (.tevt (fieldAt w 18 6) (fieldAt w 2 16) (bitAt w 1) (bitAt w 0))
  | 0x23 => if fixedAt w 0 2 0 && fixedAt w 3 3 0 && fixedAt w 22 2 0 then some (.tsend (fieldAt w 18 4) (fieldAt w 12 6) (fieldAt w 6 6) (bitAt w 2)) else none
  | 0x24 => if fixedAt w 0 2 0 && fixedAt w 3 3 0 && fixedAt w 22 2 0 then some (.trecv (fieldAt w 18 4) (fieldAt w 12 6) (fieldAt w 6 6) (bitAt w 2)) else none
  | 0x25 => if fixedAt w 3 21 0 then some (.tfence (fieldAt w 0 3)) else none
  | 0x26 => if fixedAt w 0 16 0 then some (.twait (fieldAt w 16 8)) else none
  | 0x27 => some (.ttrap (fieldAt w 0 24))
  | _ => none

/-- Decoding a word of the tender stream. -/
noncomputable def decodeTender (w : W32) : Instr :=
  match decodeTenderFields w with
  | some i => if i.wf then i else .tenderIllegal w
  | none => .tenderIllegal w

/-- The three streams. -/
inductive Stream where
  | group | matrix | tender
deriving DecidableEq, Repr

/-- Decoding a word of a stream. -/
noncomputable def decodeWord (st : Stream) (w : W32) : Instr :=
  match st with
  | .group => decodeGroup w
  | .matrix => decodeMatrix w
  | .tender => decodeTender w

/-- The little-endian word of four bytes (R85). -/
def wordOfBytes (b0 b1 b2 b3 : Byte) : W32 :=
  BitVec.ofNat 32 (b0.toNat + 256 * b1.toNat + 65536 * b2.toNat + 16777216 * b3.toNat)

/-- Decoding the first four bytes of a list, with the rest of the list; none where fewer than four bytes are left. -/
noncomputable def decodeBytes (st : Stream) : List Byte → Option (Instr × List Byte)
  | b0 :: b1 :: b2 :: b3 :: rest => some (decodeWord st (wordOfBytes b0 b1 b2 b3), rest)
  | _ => none

/-- Whether a decoded instruction is one of the three illegal ones. -/
def Instr.isIllegal : Instr → Bool
  | .illegalInstruction _ => true
  | .matrixStreamIllegal _ => true
  | .tenderIllegal _ => true
  | _ => false

/-- The stream in which the model reads a table word: the first of the group, matrix and Tender maps that has a meaning for
it. The three maps share their words (R97, R98), so a word alone does not name its stream (log entry 25). -/
def tableStream (w : W32) : Stream :=
  if !(decodeGroup w).isIllegal then .group
  else if !(decodeMatrix w).isIllegal then .matrix
  else .tender

/-- The instruction that the decoder reads from a table word of `nbits` bits. -/
noncomputable def decodeTableWord (nbits w : Nat) : Option Instr :=
  let x : W32 := BitVec.ofNat 32 (w % 2 ^ nbits)
  let i := decodeWord (tableStream x) x
  if i.isIllegal then none else some i

/-! ## The encoder -/

/-- A word from its opcode and the sum of its fields at their places. -/
def mkWord (op body : Nat) : W32 := BitVec.ofNat 32 (op * 16777216 + body)

/-- The word of an instruction; none for an event, which has none. An illegal instruction is its word. -/
def encode : Instr → Option W32
  | .nop => some (mkWord 0x00 (0))
  | .stop => some (mkWord 0x01 (0))
  | .br off => some (mkWord 0x02 (off.toNat))
  | .brc cond off => some (mkWord 0x03 (cond.toNat * 1048576 + off.toNat))
  | .pbr p test off => some (mkWord 0x04 (p.toNat * 1048576 + test.toNat * 262144 + off.toNat))
  | .call off => some (mkWord 0x05 (off.toNat))
  | .ret => some (mkWord 0x06 (0))
  | .jmpr sa => some (mkWord 0x07 (sa.toNat * 64))
  | .loops sc last => some (mkWord 0x08 (sc.toNat * 32768 + last.toNat))
  | .yield => some (mkWord 0x09 (0))
  | .setm field value => some (mkWord 0x0A (field.toNat * 1048576 + value.toNat))
  | .setmReg field src => some (mkWord 0x0A (field.toNat * 1048576 + src.toNat * 32 + 524288))
  | .setmr sa => some (mkWord 0x0B (sa.toNat * 64))
  | .getm sd => some (mkWord 0x0C (sd.toNat * 32768))
  | .rdsr sd num => some (mkWord 0x0D (sd.toNat * 32768 + num.toNat))
  | .wrsr sd num => some (mkWord 0x0E (sd.toNat * 32768 + num.toNat))
  | .trap imm => some (mkWord 0x0F (imm.toNat))
  | .hostCallRecord => none
  | .bkpt imm => some (mkWord 0x10 (imm.toNat))
  | .eret => some (mkWord 0x11 (0))
  | .xsel sa => some (mkWord 0x12 (sa.toNat * 64))
  | .xrv own target => some (mkWord 0x13 (own.toNat * 65536 + target.toNat * 256))
  | .xwv own target => some (mkWord 0x14 (own.toNat * 65536 + target.toNat * 256))
  | .xrs sd idx space => some (mkWord 0x15 (sd.toNat * 32768 + idx.toNat * 64 + space.toNat))
  | .xws sd idx space => some (mkWord 0x16 (sd.toNat * 32768 + idx.toNat * 64 + space.toNat))
  | .sadd sd sa pair => some (mkWord 0x18 (sd.toNat * 32768 + sa.toNat * 64 + pair.toNat * 32))
  | .ssub sd sa pair => some (mkWord 0x19 (sd.toNat * 32768 + sa.toNat * 64 + pair.toNat * 32))
  | .smul sd sa pair => some (mkWord 0x1A (sd.toNat * 32768 + sa.toNat * 64 + pair.toNat * 32))
  | .smulh sd sa pair => some (mkWord 0x1B (sd.toNat * 32768 + sa.toNat * 64 + pair.toNat * 32))
  | .smulhn sd sa pair => some (mkWord 0x1C (sd.toNat * 32768 + sa.toNat * 64 + pair.toNat * 32))
  | .sdiv sd sa pair => some (mkWord 0x1D (sd.toNat * 32768 + sa.toNat * 64 + pair.toNat * 32))
  | .sdivn sd sa pair => some (mkWord 0x1E (sd.toNat * 32768 + sa.toNat * 64 + pair.toNat * 32))
  | .srem sd sa pair => some (mkWord 0x1F (sd.toNat * 32768 + sa.toNat * 64 + pair.toNat * 32))
  | .sremn sd sa pair => some (mkWord 0x20 (sd.toNat * 32768 + sa.toNat * 64 + pair.toNat * 32))
  | .sand sd sa pair => some (mkWord 0x21 (sd.toNat * 32768 + sa.toNat * 64 + pair.toNat * 32))
  | .sor sd sa pair => some (mkWord 0x22 (sd.toNat * 32768 + sa.toNat * 64 + pair.toNat * 32))
  | .sxor sd sa pair => some (mkWord 0x23 (sd.toNat * 32768 + sa.toNat * 64 + pair.toNat * 32))
  | .sshl sd sa pair => some (mkWord 0x24 (sd.toNat * 32768 + sa.toNat * 64 + pair.toNat * 32))
  | .sshr sd sa pair => some (mkWord 0x25 (sd.toNat * 32768 + sa.toNat * 64 + pair.toNat * 32))
  | .ssar sd sa pair => some (mkWord 0x26 (sd.toNat * 32768 + sa.toNat * 64 + pair.toNat * 32))
  | .smin sd sa pair => some (mkWord 0x27 (sd.toNat * 32768 + sa.toNat * 64 + pair.toNat * 32))
  | .smax sd sa pair => some (mkWord 0x28 (sd.toNat * 32768 + sa.toNat * 64 + pair.toNat * 32))
  | .sminn sd sa pair => some (mkWord 0x29 (sd.toNat * 32768 + sa.toNat * 64 + pair.toNat * 32))
  | .smaxn sd sa pair => some (mkWord 0x2A (sd.toNat * 32768 + sa.toNat * 64 + pair.toNat * 32))
  | .smov sd sa pair => some (mkWord 0x2B (sd.toNat * 32768 + sa.toNat * 64 + pair.toNat * 32))
  | .snot sd sa pair => some (mkWord 0x2C (sd.toNat * 32768 + sa.toNat * 64 + pair.toNat * 32))
  | .sneg sd sa pair => some (mkWord 0x2D (sd.toNat * 32768 + sa.toNat * 64 + pair.toNat * 32))
  | .sclz sd sa pair => some (mkWord 0x2E (sd.toNat * 32768 + sa.toNat * 64 + pair.toNat * 32))
  | .spopc sd sa pair => some (mkWord 0x2F (sd.toNat * 32768 + sa.toNat * 64 + pair.toNat * 32))
  | .scmp sd sa pair => some (mkWord 0x30 (sd.toNat * 32768 + sa.toNat * 64 + pair.toNat * 32))
  | .scmpn sd sa pair => some (mkWord 0x31 (sd.toNat * 32768 + sa.toNat * 64 + pair.toNat * 32))
  | .saddi sd imm => some (mkWord 0x32 (sd.toNat * 32768 + imm.toNat))
  | .smovi sd imm => some (mkWord 0x33 (sd.toNat * 32768 + imm.toNat))
  | .slit sd => some (mkWord 0x34 (sd.toNat * 32768))
  | .saddc sd sa pair => some (mkWord 0x35 (sd.toNat * 32768 + sa.toNat * 64 + pair.toNat * 32))
  | .ssubb sd sa pair => some (mkWord 0x36 (sd.toNat * 32768 + sa.toNat * 64 + pair.toNat * 32))
  | .ssel sd sa pair cond => some (mkWord 0x37 (sd.toNat * 32768 + sa.toNat * 64 + pair.toNat * 32 + cond.toNat))
  | .pand pd pa pb => some (mkWord 0x38 (pd.toNat * 1048576 + pa.toNat * 65536 + pb.toNat * 4096))
  | .por pd pa pb => some (mkWord 0x39 (pd.toNat * 1048576 + pa.toNat * 65536 + pb.toNat * 4096))
  | .pxor pd pa pb => some (mkWord 0x3A (pd.toNat * 1048576 + pa.toNat * 65536 + pb.toNat * 4096))
  | .pnot pd pa => some (mkWord 0x3B (pd.toNat * 1048576 + pa.toNat * 65536))
  | .pmov pd pa => some (mkWord 0x3C (pd.toNat * 1048576 + pa.toNat * 65536))
  | .psets pd src => some (mkWord 0x3D (pd.toNat * 1048576 + src.toNat * 8))
  | .pgets sd pa => some (mkWord 0x3E (sd.toNat * 8 + pa.toNat * 65536))
  | .pcnt sd pa => some (mkWord 0x3F (sd.toNat * 8 + pa.toNat * 65536))
  | .pffs sd pa => some (mkWord 0x40 (sd.toNat * 8 + pa.toNat * 65536))
  | .plane pd src => some (mkWord 0x41 (pd.toNat * 1048576 + src.toNat * 8))
  | .ppush pa => some (mkWord 0x42 (pa.toNat * 65536))
  | .ppop pd => some (mkWord 0x43 (pd.toNat * 1048576))
  | .vadd vd va vb => some (mkWord 0x48 (vd.toNat * 65536 + va.toNat * 256 + vb.toNat))
  | .vsub vd va vb => some (mkWord 0x49 (vd.toNat * 65536 + va.toNat * 256 + vb.toNat))
  | .vmul vd va vb => some (mkWord 0x4A (vd.toNat * 65536 + va.toNat * 256 + vb.toNat))
  | .vmulh vd va vb => some (mkWord 0x4B (vd.toNat * 65536 + va.toNat * 256 + vb.toNat))
  | .vmad vd va vb => some (mkWord 0x4C (vd.toNat * 65536 + va.toNat * 256 + vb.toNat))
  | .vand vd va vb => some (mkWord 0x4D (vd.toNat * 65536 + va.toNat * 256 + vb.toNat))
  | .vor vd va vb => some (mkWord 0x4E (vd.toNat * 65536 + va.toNat * 256 + vb.toNat))
  | .vxor vd va vb => some (mkWord 0x4F (vd.toNat * 65536 + va.toNat * 256 + vb.toNat))
  | .vnot vd va => some (mkWord 0x50 (vd.toNat * 65536 + va.toNat * 256))
  | .vshl vd va vb => some (mkWord 0x51 (vd.toNat * 65536 + va.toNat * 256 + vb.toNat))
  | .vshr vd va vb => some (mkWord 0x52 (vd.toNat * 65536 + va.toNat * 256 + vb.toNat))
  | .vmin vd va vb => some (mkWord 0x53 (vd.toNat * 65536 + va.toNat * 256 + vb.toNat))
  | .vmax vd va vb => some (mkWord 0x54 (vd.toNat * 65536 + va.toNat * 256 + vb.toNat))
  | .vabs vd va => some (mkWord 0x55 (vd.toNat * 65536 + va.toNat * 256))
  | .vclz vd va => some (mkWord 0x56 (vd.toNat * 65536 + va.toNat * 256))
  | .vpopc vd va => some (mkWord 0x57 (vd.toNat * 65536 + va.toNat * 256))
  | .vsel vd va vb => some (mkWord 0x58 (vd.toNat * 65536 + va.toNat * 256 + vb.toNat))
  | .vmov vd va => some (mkWord 0x59 (vd.toNat * 65536 + va.toNat * 256))
  | .vbcast vd src => some (mkWord 0x5A (vd.toNat * 65536 + src.toNat * 256))
  | .vlane vd => some (mkWord 0x5B (vd.toNat * 65536))
  | .vshfl vd va vb => some (mkWord 0x5C (vd.toNat * 65536 + va.toNat * 256 + vb.toNat))
  | .vrot vd va imm => some (mkWord 0x5D (vd.toNat * 65536 + va.toNat * 256 + imm.toNat))
  | .vscan vd va op => some (mkWord 0x5E (vd.toNat * 65536 + va.toNat * 256 + op.toNat))
  | .vred vd va op => some (mkWord 0x5F (vd.toNat * 65536 + va.toNat * 256 + op.toNat))
  | .vcmp pd cond va vb => some (mkWord 0x60 (pd.toNat * 1048576 + cond.toNat * 65536 + va.toNat * 256 + vb.toNat))
  | .vpack vd va vb => some (mkWord 0x61 (vd.toNat * 65536 + va.toNat * 256 + vb.toNat))
  | .vunpk vd va k => some (mkWord 0x62 (vd.toNat * 65536 + va.toNat * 256 + k.toNat))
  | .vhash vd va => some (mkWord 0x63 (vd.toNat * 65536 + va.toNat * 256))
  | .vxtr sd va lane => some (mkWord 0x64 (sd.toNat * 65536 + va.toNat * 256 + lane.toNat * 8))
  | .vins vd src lane => some (mkWord 0x65 (vd.toNat * 65536 + src.toNat * 256 + lane.toNat * 8))
  | .vfadd vd va vb => some (mkWord 0x68 (vd.toNat * 65536 + va.toNat * 256 + vb.toNat))
  | .vfsub vd va vb => some (mkWord 0x69 (vd.toNat * 65536 + va.toNat * 256 + vb.toNat))
  | .vfmul vd va vb => some (mkWord 0x6A (vd.toNat * 65536 + va.toNat * 256 + vb.toNat))
  | .vfmulz vd va vb => some (mkWord 0x6B (vd.toNat * 65536 + va.toNat * 256 + vb.toNat))
  | .vfma vd va vb => some (mkWord 0x6C (vd.toNat * 65536 + va.toNat * 256 + vb.toNat))
  | .vfms vd va vb => some (mkWord 0x6D (vd.toNat * 65536 + va.toNat * 256 + vb.toNat))
  | .vfnma vd va vb => some (mkWord 0x6E (vd.toNat * 65536 + va.toNat * 256 + vb.toNat))
  | .vfdiv vd va vb => some (mkWord 0x6F (vd.toNat * 65536 + va.toNat * 256 + vb.toNat))
  | .vfsqrt vd va => some (mkWord 0x70 (vd.toNat * 65536 + va.toNat * 256))
  | .vfrsq vd va => some (mkWord 0x71 (vd.toNat * 65536 + va.toNat * 256))
  | .vfrcp vd va => some (mkWord 0x72 (vd.toNat * 65536 + va.toNat * 256))
  | .vfexp vd va => some (mkWord 0x73 (vd.toNat * 65536 + va.toNat * 256))
  | .vfexp2 vd va => some (mkWord 0x74 (vd.toNat * 65536 + va.toNat * 256))
  | .vfexpm1 vd va => some (mkWord 0x75 (vd.toNat * 65536 + va.toNat * 256))
  | .vflog vd va => some (mkWord 0x76 (vd.toNat * 65536 + va.toNat * 256))
  | .vflog2 vd va => some (mkWord 0x77 (vd.toNat * 65536 + va.toNat * 256))
  | .vflog1p vd va => some (mkWord 0x78 (vd.toNat * 65536 + va.toNat * 256))
  | .vfsin vd va => some (mkWord 0x79 (vd.toNat * 65536 + va.toNat * 256))
  | .vfcos vd va => some (mkWord 0x7A (vd.toNat * 65536 + va.toNat * 256))
  | .vftan vd va => some (mkWord 0x7B (vd.toNat * 65536 + va.toNat * 256))
  | .vfatan vd va => some (mkWord 0x7C (vd.toNat * 65536 + va.toNat * 256))
  | .vfatan2 vd va vb => some (mkWord 0x7D (vd.toNat * 65536 + va.toNat * 256 + vb.toNat))
  | .vftanh vd va => some (mkWord 0x7E (vd.toNat * 65536 + va.toNat * 256))
  | .vferf vd va => some (mkWord 0x7F (vd.toNat * 65536 + va.toNat * 256))
  | .vfpow vd va vb => some (mkWord 0x80 (vd.toNat * 65536 + va.toNat * 256 + vb.toNat))
  | .vfhyp vd va vb => some (mkWord 0x81 (vd.toNat * 65536 + va.toNat * 256 + vb.toNat))
  | .vfmin vd va vb => some (mkWord 0x82 (vd.toNat * 65536 + va.toNat * 256 + vb.toNat))
  | .vfmax vd va vb => some (mkWord 0x83 (vd.toNat * 65536 + va.toNat * 256 + vb.toNat))
  | .vfabs vd va => some (mkWord 0x84 (vd.toNat * 65536 + va.toNat * 256))
  | .vfneg vd va => some (mkWord 0x85 (vd.toNat * 65536 + va.toNat * 256))
  | .vfcps vd va vb => some (mkWord 0x86 (vd.toNat * 65536 + va.toNat * 256 + vb.toNat))
  | .vfrnd vd va => some (mkWord 0x87 (vd.toNat * 65536 + va.toNat * 256))
  | .vftoi vd va imm => some (mkWord 0x88 (vd.toNat * 65536 + va.toNat * 256 + imm.toNat))
  | .vitof vd va imm => some (mkWord 0x89 (vd.toNat * 65536 + va.toNat * 256 + imm.toNat))
  | .vfcvt vd va imm => some (mkWord 0x8A (vd.toNat * 65536 + va.toNat * 256 + imm.toNat))
  | .vfqnt vd va vb => some (mkWord 0x8B (vd.toNat * 65536 + va.toNat * 256 + vb.toNat))
  | .vfdq vd va vb => some (mkWord 0x8C (vd.toNat * 65536 + va.toNat * 256 + vb.toNat))
  | .vfcls vd va => some (mkWord 0x8D (vd.toNat * 65536 + va.toNat * 256))
  | .vfcmp pd cond va vb => some (mkWord 0x8E (pd.toNat * 1048576 + cond.toNat * 65536 + va.toNat * 256 + vb.toNat))
  | .vfsmx vd va vb => some (mkWord 0x8F (vd.toNat * 65536 + va.toNat * 256 + vb.toNat))
  | .vfssq vd va => some (mkWord 0x90 (vd.toNat * 65536 + va.toNat * 256))
  | .vfred vd va op => some (mkWord 0x91 (vd.toNat * 65536 + va.toNat * 256 + op.toNat))
  | .vfscan vd va op => some (mkWord 0x92 (vd.toNat * 65536 + va.toNat * 256 + op.toNat))
  | .vfrot vd va vb => some (mkWord 0x93 (vd.toNat * 65536 + va.toNat * 256 + vb.toNat))
  | .vfldx vd va vb => some (mkWord 0x94 (vd.toNat * 65536 + va.toNat * 256 + vb.toNat))
  | .vffrx vd va sel => some (mkWord 0x95 (vd.toNat * 65536 + va.toNat * 256 + sel.toNat))
  | .vfrem vd va vb => some (mkWord 0x96 (vd.toNat * 65536 + va.toNat * 256 + vb.toNat))
  | .ld v va n scope => some (mkWord 0xA0 (v.toNat * 65536 + va.toNat * 256 + n.toNat * 8 + scope.toNat))
  | .ldf v va n scope => some (mkWord 0xA1 (v.toNat * 65536 + va.toNat * 256 + n.toNat * 8 + scope.toNat))
  | .ldd v va n scope => some (mkWord 0xA2 (v.toNat * 65536 + va.toNat * 256 + n.toNat * 8 + scope.toNat))
  | .lda v va n scope => some (mkWord 0xA3 (v.toNat * 65536 + va.toNat * 256 + n.toNat * 8 + scope.toNat))
  | .st v va n scope => some (mkWord 0xA4 (v.toNat * 65536 + va.toNat * 256 + n.toNat * 8 + scope.toNat))
  | .stnt v va n scope => some (mkWord 0xA5 (v.toNat * 65536 + va.toNat * 256 + n.toNat * 8 + scope.toNat))
  | .std v va n scope => some (mkWord 0xA6 (v.toNat * 65536 + va.toNat * 256 + n.toNat * 8 + scope.toNat))
  | .stl v va n scope => some (mkWord 0xA7 (v.toNat * 65536 + va.toNat * 256 + n.toNat * 8 + scope.toNat))
  | .drainnt => some (mkWord 0xA8 (0))
  | .fence scope => some (mkWord 0xA9 (scope.toNat))
  | .aadd v va n scope => some (mkWord 0xAA (v.toNat * 65536 + va.toNat * 256 + n.toNat * 8 + scope.toNat))
  | .afadd v va n scope => some (mkWord 0xAB (v.toNat * 65536 + va.toNat * 256 + n.toNat * 8 + scope.toNat))
  | .amin v va n scope => some (mkWord 0xAC (v.toNat * 65536 + va.toNat * 256 + n.toNat * 8 + scope.toNat))
  | .amax v va n scope => some (mkWord 0xAD (v.toNat * 65536 + va.toNat * 256 + n.toNat * 8 + scope.toNat))
  | .aand v va n scope => some (mkWord 0xAE (v.toNat * 65536 + va.toNat * 256 + n.toNat * 8 + scope.toNat))
  | .aor v va n scope => some (mkWord 0xAF (v.toNat * 65536 + va.toNat * 256 + n.toNat * 8 + scope.toNat))
  | .axor v va n scope => some (mkWord 0xB0 (v.toNat * 65536 + va.toNat * 256 + n.toNat * 8 + scope.toNat))
  | .axchg v va n scope => some (mkWord 0xB1 (v.toNat * 65536 + va.toNat * 256 + n.toNat * 8 + scope.toNat))
  | .acas v va n scope => some (mkWord 0xB2 (v.toNat * 65536 + va.toNat * 256 + n.toNat * 8 + scope.toNat))
  | .ldb v va h => some (mkWord 0xB3 (v.toNat * 65536 + va.toNat * 256 + h.toNat * 4))
  | .stb v va h => some (mkWord 0xB4 (v.toNat * 65536 + va.toNat * 256 + h.toNat * 4))
  | .abadd v va h => some (mkWord 0xB5 (v.toNat * 65536 + va.toNat * 256 + h.toNat * 4))
  | .abcas v va h => some (mkWord 0xB6 (v.toNat * 65536 + va.toNat * 256 + h.toNat * 4))
  | .ldc v va h => some (mkWord 0xB7 (v.toNat * 65536 + va.toNat * 256 + h.toNat * 4))
  | .stc v va h => some (mkWord 0xB8 (v.toNat * 65536 + va.toNat * 256 + h.toNat * 4))
  | .pref va n scope => some (mkWord 0xB9 (va.toNat * 256 + n.toNat * 8 + scope.toNat))
  | .ldkv v va src => some (mkWord 0xBA (v.toNat * 65536 + va.toNat * 256 + src.toNat))
  | .stkv v va src => some (mkWord 0xBB (v.toNat * 65536 + va.toNat * 256 + src.toNat))
  | .kvmap sd sa => some (mkWord 0xBC (sd.toNat * 32768 + sa.toNat * 64))
  | .kvfork sd sa => some (mkWord 0xBD (sd.toNat * 32768 + sa.toNat * 64))
  | .kvdrop sd sa => some (mkWord 0xBE (sd.toNat * 32768 + sa.toNat * 64))
  | .kvinfo sd sa => some (mkWord 0xBF (sd.toNat * 32768 + sa.toNat * 64))
  | .bar b => some (mkWord 0xC0 (b.toNat * 1048576))
  | .bara b => some (mkWord 0xC1 (b.toNat * 1048576))
  | .barw b => some (mkWord 0xC2 (b.toNat * 1048576))
  | .gbar g mode => some (mkWord 0xC3 (g.toNat * 4194304 + mode.toNat * 1048576))
  | .hwait h st ph => some (mkWord 0xC4 (h.toNat * 262144 + st.toNat * 65536 + ph.toNat * 32768))
  | .hset h st => some (mkWord 0xC5 (h.toNat * 262144 + st.toNat * 65536))
  | .wait vmc bfc sfc => some (mkWord 0xC6 (vmc.toNat * 262144 + bfc.toNat * 4096 + sfc.toNat * 64))
  | .evpop sd poll => some (mkWord 0xC7 (sd.toNat * 32768 + poll.toNat))
  | .qpush sd sa => some (mkWord 0xC8 (sd.toNat * 32768 + sa.toNat * 64))
  | .qpop sd sa => some (mkWord 0xC9 (sd.toNat * 32768 + sa.toNat * 64))
  | .mwatch sa => some (mkWord 0xCA (sa.toNat * 64))
  | .mwait => some (mkWord 0xCB (0))
  | .launch sd sa => some (mkWord 0xCC (sd.toNat * 32768 + sa.toNat * 64))
  | .signal sd sa => some (mkWord 0xCD (sd.toNat * 32768 + sa.toNat * 64))
  | .deal sd => some (mkWord 0xCE (sd.toNat * 32768))
  | .tkick sa => some (mkWord 0xCF (sa.toNat * 64))
  | .ckpt => some (mkWord 0xD0 (0))
  | .clock sd => some (mkWord 0xD1 (sd.toNat * 32768))
  | .clksync => some (mkWord 0xD2 (0))
  | .rngk vd va vb => some (mkWord 0xD4 (vd.toNat * 65536 + va.toNat * 256 + vb.toNat))
  | .rng vd => some (mkWord 0xD5 (vd.toNat * 65536))
  | .rngs => some (mkWord 0xD6 (0))
  | .rngf vd va => some (mkWord 0xD7 (vd.toNat * 65536 + va.toNat * 256))
  | .rngsv vd => some (mkWord 0xD8 (vd.toNat * 65536))
  | .rngld va => some (mkWord 0xD9 (va.toNat * 256))
  | .illegalInstruction w => some w
  | .matrixStreamIllegal w => some w
  | .tenderIllegal w => some w
  | .mnop => some (mkWord 0x00 (0))
  | .mend => some (mkWord 0x01 (0))
  | .mli md imm => some (mkWord 0x02 (md.toNat * 524288 + imm.toNat))
  | .maddi md imm => some (mkWord 0x03 (md.toNat * 524288 + imm.toNat))
  | .mbr ma cond off => some (mkWord 0x04 (ma.toNat * 524288 + cond.toNat * 65536 + off.toNat))
  | .mloop ma off => some (mkWord 0x05 (ma.toNat * 524288 + off.toNat))
  | .msetf ma => some (mkWord 0x06 (ma.toNat * 16384))
  | .mtile mc nc ma => some (mkWord 0x07 (mc.toNat + nc.toNat * 16 + ma.toNat * 16384))
  | .mbind slot h ma mb => some (mkWord 0x08 (slot.toNat * 128 + h.toNat * 2 + ma.toNat * 16384 + mb.toNat * 512))
  | .mrmt src slot h ma mb => some (mkWord 0x09 (src.toNat * 524288 + slot.toNat * 128 + h.toNat * 2 + ma.toNat * 16384 + mb.toNat * 512))
  | .mzero => some (mkWord 0x0A (0))
  | .mma ra rb ev => some (mkWord 0x0B (ra.toNat + rb.toNat * 2 + ev.toNat * 4))
  | .mmas ra rb ev => some (mkWord 0x0C (ra.toNat + rb.toNat * 2 + ev.toNat * 4))
  | .mepi h bg fin ev md ma mb => some (mkWord 0x0D (h.toNat * 8 + bg.toNat + fin.toNat * 2 + ev.toNat * 4 + md.toNat * 524288 + ma.toNat * 16384 + mb.toNat * 512))
  | .mepkv rot rnd ev md ma mb => some (mkWord 0x0E (rot.toNat * 256 + rnd.toNat * 8 + ev.toNat * 4 + md.toNat * 524288 + ma.toNat * 16384 + mb.toNat * 512))
  | .att causal pf rnd ev md ma mb => some (mkWord 0x0F (causal.toNat * 256 + pf.toNat * 64 + rnd.toNat * 8 + ev.toNat * 4 + md.toNat * 524288 + ma.toNat * 16384 + mb.toNat * 512))
  | .mbar g mode n => some (mkWord 0x10 (g.toNat * 256 + mode.toNat * 64 + n.toNat))
  | .mwaith md h st ph => some (mkWord 0x11 (md.toNat * 524288 + h.toNat * 8 + st.toNat * 2 + ph.toNat))
  | .mhset md h st => some (mkWord 0x12 (md.toNat * 524288 + h.toNat * 8 + st.toNat * 2))
  | .mchk c md => some (mkWord 0x13 (c.toNat + md.toNat * 524288))
  | .mstat md sel => some (mkWord 0x14 (md.toNat * 524288 + sel.toNat))
  | .engineWordStart _ _ => none
  | .escalationBudget _ _ => none
  | .engineWordComplete _ _ => none
  | .tnop => some (mkWord 0x00 (0))
  | .tend => some (mkWord 0x01 (0))
  | .tli td imm => some (mkWord 0x02 (td.toNat * 262144 + imm.toNat))
  | .tlih td sh imm => some (mkWord 0x03 (td.toNat * 262144 + sh.toNat * 65536 + imm.toNat))
  | .tadd td ta tb => some (mkWord 0x04 (td.toNat * 262144 + ta.toNat * 4096 + tb.toNat * 64))
  | .taddImm td ta imm => some (mkWord 0x04 (td.toNat * 262144 + ta.toNat * 4096 + (imm.toNat / 32) * 64 + 32 + imm.toNat % 32))
  | .tsub td ta tb => some (mkWord 0x05 (td.toNat * 262144 + ta.toNat * 4096 + tb.toNat * 64))
  | .tsubImm td ta imm => some (mkWord 0x05 (td.toNat * 262144 + ta.toNat * 4096 + (imm.toNat / 32) * 64 + 32 + imm.toNat % 32))
  | .tmul td ta tb => some (mkWord 0x06 (td.toNat * 262144 + ta.toNat * 4096 + tb.toNat * 64))
  | .tmulImm td ta imm => some (mkWord 0x06 (td.toNat * 262144 + ta.toNat * 4096 + (imm.toNat / 32) * 64 + 32 + imm.toNat % 32))
  | .tmad td ta tb => some (mkWord 0x07 (td.toNat * 262144 + ta.toNat * 4096 + tb.toNat * 64))
  | .tmadImm td ta imm => some (mkWord 0x07 (td.toNat * 262144 + ta.toNat * 4096 + (imm.toNat / 32) * 64 + 32 + imm.toNat % 32))
  | .tshl td ta tb => some (mkWord 0x08 (td.toNat * 262144 + ta.toNat * 4096 + tb.toNat * 64))
  | .tshlImm td ta imm => some (mkWord 0x08 (td.toNat * 262144 + ta.toNat * 4096 + (imm.toNat / 32) * 64 + 32 + imm.toNat % 32))
  | .tshr td ta tb => some (mkWord 0x09 (td.toNat * 262144 + ta.toNat * 4096 + tb.toNat * 64))
  | .tshrImm td ta imm => some (mkWord 0x09 (td.toNat * 262144 + ta.toNat * 4096 + (imm.toNat / 32) * 64 + 32 + imm.toNat % 32))
  | .tand td ta tb => some (mkWord 0x0A (td.toNat * 262144 + ta.toNat * 4096 + tb.toNat * 64))
  | .tandImm td ta imm => some (mkWord 0x0A (td.toNat * 262144 + ta.toNat * 4096 + (imm.toNat / 32) * 64 + 32 + imm.toNat % 32))
  | .tor td ta tb => some (mkWord 0x0B (td.toNat * 262144 + ta.toNat * 4096 + tb.toNat * 64))
  | .torImm td ta imm => some (mkWord 0x0B (td.toNat * 262144 + ta.toNat * 4096 + (imm.toNat / 32) * 64 + 32 + imm.toNat % 32))
  | .tmin td ta tb => some (mkWord 0x0C (td.toNat * 262144 + ta.toNat * 4096 + tb.toNat * 64))
  | .tminImm td ta imm => some (mkWord 0x0C (td.toNat * 262144 + ta.toNat * 4096 + (imm.toNat / 32) * 64 + 32 + imm.toNat % 32))
  | .tmax td ta tb => some (mkWord 0x0D (td.toNat * 262144 + ta.toNat * 4096 + tb.toNat * 64))
  | .tmaxImm td ta imm => some (mkWord 0x0D (td.toNat * 262144 + ta.toNat * 4096 + (imm.toNat / 32) * 64 + 32 + imm.toNat % 32))
  | .tbc ta cond off => some (mkWord 0x0E (ta.toNat * 262144 + cond.toNat * 32768 + off.toNat))
  | .tba td ta off => some (mkWord 0x0F (td.toNat * 262144 + ta.toNat * 4096 + off.toNat))
  | .tloop ta off => some (mkWord 0x10 (ta.toNat * 262144 + off.toNat))
  | .tld td ta sz imm => some (mkWord 0x11 (td.toNat * 262144 + ta.toNat * 4096 + sz.toNat * 1024 + imm.toNat))
  | .tldEnv td idx => some (mkWord 0x11 (td.toNat * 262144 + idx.toNat + 3072))
  | .tst td ta sz imm => some (mkWord 0x12 (td.toNat * 262144 + ta.toNat * 4096 + sz.toNat * 1024 + imm.toNat))
  | .tldb td h tb sz => some (mkWord 0x13 (td.toNat * 262144 + h.toNat * 4096 + tb.toNat * 64 + sz.toNat * 16))
  | .tdesc d ta => some (mkWord 0x14 (d.toNat * 262144 + ta.toNat * 4096))
  | .tcopy d tc tb bg fin ev => some (mkWord 0x15 (d.toNat * 262144 + tc.toNat * 4096 + tb.toNat * 64 + bg.toNat + fin.toNat * 2 + ev.toNat * 4))
  | .tstore d tc tb bg fin ev => some (mkWord 0x16 (d.toNat * 262144 + tc.toNat * 4096 + tb.toNat * 64 + bg.toNat + fin.toNat * 2 + ev.toNat * 4))
  | .tcopyl d tc tn k ring => some (mkWord 0x17 (d.toNat * 262144 + tc.toNat * 4096 + tn.toNat * 64 + k.toNat * 8 + ring.toNat))
  | .tgath d ti tn h => some (mkWord 0x18 (d.toNat * 262144 + ti.toNat * 4096 + tn.toNat * 64 + h.toNat))
  | .tscat d ti tn h => some (mkWord 0x19 (d.toNat * 262144 + ti.toNat * 4096 + tn.toNat * 64 + h.toNat))
  | .tkvr d tk tn bg fin ev => some (mkWord 0x1A (d.toNat * 262144 + tk.toNat * 4096 + tn.toNat * 64 + bg.toNat + fin.toNat * 2 + ev.toNat * 4))
  | .tkvw d tk tn bg fin ev => some (mkWord 0x1B (d.toNat * 262144 + tk.toNat * 4096 + tn.toNat * 64 + bg.toNat + fin.toNat * 2 + ev.toNat * 4))
  | .tcvt dd ds rnd bg fin => some (mkWord 0x1C (dd.toNat * 262144 + ds.toNat * 4096 + rnd.toNat + bg.toNat * 8 + fin.toNat * 16))
  | .tred dd ds tn rnd sat => some (mkWord 0x1D (dd.toNat * 262144 + ds.toNat * 4096 + tn.toNat * 64 + rnd.toNat + sat.toNat * 8))
  | .tmcast d tc tm bg fin ev => some (mkWord 0x1E (d.toNat * 262144 + tc.toNat * 4096 + tm.toNat * 64 + bg.toNat + fin.toNat * 2 + ev.toNat * 4))
  | .tbar g n mode => some (mkWord 0x1F (g.toNat * 8388608 + n.toNat * 262144 + mode.toNat * 65536))
  | .thset h st => some (mkWord 0x20 (h.toNat * 262144 + st.toNat * 65536))
  | .thwait h st ph => some (mkWord 0x21 (h.toNat * 262144 + st.toNat * 65536 + ph.toNat * 32768))
  | .tevt ta tag f c => some (mkWord 0x22 (ta.toNat * 262144 + tag.toNat * 4 + f.toNat * 2 + c.toNat))
  | .tsend d tc tq ev => some (mkWord 0x23 (d.toNat * 262144 + tc.toNat * 4096 + tq.toNat * 64 + ev.toNat * 4))
  | .trecv d tc tq ev => some (mkWord 0x24 (d.toNat * 262144 + tc.toNat * 4096 + tq.toNat * 64 + ev.toNat * 4))
  | .tfence scope => some (mkWord 0x25 (scope.toNat))
  | .twait n => some (mkWord 0x26 (n.toNat * 65536))
  | .ttrap imm => some (mkWord 0x27 (imm.toNat))
  | .tcopylIteration _ _ _ => none
  | .copyWordComplete _ _ _ => none
  | .eventPost _ _ => none
  | .barrierRelease _ _ _ => none
  | .variableLatencyWriteback _ _ _ _ => none
  | .replay _ _ _ => none
  | .beaconTake _ => none
  | .beaconComplete _ _ _ => none
  | .lanternTake _ => none
  | .lanternComplete _ => none
  | .commit _ _ => none
  | .tinvctl _ => none
  | .translationInvalidationDone => none
  | .kvinvctl _ => none
  | .kvInvalidationDone => none
  | .xrel _ => none
  | .xfail _ => none
  | .handlerStart _ => none
  | .taskDequeue => none
  | .ageing _ => none
  | .gangPlacement => none
  | .reservation => none
  | .drainLimit _ => none
  | .saveComplete _ => none
  | .edgeAction _ _ => none
  | .gangStart _ => none
  | .gangCompletion _ => none
  | .gangRetirement _ => none
  | .taskRetirement _ => none
  | .hread _ _ _ => none
  | .hwrite _ _ _ => none
  | .notify _ => none
  | .reply _ _ => none
  | .tinv _ _ _ => none
  | .cancel _ _ => none
  | .srdata _ _ => none
  | .swack _ => none
  | .sares _ _ _ => none
  | .discardedFlit _ => none
  | .mgmtWrite _ _ _ => none
  | .mremove _ _ => none
  | .mattcmd _ _ => none
  | .attestationReport => none
  | .powerGood _ => none
  | .powerCap => none
  | .outletAbove60 => none
  | .outletAbove70 => none
  | .announce _ _ _ => none
  | .grant _ _ _ => none
  | .peerData _ _ _ => none
  | .peerCompletion _ _ => none
  | .portInactive _ => none
  | .pageWalkEnd _ _ _ => none
  | .averageBelowPcap => none
  | .outletBelow60 => none
  | .moduleLimitsExceeded => none
  | .portActive _ => none
  | .uncorrectableErrorInLogic _ _ => none

/-- The stream a constructor's word belongs to; none for an event. -/
def Instr.stream : Instr → Option Stream
  | .nop => some .group
  | .stop => some .group
  | .br _ => some .group
  | .brc _ _ => some .group
  | .pbr _ _ _ => some .group
  | .call _ => some .group
  | .ret => some .group
  | .jmpr _ => some .group
  | .loops _ _ => some .group
  | .yield => some .group
  | .setm _ _ => some .group
  | .setmReg _ _ => some .group
  | .setmr _ => some .group
  | .getm _ => some .group
  | .rdsr _ _ => some .group
  | .wrsr _ _ => some .group
  | .trap _ => some .group
  | .hostCallRecord => none
  | .bkpt _ => some .group
  | .eret => some .group
  | .xsel _ => some .group
  | .xrv _ _ => some .group
  | .xwv _ _ => some .group
  | .xrs _ _ _ => some .group
  | .xws _ _ _ => some .group
  | .sadd _ _ _ => some .group
  | .ssub _ _ _ => some .group
  | .smul _ _ _ => some .group
  | .smulh _ _ _ => some .group
  | .smulhn _ _ _ => some .group
  | .sdiv _ _ _ => some .group
  | .sdivn _ _ _ => some .group
  | .srem _ _ _ => some .group
  | .sremn _ _ _ => some .group
  | .sand _ _ _ => some .group
  | .sor _ _ _ => some .group
  | .sxor _ _ _ => some .group
  | .sshl _ _ _ => some .group
  | .sshr _ _ _ => some .group
  | .ssar _ _ _ => some .group
  | .smin _ _ _ => some .group
  | .smax _ _ _ => some .group
  | .sminn _ _ _ => some .group
  | .smaxn _ _ _ => some .group
  | .smov _ _ _ => some .group
  | .snot _ _ _ => some .group
  | .sneg _ _ _ => some .group
  | .sclz _ _ _ => some .group
  | .spopc _ _ _ => some .group
  | .scmp _ _ _ => some .group
  | .scmpn _ _ _ => some .group
  | .saddi _ _ => some .group
  | .smovi _ _ => some .group
  | .slit _ => some .group
  | .saddc _ _ _ => some .group
  | .ssubb _ _ _ => some .group
  | .ssel _ _ _ _ => some .group
  | .pand _ _ _ => some .group
  | .por _ _ _ => some .group
  | .pxor _ _ _ => some .group
  | .pnot _ _ => some .group
  | .pmov _ _ => some .group
  | .psets _ _ => some .group
  | .pgets _ _ => some .group
  | .pcnt _ _ => some .group
  | .pffs _ _ => some .group
  | .plane _ _ => some .group
  | .ppush _ => some .group
  | .ppop _ => some .group
  | .vadd _ _ _ => some .group
  | .vsub _ _ _ => some .group
  | .vmul _ _ _ => some .group
  | .vmulh _ _ _ => some .group
  | .vmad _ _ _ => some .group
  | .vand _ _ _ => some .group
  | .vor _ _ _ => some .group
  | .vxor _ _ _ => some .group
  | .vnot _ _ => some .group
  | .vshl _ _ _ => some .group
  | .vshr _ _ _ => some .group
  | .vmin _ _ _ => some .group
  | .vmax _ _ _ => some .group
  | .vabs _ _ => some .group
  | .vclz _ _ => some .group
  | .vpopc _ _ => some .group
  | .vsel _ _ _ => some .group
  | .vmov _ _ => some .group
  | .vbcast _ _ => some .group
  | .vlane _ => some .group
  | .vshfl _ _ _ => some .group
  | .vrot _ _ _ => some .group
  | .vscan _ _ _ => some .group
  | .vred _ _ _ => some .group
  | .vcmp _ _ _ _ => some .group
  | .vpack _ _ _ => some .group
  | .vunpk _ _ _ => some .group
  | .vhash _ _ => some .group
  | .vxtr _ _ _ => some .group
  | .vins _ _ _ => some .group
  | .vfadd _ _ _ => some .group
  | .vfsub _ _ _ => some .group
  | .vfmul _ _ _ => some .group
  | .vfmulz _ _ _ => some .group
  | .vfma _ _ _ => some .group
  | .vfms _ _ _ => some .group
  | .vfnma _ _ _ => some .group
  | .vfdiv _ _ _ => some .group
  | .vfsqrt _ _ => some .group
  | .vfrsq _ _ => some .group
  | .vfrcp _ _ => some .group
  | .vfexp _ _ => some .group
  | .vfexp2 _ _ => some .group
  | .vfexpm1 _ _ => some .group
  | .vflog _ _ => some .group
  | .vflog2 _ _ => some .group
  | .vflog1p _ _ => some .group
  | .vfsin _ _ => some .group
  | .vfcos _ _ => some .group
  | .vftan _ _ => some .group
  | .vfatan _ _ => some .group
  | .vfatan2 _ _ _ => some .group
  | .vftanh _ _ => some .group
  | .vferf _ _ => some .group
  | .vfpow _ _ _ => some .group
  | .vfhyp _ _ _ => some .group
  | .vfmin _ _ _ => some .group
  | .vfmax _ _ _ => some .group
  | .vfabs _ _ => some .group
  | .vfneg _ _ => some .group
  | .vfcps _ _ _ => some .group
  | .vfrnd _ _ => some .group
  | .vftoi _ _ _ => some .group
  | .vitof _ _ _ => some .group
  | .vfcvt _ _ _ => some .group
  | .vfqnt _ _ _ => some .group
  | .vfdq _ _ _ => some .group
  | .vfcls _ _ => some .group
  | .vfcmp _ _ _ _ => some .group
  | .vfsmx _ _ _ => some .group
  | .vfssq _ _ => some .group
  | .vfred _ _ _ => some .group
  | .vfscan _ _ _ => some .group
  | .vfrot _ _ _ => some .group
  | .vfldx _ _ _ => some .group
  | .vffrx _ _ _ => some .group
  | .vfrem _ _ _ => some .group
  | .ld _ _ _ _ => some .group
  | .ldf _ _ _ _ => some .group
  | .ldd _ _ _ _ => some .group
  | .lda _ _ _ _ => some .group
  | .st _ _ _ _ => some .group
  | .stnt _ _ _ _ => some .group
  | .std _ _ _ _ => some .group
  | .stl _ _ _ _ => some .group
  | .drainnt => some .group
  | .fence _ => some .group
  | .aadd _ _ _ _ => some .group
  | .afadd _ _ _ _ => some .group
  | .amin _ _ _ _ => some .group
  | .amax _ _ _ _ => some .group
  | .aand _ _ _ _ => some .group
  | .aor _ _ _ _ => some .group
  | .axor _ _ _ _ => some .group
  | .axchg _ _ _ _ => some .group
  | .acas _ _ _ _ => some .group
  | .ldb _ _ _ => some .group
  | .stb _ _ _ => some .group
  | .abadd _ _ _ => some .group
  | .abcas _ _ _ => some .group
  | .ldc _ _ _ => some .group
  | .stc _ _ _ => some .group
  | .pref _ _ _ => some .group
  | .ldkv _ _ _ => some .group
  | .stkv _ _ _ => some .group
  | .kvmap _ _ => some .group
  | .kvfork _ _ => some .group
  | .kvdrop _ _ => some .group
  | .kvinfo _ _ => some .group
  | .bar _ => some .group
  | .bara _ => some .group
  | .barw _ => some .group
  | .gbar _ _ => some .group
  | .hwait _ _ _ => some .group
  | .hset _ _ => some .group
  | .wait _ _ _ => some .group
  | .evpop _ _ => some .group
  | .qpush _ _ => some .group
  | .qpop _ _ => some .group
  | .mwatch _ => some .group
  | .mwait => some .group
  | .launch _ _ => some .group
  | .signal _ _ => some .group
  | .deal _ => some .group
  | .tkick _ => some .group
  | .ckpt => some .group
  | .clock _ => some .group
  | .clksync => some .group
  | .rngk _ _ _ => some .group
  | .rng _ => some .group
  | .rngs => some .group
  | .rngf _ _ => some .group
  | .rngsv _ => some .group
  | .rngld _ => some .group
  | .illegalInstruction _ => some .group
  | .matrixStreamIllegal _ => some .matrix
  | .tenderIllegal _ => some .tender
  | .mnop => some .matrix
  | .mend => some .matrix
  | .mli _ _ => some .matrix
  | .maddi _ _ => some .matrix
  | .mbr _ _ _ => some .matrix
  | .mloop _ _ => some .matrix
  | .msetf _ => some .matrix
  | .mtile _ _ _ => some .matrix
  | .mbind _ _ _ _ => some .matrix
  | .mrmt _ _ _ _ _ => some .matrix
  | .mzero => some .matrix
  | .mma _ _ _ => some .matrix
  | .mmas _ _ _ => some .matrix
  | .mepi _ _ _ _ _ _ _ => some .matrix
  | .mepkv _ _ _ _ _ _ => some .matrix
  | .att _ _ _ _ _ _ _ => some .matrix
  | .mbar _ _ _ => some .matrix
  | .mwaith _ _ _ _ => some .matrix
  | .mhset _ _ _ => some .matrix
  | .mchk _ _ => some .matrix
  | .mstat _ _ => some .matrix
  | .engineWordStart _ _ => none
  | .escalationBudget _ _ => none
  | .engineWordComplete _ _ => none
  | .tnop => some .tender
  | .tend => some .tender
  | .tli _ _ => some .tender
  | .tlih _ _ _ => some .tender
  | .tadd _ _ _ => some .tender
  | .taddImm _ _ _ => some .tender
  | .tsub _ _ _ => some .tender
  | .tsubImm _ _ _ => some .tender
  | .tmul _ _ _ => some .tender
  | .tmulImm _ _ _ => some .tender
  | .tmad _ _ _ => some .tender
  | .tmadImm _ _ _ => some .tender
  | .tshl _ _ _ => some .tender
  | .tshlImm _ _ _ => some .tender
  | .tshr _ _ _ => some .tender
  | .tshrImm _ _ _ => some .tender
  | .tand _ _ _ => some .tender
  | .tandImm _ _ _ => some .tender
  | .tor _ _ _ => some .tender
  | .torImm _ _ _ => some .tender
  | .tmin _ _ _ => some .tender
  | .tminImm _ _ _ => some .tender
  | .tmax _ _ _ => some .tender
  | .tmaxImm _ _ _ => some .tender
  | .tbc _ _ _ => some .tender
  | .tba _ _ _ => some .tender
  | .tloop _ _ => some .tender
  | .tld _ _ _ _ => some .tender
  | .tldEnv _ _ => some .tender
  | .tst _ _ _ _ => some .tender
  | .tldb _ _ _ _ => some .tender
  | .tdesc _ _ => some .tender
  | .tcopy _ _ _ _ _ _ => some .tender
  | .tstore _ _ _ _ _ _ => some .tender
  | .tcopyl _ _ _ _ _ => some .tender
  | .tgath _ _ _ _ => some .tender
  | .tscat _ _ _ _ => some .tender
  | .tkvr _ _ _ _ _ _ => some .tender
  | .tkvw _ _ _ _ _ _ => some .tender
  | .tcvt _ _ _ _ _ => some .tender
  | .tred _ _ _ _ _ => some .tender
  | .tmcast _ _ _ _ _ _ => some .tender
  | .tbar _ _ _ => some .tender
  | .thset _ _ => some .tender
  | .thwait _ _ _ => some .tender
  | .tevt _ _ _ _ => some .tender
  | .tsend _ _ _ _ => some .tender
  | .trecv _ _ _ _ => some .tender
  | .tfence _ => some .tender
  | .twait _ => some .tender
  | .ttrap _ => some .tender
  | .tcopylIteration _ _ _ => none
  | .copyWordComplete _ _ _ => none
  | .eventPost _ _ => none
  | .barrierRelease _ _ _ => none
  | .variableLatencyWriteback _ _ _ _ => none
  | .replay _ _ _ => none
  | .beaconTake _ => none
  | .beaconComplete _ _ _ => none
  | .lanternTake _ => none
  | .lanternComplete _ => none
  | .commit _ _ => none
  | .tinvctl _ => none
  | .translationInvalidationDone => none
  | .kvinvctl _ => none
  | .kvInvalidationDone => none
  | .xrel _ => none
  | .xfail _ => none
  | .handlerStart _ => none
  | .taskDequeue => none
  | .ageing _ => none
  | .gangPlacement => none
  | .reservation => none
  | .drainLimit _ => none
  | .saveComplete _ => none
  | .edgeAction _ _ => none
  | .gangStart _ => none
  | .gangCompletion _ => none
  | .gangRetirement _ => none
  | .taskRetirement _ => none
  | .hread _ _ _ => none
  | .hwrite _ _ _ => none
  | .notify _ => none
  | .reply _ _ => none
  | .tinv _ _ _ => none
  | .cancel _ _ => none
  | .srdata _ _ => none
  | .swack _ => none
  | .sares _ _ _ => none
  | .discardedFlit _ => none
  | .mgmtWrite _ _ _ => none
  | .mremove _ _ => none
  | .mattcmd _ _ => none
  | .attestationReport => none
  | .powerGood _ => none
  | .powerCap => none
  | .outletAbove60 => none
  | .outletAbove70 => none
  | .announce _ _ _ => none
  | .grant _ _ _ => none
  | .peerData _ _ _ => none
  | .peerCompletion _ _ => none
  | .portInactive _ => none
  | .pageWalkEnd _ _ _ => none
  | .averageBelowPcap => none
  | .outletBelow60 => none
  | .moduleLimitsExceeded => none
  | .portActive _ => none
  | .uncorrectableErrorInLogic _ _ => none

end Sys2Proof
end

