-- ==== Sys2Proof/Machine/Digest.lean ====
section
/-!
DEFINITION. SHA3-256, over which images and the attestation report are signed (spec/19 R461, R462; the function itself is FIPS 202's, log entry 134), and
the signatures. The 25 lanes of the state of SHA3-256 are numbers below 2^64, lane x + 5·y at place x + 5·y.
-/

namespace Sys2Proof.Machine

/-- A lane turned left by r places. -/
def turnLane (a r : Nat) : Nat := a * 2 ^ (r % 64) % 2 ^ 64 + a / 2 ^ (64 - r % 64)
/-- Lane k of a state. -/
def laneOf (a : List Nat) (k : Nat) : Nat := (a[k]?).getD 0

/-- The step θ: each lane takes the parities of two columns. -/
def keccakTheta (a : List Nat) : List Nat :=
  let c := (List.range 5).map fun x =>
    (List.range 5).foldl (fun p y => p ^^^ laneOf a (x + 5 * y)) 0
  a.mapIdx fun k w => w ^^^ laneOf c ((k + 4) % 5) ^^^ turnLane (laneOf c ((k + 1) % 5)) 1

/-- The turns of step ρ, by the lane they turn. -/
def keccakTurns : List Nat :=
  [0, 1, 62, 28, 27, 36, 44, 6, 55, 20, 3, 10, 43, 25, 39, 41, 45, 15, 21, 8, 18, 2, 61, 56, 14]
/-- The steps ρ and π: lane (x, y) of the result is lane (x + 3·y, x), turned. -/
def keccakMove (a : List Nat) : List Nat :=
  (List.range 25).map fun k =>
    let from_ := (k % 5 + 3 * (k / 5)) % 5 + 5 * (k % 5)
    turnLane (laneOf a from_) (laneOf keccakTurns from_)
/-- The step χ: the one that is not linear. -/
def keccakChi (a : List Nat) : List Nat :=
  (List.range 25).map fun k =>
    let row := 5 * (k / 5)
    laneOf a k ^^^ ((2 ^ 64 - 1 - laneOf a (row + (k + 1) % 5)) &&& laneOf a (row + (k + 2) % 5))

/-- The constants of step ι, one a round. -/
def keccakConsts : List Nat :=
  [0x0000000000000001, 0x0000000000008082, 0x800000000000808A, 0x8000000080008000, 0x000000000000808B, 0x0000000080000001,
   0x8000000080008081, 0x8000000000008009, 0x000000000000008A, 0x0000000000000088, 0x0000000080008009, 0x000000008000000A]
  ++ [0x000000008000808B, 0x800000000000008B, 0x8000000000008089, 0x8000000000008003, 0x8000000000008002, 0x8000000000000080,
   0x000000000000800A, 0x800000008000000A, 0x8000000080008081, 0x8000000000008080, 0x0000000080000001, 0x8000000080008008]
/-- One round, and the permutation of 24 rounds. -/
def keccakRound (a : List Nat) (rc : Nat) : List Nat :=
  (keccakChi (keccakMove (keccakTheta a))).mapIdx fun k w => if k = 0 then w ^^^ rc else w
def keccak (a : List Nat) : List Nat := keccakConsts.foldl keccakRound a

/-- A block of 136 bytes joins the state. -/
def absorb (a : List Nat) (block : List Byte) : List Nat :=
  keccak (a.mapIdx fun k w => if k < 17 then w ^^^ natOf ((block.drop (8 * k)).take 8) else w)
/-- The padded message, block by block. -/
def absorbAll : Nat → List Byte → List Nat → List Nat
  | 0, _, a => a
  | n + 1, bs, a => absorbAll n (bs.drop 136) (absorb a (bs.take 136))
/-- The padding of a message of n bytes: 01 and 1 at its two ends, to a multiple of 136 bytes. -/
def sha3Pad (n : Nat) : List Byte :=
  let z := 136 - n % 136
  if z = 1 then [0x86] else 0x06 :: (List.replicate (z - 2) 0 ++ [0x80])

/-- The digest, its first byte the least significant. -/
def sha3 (bs : List Byte) : BitVec 256 :=
  let a := absorbAll (bs.length / 136 + 1) (bs ++ sha3Pad bs.length) (List.replicate 25 0)
  BitVec.ofNat 256 (natOf ((List.range 4).flatMap fun k => bytesOf 8 (laneOf a k)))

/-! ## Signatures (R461, R462) -/

/-- The signature of a digest by the key pair with a public key, which only the holder of its private key makes (log entry 24). -/
def keySignature (key : BitVec 10496) (digest : BitVec 256) : List Byte := (List.range 2420).map (Config.signatureByte key digest)
/-- Whether ML-DSA-44 accepts a signature of a digest under a public key: always the one that the key pair makes, and perhaps others. -/
def signatureOk (key : BitVec 10496) (digest : BitVec 256) (sig : List Byte) : Bool :=
  sig == keySignature key digest || Config.acceptsToo key digest sig

/-- The digest of a public key. -/
def keyDigest (key : BitVec 10496) : BitVec 256 := sha3 (bytesOf 1312 key.toNat)
/-- The digest fused into base die 0: that of the Edaifin public key (R461). -/
def fusedKeyDigest : BitVec 256 := keyDigest Config.edaifinKey

end Sys2Proof.Machine
end

