-- ==== Sys2Proof/Machine/Map.lean ====
section
/-!
DEFINITION. Sparse maps keyed by numbers: lists of (key, value) pairs in one canonical form, keys strictly rising and no entry equal
to the default value, so that equal contents are equal data. Registers, memory bytes and records of units are held so.
-/

namespace Sys2Proof.Machine

/-- A sparse map. Which value an unlisted key has is said where the map is read. -/
abbrev SMap (α : Type) := List (Nat × α)

/-- The value at a key, `d` where the key is not listed. -/
def SMap.get {α : Type} (d : α) : SMap α → Nat → α
  | [], _ => d
  | (k, v) :: r, n => if k = n then v else SMap.get d r n

/-- Removes a key. -/
def SMap.erase {α : Type} : SMap α → Nat → SMap α
  | [], _ => []
  | (k, v) :: r, n => if k = n then SMap.erase r n else (k, v) :: SMap.erase r n

/-- Inserts an entry before the first larger key. -/
def SMap.insert {α : Type} (n : Nat) (x : α) : SMap α → SMap α
  | [] => [(n, x)]
  | (k, v) :: r => if n < k then (n, x) :: (k, v) :: r else (k, v) :: SMap.insert n x r

/-- Sets a key; the default value is not listed. -/
def SMap.set {α : Type} [DecidableEq α] (d : α) (m : SMap α) (n : Nat) (x : α) : SMap α :=
  if x = d then m.erase n else (m.erase n).insert n x

/-- The canonical form: keys strictly rising from `lo` on, no entry equal to the default. -/
def SMap.wfFrom {α : Type} [DecidableEq α] (d : α) : Nat → SMap α → Bool
  | _, [] => true
  | lo, (k, v) :: r => decide (lo ≤ k) && decide (v ≠ d) && SMap.wfFrom d (k + 1) r
def SMap.wf {α : Type} [DecidableEq α] (d : α) (m : SMap α) : Bool := SMap.wfFrom d 0 m

/-- Sets a run of consecutive keys. -/
def SMap.setList {α : Type} [DecidableEq α] (d : α) (m : SMap α) (n : Nat) : List α → SMap α
  | [] => m
  | x :: r => SMap.setList d (m.set d n x) (n + 1) r

/-- The values at `len` consecutive keys. -/
def SMap.getList {α : Type} (d : α) (m : SMap α) (n len : Nat) : List α := (List.range len).map fun k => m.get d (n + k)

/-- Applies a function to every listed value, dropping what becomes the default. -/
def SMap.mapVals {α : Type} [DecidableEq α] (d : α) (f : α → α) : SMap α → SMap α
  | [] => []
  | (k, v) :: r => if f v = d then SMap.mapVals d f r else (k, f v) :: SMap.mapVals d f r

/-- Keeps the entries whose key satisfies a test. -/
def SMap.keep {α : Type} (m : SMap α) (f : Nat → Bool) : SMap α := m.filter fun e => f e.1

end Sys2Proof.Machine
end

