-- ==== Sys2Proof/Machine/State.lean ====
section
/-!
DEFINITION. The state of the device as plain data, the reasons a step can stop, and the state after reset.
Records of groups, blocks, gangs, tasks, cores and clusters are held in sparse maps keyed by numbers, a vacant record being
the default.
-/

namespace Sys2Proof.Machine

/-! ## Groups -/

/-- Why a group does not issue (R186, R409 `XSTOP`), or that it runs; `vacant` is a slot that holds no group. -/
inductive StopKind where
  | running | fault | trap | brk | savePoint | exited | vacant
deriving DecidableEq, Repr

/-- One register write of a word: an s register, one lane of a v register, a predicate, SF, `PSDEPTH` (R195), or the RNG state of a lane (R231). -/
inductive RegWrite where
  | s (n : Nat) (x : W32)
  | v (reg lane : Nat) (x : W32)
  | p (n : Nat) (x : W32)
  | sf (x : W32)
  | psd (n : Nat)
  | rng (lane : Nat) (key ctr : W64)
deriving DecidableEq, Repr

/-- A fixed-latency word in flight: the clock its writes land, its code index, its writes and flags (R88, R148), and for a replay its
latency and its passes (R143, R154). -/
structure Pend where
  land : Nat
  idx : W32
  ws : List RegWrite
  flags : FlagSet
  lat : Nat
  passes : Nat
deriving DecidableEq, Repr

/-- The counter a variable-latency word raised (R151). -/
inductive Counter where
  | none | vmc | bfc | sfc
deriving DecidableEq, Repr

/-- Where a park entry stands (R160 STAGE). -/
inductive Stage where
  | waiting | beacon | list | lantern
deriving DecidableEq, Repr

/-- A park entry (R160), by the fields of its layout: those of kind 2 are `bslt` to `pwin` (R333), `op2` its `OP`. It belongs to a flight of a group,
or to the engine word of a block, whose entries have group number 64. -/
structure ParkEntry where
  fn : Nat
  kind : Nat
  part : Nat
  slot : Nat
  lane : Nat
  rnd : Nat
  etype : Nat
  nfs : Nat
  di : Nat
  vd : Nat
  va : Nat
  vb : Nat
  stage : Stage
  ptime : Nat
  opa : W64
  opb : W64
  gang : Nat
  blk : Nat
  grp : Nat
  flight : Nat
  op2 : Nat := 0
  bslt : Nat := 0
  eidx : Nat := 0
  first : Bool := false
  panch : Int := 0
  pwin : Int := 0
  /-- the exact result is a point of R157's list, which no interval decides (R157, R162) -/
  tie : Bool := false
deriving DecidableEq, Repr

/-- One lane's access to KV space, as its word was translated (R360, R362, R364): the lane and the register a read writes; the physical addresses of
the bytes that hold the cell, the cell's first bit there and its width; for a write its value, and the address of the block's `FILL` with the least
value it takes (R359); and the space. -/
structure KvAcc where
  lane : Nat
  reg : Nat
  pas : List Nat
  bit : Nat
  width : Nat
  val : Option Nat
  fill : Option (Nat × Nat)
  space : Nat
deriving DecidableEq, Repr

/-- A variable-latency word in flight: its writes not yet made, the s and v registers it locks beyond its writes (source
registers of a kind 1 park entry, R150), its parked lanes by park entry with their writes and flags, its pending flags, its counter,
and whether the writes of its undelayed lanes have been made (R150, R151, R164). `due` is the first clock at which it can end its fast path or its
division and `lat` the clocks from its issue to it (R151, R157); `toPark` holds the entries that its rounding test will park, and `held` the park
entries reserved until then (R159). -/
structure Flight where
  id : Nat
  idx : W32
  ws : List RegWrite
  flags : FlagSet
  parked : List (Nat × List RegWrite × FlagSet)
  srcs : List Nat
  cnt : Counter
  written : Bool
  /-- the word holds the partition's divider (R151) -/
  divider : Bool
  due : Nat
  lat : Nat
  toPark : List (ParkEntry × List RegWrite × FlagSet)
  held : Nat
  /-- a DRAINNT, which ends when the group's earlier non-temporal stores are written (R274) -/
  drains : Bool := false
  /-- the accesses of a KV word, performed when it lands (R362) -/
  kv : List KvAcc := []
  /-- the handle that a typed-buffer word reads or writes, and which it does (R394) -/
  hnd : Option (Nat × Bool × Bool) := none
  /-- scalar registers that the word locks and may leave unchanged (R398) -/
  lockS : List Nat := []
  /-- a FENCE at a scope, which ends when its release is complete (R273) -/
  fence : Option Nat := none
deriving DecidableEq, Repr

/-- A hardware loop entry: start, last code index, count (R172). -/
structure LoopEntry where
  start : W32
  last : W32
  count : W32
deriving DecidableEq, Repr

/-- A group, or the handler group of a gang (R100 to R106, R172, R407, R409). -/
structure Group where
  st : StopKind
  handler : Bool
  /-- vector registers per lane -/
  nv : Nat
  v : SMap W32
  s : SMap W32
  p : SMap W32
  stk : SMap W32
  depth : Nat
  /-- `PSDEPTH`, which follows the depth with predicate latency (R148, R195) -/
  psd : Nat
  mode : W32
  flags : W32
  trapen : W32
  sf : W32
  lclk : W64
  clkHi : W32
  cycHi : W32
  rngKey : SMap W64
  rngCtr : SMap W64
  loops : SMap LoopEntry
  loopd : Nat
  pc : W32
  resume : W32
  pend : List Pend
  flights : List Flight
  vmc : Nat
  bfc : Nat
  sfc : Nat
  readyAt : Nat
  /-- passes of the word that issues (R143), and the clock until which a replay freezes the group (R154) -/
  passes : Nat
  frozen : Nat
  /-- arrivals in current phases: 1 at each barrier, 0 to 15 for b, 16 to 19 for g -/
  arr : SMap Nat
  /-- barriers the group has ever arrived at (R391) -/
  ever : SMap Nat
  /-- a pending arithmetic trap: the code index and the flags raised (R135) -/
  atrap : Option (W32 × FlagSet)
  /-- MWATCH: the armed line and whether a write to it has been seen (R399) -/
  watch : Option (Nat × Bool)
  /-- TRAP has made its release, and waits for room in the ring or for its reply (R177, R414) -/
  called : Bool
  /-- the word at pc waits for a barrier's phase: the barrier, the phase, and whether the group's arrival there is made (R59, R391) -/
  barWait : Option (Nat × Nat × Bool)
  /-- the word at pc has passed tests 1 to 5 of R248 and waits in test 6 -/
  tested : Bool
  /-- stopped at a TRAP or a BKPT, which retires when the group is released (R177, R178) -/
  owed : Bool
  /-- released by ERET during a restore, waiting for the handler's STOP (R425) -/
  freed : Bool
  /-- the selection of a supervisor group: block and group (R182) -/
  sel : Option (Nat × Nat)
  xhsel : W32
  xbsel : W32
  tinvlo : W32
  tinvhi : W32
  kvinvlo : W32
  kvinvhi : W32
  /-- the packet buffer: control word, and the word after the word at pc (R85, R89) -/
  ctl : W32
  lit : W32
  /-- words whose replay failed, which are executed again when the group resumes: of fixed latency, and of variable latency (R155) -/
  redo : List Pend := []
  again : List Flight := []
deriving DecidableEq, Repr

/-- A slot that holds no group; also the registers of a group at its start (R106) but for its stop kind and size. -/
def Group.vacant : Group :=
  { st := .vacant, handler := false, nv := 0, v := [], s := [], p := [], stk := [], depth := 0, psd := 0, mode := 0x140, flags := 0,
    trapen := 0, sf := 0, lclk := 0, clkHi := 0, cycHi := 0, rngKey := [], rngCtr := [], loops := [], loopd := 0, pc := 1,
    resume := 0, pend := [], flights := [], vmc := 0, bfc := 0, sfc := 0, readyAt := 0, passes := 1, frozen := 0, arr := [], ever := [], atrap := none,
    watch := none, called := false, barWait := none, tested := false, owed := false, freed := false, sel := none, xhsel := 0, xbsel := 0, tinvlo := 0, tinvhi := 0, kvinvlo := 0,
    kvinvhi := 0, ctl := 0, lit := 0 }

/-- The default loop entry. -/
def LoopEntry.zero : LoopEntry := ⟨0, 0, 0⟩

/-! ## Faults -/

/-- What a fault record says beyond the identity of its stream (R412). -/
structure FaultInfo where
  code : Nat
  cause : Nat
  freg : Nat
  fclass : Nat
  lane : Nat
  prog : Nat
  va : Nat
  imm : Nat
  key : Nat
  pos : Nat
  head : Nat
  iret : Bool
  impr : Bool
deriving DecidableEq, Repr

/-- A fault with a code and no access: class 0xFF, no region (R412). -/
def FaultInfo.plain (code : Nat) : FaultInfo :=
  { code := code, cause := 0, freg := 0, fclass := 0xFF, lane := 0, prog := 0, va := 0, imm := 0, key := 0, pos := 0, head := 0,
    iret := false, impr := false }

/-! ## Tasks -/

/-- The launch parameter block's fields (R18, R19). -/
structure Lpb where
  gentry : Nat
  mentry : Nat
  tentry : Nat
  gridx : Nat
  gridy : Nat
  blocks : Nat
  groups : Nat
  regsC : Nat
  order : Nat
  panel : Nat
  abuf : Nat
  wbuf : Nat
  cbuf : Nat
  job : Bool
  pclass : Nat
  mirror : Bool
  checked : Bool
  idem : Bool
  repro : Bool
  prio : Nat
  barcnt : List Nat
  gbarcnt : List Nat
  ebudget : Nat
  asid : Nat
  hclog : Nat
  spill : Nat
  save : Nat
  pager : Nat
  hcring : Nat
  kvdesc : Nat
  seed : W64
  argp : Nat
  done : Nat
  cbmap : Nat
  jcount : Nat
  jsize : Nat
  jmin : Nat
  slots : Nat
  nfdt : List W32
deriving DecidableEq, Repr

/-- An LPB of zeros. -/
def Lpb.zero : Lpb :=
  { gentry := 0, mentry := 0, tentry := 0, gridx := 0, gridy := 0, blocks := 0, groups := 0, regsC := 0, order := 0, panel := 0, abuf := 0,
    wbuf := 0, cbuf := 0, job := false, pclass := 0, mirror := false, checked := false, idem := false, repro := false, prio := 0,
    barcnt := [], gbarcnt := [], ebudget := 0, asid := 0, hclog := 0, spill := 0, save := 0, pager := 0, hcring := 0, kvdesc := 0,
    seed := 0, argp := 0, done := 0, cbmap := 0, jcount := 0, jsize := 0, jmin := 0, slots := 0, nfdt := [] }

/-- A region record (R23). -/
structure Region where
  base : Nat
  ext : Nat
  sx : Int
  sy : Int
  kind : Nat
  fl : Bool
  inv : Bool
  fwd : Bool
deriving DecidableEq, Repr

/-- A dependence record (R27), with the task it names when one matched at dequeue. -/
structure Dep where
  pbmap : Nat
  pgx : Nat
  pgy : Nat
  kind : Nat
  ax : Int
  bx : Int
  cx : Int
  ay : Int
  byy : Int
  cy : Int
  producer : Option Nat
deriving DecidableEq, Repr

/-- Where a gang of a task stands (R50, R420). -/
inductive GangStat where
  | unplaced | placed | saved | retired
deriving DecidableEq, Repr

/-- A held contribution (R61, R265, R280): the order key (gang index, block, group, lane, issue number) and its gang's index, the physical
address and whether it lies in host memory, the operation's opcode, element type code, rounding mode, lane and operands; its number, by age, and
the record of the reduction overflow log that it has moved to. -/
structure Contrib where
  key : Nat
  gang : Nat
  pa : Nat
  host : Bool
  op : Nat
  etype : Nat
  rnd : Rnd
  lane : Nat
  val : W64
  val2 : W64
  num : Nat
  log : Option Nat
deriving DecidableEq, Repr

/-- A task (R17, R45, R50, R420, R436). -/
structure Task where
  /-- occupied: dequeued and not vacant -/
  used : Bool
  /-- active; a task that has retired or failed is kept only for R52 -/
  active : Bool
  lpb : Lpb
  /-- the LPB's address, for the fault records (R412) -/
  lpbAt : Nat
  queue : Nat
  regions : List Region
  deps : List Dep
  handles : List (Nat × BitVec 128)
  curves : SMap (List W32)
  donePA : Option Nat
  cursor : Nat
  /-- by gang linear index -/
  stats : SMap GangStat
  /-- live-gang slots in use, by slot: 1 when taken -/
  slots : SMap Nat
  /-- cluster + 1 that a gang killed for an error avoids, by gang linear index (R431) -/
  avoid : SMap Nat
  /-- cluster + 1 on which each gang last ran or completed, by gang linear index -/
  clusters : SMap Nat
  /-- the gangs at sequence numbers that have been passed over since they were last placed: 1 (R53) -/
  passed : SMap Nat
  /-- for a task with dependences, the clock in which the gang at a sequence number first tested as eligible, plus 1 (R46, R53); the clock of the
  dequeue, from which every gang of a task without them is eligible -/
  elig : SMap Nat := []
  dequeuedAt : Nat := 0
  /-- job card: next record of the central range, and the local queues by cluster -/
  dealNext : Nat
  locals : SMap (List (Nat × Nat))
  contribs : List Contrib
  seqNo : Nat
  failed : Bool
  failKind : Nat
  failCode : Nat
  failRec : List W32
  /-- `MFLAGS` posted at block ends and EB (R320, R341, R435); retired gangs -/
  flagsOr : W32
  /-- the flags that the held contributions raised when they were applied (R435 step 1); a task that fails leaves them out -/
  contribFlags : W32 := 0
  retired : Nat
  /-- clock sums of the last 16 retired gangs, newest first (R422) -/
  sums : List Nat
  /-- earlier conflicting tasks, which must retire first (R81) and count as producers (R76) -/
  serial : List Nat
  /-- the gangs whose completion actions have ended and that have not retired, in that order (R434) -/
  ending : List Nat := []
  /-- the clock in which the local queue of a cluster last served a steal, plus 1 (R57) -/
  stolen : SMap Nat := []
deriving DecidableEq, Repr

def Task.vacant : Task :=
  { used := false, active := false, lpb := Lpb.zero, lpbAt := 0, queue := 0, regions := [], deps := [], handles := [], curves := [],
    donePA := none, cursor := 0, stats := [], slots := [], avoid := [], clusters := [], passed := [], dealNext := 0, locals := [], contribs := [],
    seqNo := 0, failed := false, failKind := 0, failCode := 0, failRec := [], flagsOr := 0, retired := 0,
    sums := [], serial := [] }

/-! ## Blocks -/

/-- A barrier: arrivals in the current phase, completed phases (the phase bit is their parity), and phases whose waiters
have been released (R26, R390). -/
structure Bar where
  count : Nat
  gen : Nat
  rel : Nat
deriving DecidableEq, Repr
def Bar.zero : Bar := ⟨0, 0, 0⟩

/-- The states of a Tender or a matrix sequencer, in the order of R289's table. -/
inductive SeqState where
  | idle | running | waiting | suspended | stopped | ended
deriving DecidableEq, Repr

/-- A looping copy (R307): iterations, step, dimension, ring size, the next iteration to begin, and the iterations in flight with the progress of
each, oldest first. -/
structure LoopRec where
  n : Nat
  delta : W64
  k : Nat
  ring : Nat
  next : Nat
  live : List (Nat × Nat)
deriving DecidableEq, Repr

/-- A copy word in flight (R288, R302, R309): opcode, code index, descriptor numbers and the descriptors captured at issue, the
captured register operands, the finish and event requests, rounding, saturation, handle field; then its progress and the number of its
elements, whether it is suspended at a fault of an element, its loop, the bytes moved, how many of its finish transitions are made, and whether they
all are (`ended` 1) and its event is posted (2). `seq` is its place in program order. -/
structure CopyRec where
  op : Nat
  idx : W32
  dn : Nat
  desc : BitVec 256
  dn2 : Nat
  desc2 : BitVec 256
  args : List W64
  fin : Bool
  ev : Bool
  rnd : Rnd
  sat : Bool
  h : Nat
  prog : Nat
  count : Nat
  stuck : Bool
  loop : Option LoopRec
  moved : Nat
  ended : Nat
  fins : Nat := 0
  seq : Nat := 0
  /-- the fault at which it stands, while that is still to be reported (R317) -/
  fault : Option FaultInfo := none
deriving DecidableEq, Repr

/-- A buffer side of a copy word (R304): its block and handle, whether it is read, whether a begin transition is asked for, and the swizzle that a
read expects. -/
structure CopySide where
  blk : Nat
  h : Nat
  read : Bool
  beg : Bool
  swz : Nat
deriving DecidableEq, Repr

/-- A Tender context (R288, R289). -/
structure Tender where
  t : SMap W64
  d : SMap (BitVec 256)
  tpc : W32
  tflags : BitVec 8
  st : SeqState
  back : SeqState
  recs : SMap (Option CopyRec)
  /-- arrivals in current phases, barriers ever arrived at, and the phase waited for, as in a group -/
  arr : SMap Nat
  ever : SMap Nat
  barWait : Option (Nat × Nat × Bool)
  /-- parts of the waiting word that are done: begin transitions, or its event record handed over -/
  held : Nat
  /-- the word whose load awaits the host, or that is suspended with part of its effect made -/
  got : Option W64
  /-- the waiting word has passed tests 1 to 5 of R248; the sides of a waiting copy word -/
  tested : Bool
  sides : List CopySide
  /-- restored from a dump with a record that failed its check, whose fault is raised when the stream goes on (R429) -/
  bad : Bool := false
deriving DecidableEq, Repr

def Tender.idle : Tender :=
  { t := [], d := [], tpc := 0, tflags := 0, st := .idle, back := .idle, recs := [], arr := [], ever := [], barWait := none,
    held := 0, got := none, tested := false, sides := [] }

/-- An operand binding of a matrix sequencer (R326, R327): source block plus 1 when remote, handle, byte offset, and the map reference,
or the join mask of a remote binding. -/
structure Bind where
  remote : Nat
  h : Nat
  off : W32
  mref : W32
deriving DecidableEq, Repr
/-- A binding at block start. -/
def Bind.zero : Bind := ⟨0, 0, 0, 0⟩

/-- An engine word in the operation queue with its captured operands (R319, R321): opcode, code index, bindings, formats, geometry, the
registers md, ma, mb and mb + 1, and the bits of the word's x field. `epc` and `qord` are the counts before the word (R341, R342), `joinA`
and `joinB` the joins it takes part in, plus 1 (R327). `stage`: 0 queued, 1 its cell and port work done, 2 waiting for the budget order,
3 in progress: at the patch, row or KV block `prog` (R349, R363, R375), with an `ATT`'s row states m and l, and there at step `kstep`. `begun` and
`ended` count the transitions and posts made, `flags` and `data` are what its completion delivers. `seq` names the word in its park entries; `toPark`
are entries that it has yet to park, `resv` says that it holds the engine and its reservation, of which `held` entries are not filled (R333); `stuck`
that its stream is suspended at it (R348); `wideA` and `wideB` what its map lookups found (R328). -/
structure EngWord where
  op : Nat
  idx : W32
  bindA : Bind
  bindB : Bind
  bindC : Bind
  bindMap : Bind
  mfmt : W32
  m : Nat
  n : Nat
  k : Nat
  md : W32
  ma : W32
  mb : W32
  mc : W32
  x : Nat
  epc : W32
  qord : W32
  joinA : Nat
  joinB : Nat
  stage : Nat
  prog : Nat
  rows : List (Nat × Nat)
  begun : Bool
  ended : Nat
  flags : FlagSet
  data : Nat
  seq : Nat := 0
  kstep : Nat := 0
  toPark : List ParkEntry := []
  held : Nat := 0
  resv : Bool := false
  stuck : Bool := false
  wideA : Bool := false
  wideB : Bool := false
  /-- an epilogue whose cell work is done but for the elements that its entries will return (R321, R339) -/
  late : Bool := false
deriving DecidableEq, Repr

/-- A matrix sequencer context (R319). -/
structure Matrix where
  m : SMap W32
  mpc : W32
  mfmt : W32
  tm : Nat
  tn : Nat
  tk : Nat
  binds : SMap Bind
  mflags : BitVec 8
  epc : W32
  qord : W32
  nwid : W32
  nclip : W32
  st : SeqState
  back : SeqState
  queue : List EngWord
  arr : SMap Nat
  ever : SMap Nat
  barWait : Option (Nat × Nat × Bool)
  held : Nat
  /-- restored from a dump with a record that failed its check, as for a Tender -/
  bad : Bool := false
deriving DecidableEq, Repr

def Matrix.idle : Matrix :=
  { m := [], mpc := 0, mfmt := 0, tm := 0, tn := 0, tk := 0, binds := [], mflags := 0, epc := 0, qord := 0, nwid := 0, nclip := 0, st := .idle,
    back := .idle, queue := [], arr := [], ever := [], barWait := none, held := 0 }

/-- An `EVPOP` that waits for a record or for its turn (R395): the clock in which it came to its checks, its group, and that group's logical clock there,
which tells whether it still stands at the word. -/
structure PopWait where
  at_ : Nat
  grp : Nat
  lclk : W64
deriving DecidableEq, Repr

/-- A block of a gang (R13, R247, R253). -/
structure Block where
  used : Bool
  core : Nat
  /-- its context number on the core (R333 `BSLT`) -/
  ctx : Nat
  /-- vector registers per lane of its groups, and the number of its groups -/
  nv : Nat
  ngroups : Nat
  /-- partition of each group, and its slot in the partition (R21, R145) -/
  parts : List Nat
  slots : List Nat
  /-- where its A-, W- and C-buffer ranges start on the core, in 4 KiB units (R243) -/
  abase : Nat
  wbase : Nat
  cbase : Nat
  handles : SMap (BitVec 128)
  /-- the clock + 1 of each handle's latest transition (R250) -/
  moved : SMap Nat
  bars : SMap Bar
  events : List (BitVec 128)
  /-- records of posters that wait for room, oldest first, each with a number that names its poster (R254) -/
  posts : List (Nat × BitVec 128)
  abuf : SMap Byte
  wbuf : SMap Byte
  /-- C-buffer elements, 128 bits each by element index (R136) -/
  cbuf : SMap (BitVec 128)
  tnd : Tender
  mat : Matrix
  /-- the waiting `EVPOP` words in the order in which they are served, and the clock + 1 in which one was served last (R395) -/
  pops : List PopWait := []
  popped : Nat := 0
deriving DecidableEq, Repr

def Block.vacant : Block :=
  { used := false, core := 0, ctx := 0, nv := 0, ngroups := 0, parts := [], slots := [], abase := 0, wbase := 0, cbase := 0, handles := [], moved := [], bars := [], events := [], posts := [], abuf := [], wbuf := [],
    cbuf := [], tnd := Tender.idle, mat := Matrix.idle }

/-! ## Gangs -/

/-- A line of a gang's store buffer (R256): bytes by offset plus 256 (so that a zero byte is listed), block, group and code index of
its latest store, and whether that group has exited. -/
structure StoreLine where
  bytes : SMap Nat
  blk : Nat
  grp : Nat
  idx : W32
  iret : Bool
deriving DecidableEq, Repr

/-- Work for a gang's handler group (R407, R417): reason 0 pager, 1 save, 2 restore; the record; and the stream it is for
(0 group, 1 Tender, 2 matrix) with its block and group. -/
structure HandlerWork where
  reason : Nat
  words : List W32
  strm : Nat
  blk : Nat
  grp : Nat
  /-- the clock in which it arose -/
  at_ : Nat
  /-- the handler run that serves it has released the stream -/
  freed : Bool
deriving DecidableEq, Repr

/-- A removal in progress (R421 to R426, R431): drain, save, flush, kill. -/
inductive Removal where
  | none | drain | save | flush | kill
deriving DecidableEq, Repr

/-- Where a gang is between placement and its streams' start (R50, R73), or in a save or restore (R424, R425): `saved` is a saving handler
that has ended, `removed` a saved gang off its cores. -/
inductive GangPhase where
  | vacant | placing | running | completing | saving | saved | restoring | removed
deriving DecidableEq, Repr

/-- A join of a gang (R327): its number, slot and mask; of each member that has issued its word, what must agree; the source bytes once they
are read; the members whose word has completed. -/
structure JoinRec where
  id : Nat
  slot : Nat
  mask : Nat
  vals : List (Nat × List Nat)
  data : Option (List Byte)
  done : List Nat
deriving DecidableEq, Repr

structure Gang where
  phase : GangPhase
  task : Nat
  gx : Nat
  gy : Nat
  seqNo : Nat
  cluster : Nat
  first : Nat
  hcore : Nat
  hpart : Nat
  /-- slot of the handler group in its partition -/
  hslot : Nat
  /-- live-gang slot of the task (R50) -/
  slot : Nat
  bars : SMap Bar
  store : SMap (Option StoreLine)
  window : Bool
  budget : Nat
  /-- decided tile keys, in increasing order (R341) -/
  tiles : List Nat
  /-- the joins in progress, oldest first, and the number of the next -/
  joins : List JoinRec
  nextJoin : Nat
  work : List HandlerWork
  busy : Option HandlerWork
  removal : Removal
  removalAt : Nat
  /-- core + 1 of the failed unit that asks for the removal, 0 for another request -/
  removalCore : Nat
  /-- the free-value index from which the device's own words of its dumps were taken (R429) -/
  dumpAt : Nat
  savePoint : Bool
  allStop : Bool
  savedOn : Nat
  placedAt : Nat
deriving DecidableEq, Repr

def Gang.vacant : Gang :=
  { phase := .vacant, task := 0, gx := 0, gy := 0, seqNo := 0, cluster := 0, first := 0, hcore := 0, hpart := 0, hslot := 0, slot := 0, bars := [],
    store := [], window := true, budget := 0, tiles := [], joins := [], nextJoin := 0, work := [], busy := none, removal := .none, removalAt := 0,
    removalCore := 0, dumpAt := 0, savePoint := false, allStop := false, savedOn := 0, placedAt := 0 }

/-! ## Cores and clusters -/

/-- A cached line's bytes: copies by offset plus 256 (an unlisted byte has no copy), and which are dirty (R256). -/
structure Line where
  bytes : SMap Nat
  dirty : BitVec 128
deriving DecidableEq, Repr
def Line.empty : Line := ⟨[], 0⟩

/-- A translation held by a TLB (R240): ASID, virtual base, log2 of the page size, physical base, memory type, permissions. -/
structure TlbEntry where
  asid : Nat
  va : Nat
  size : Nat
  pa : Nat
  mt : Nat
  sup : Bool
  x : Bool
  w : Bool
deriving DecidableEq, Repr

/-- A KV TLB entry (R360): the space by its descriptor's physical address, the key, the block and its SHARED bit. -/
structure KvEntry where
  desc : Nat
  key : Nat
  blk : Nat
  shared : Bool
deriving DecidableEq, Repr

structure Core where
  park : SMap (Option ParkEntry)
  reserved : Nat
  rcache : SMap Line
  tlb : List TlbEntry
  /-- region filter entries in use, as (gang, block, instances) (R71) -/
  filter : List (Nat × Nat × List Region)
  fenced : Bool
  fencedParts : List Nat
  /-- mirror transients of the core's engine since reset (R336, R346) -/
  mirror : Nat
deriving DecidableEq, Repr
def Core.vacant : Core := { park := [], reserved := 0, rcache := [], tlb := [], filter := [], fenced := false, fencedParts := [], mirror := 0 }

/-- An edge action of a gang in a cluster's queue (R73, R77): 0 start, 1 completion, 2 migration, and for a start whether the gang
resumes on the cluster where it was saved (R76). -/
structure EdgeAction where
  kind : Nat
  gang : Nat
  resume : Bool
deriving DecidableEq, Repr

structure Cluster where
  lines : SMap Line
  tlb : List TlbEntry
  edges : List EdgeAction
  /-- Beacon round-robin position, entries in the unit, the Lantern list and the entry in the stage, as core × 512 + entry -/
  rr : Nat
  beacon : List Nat
  lantern : List Nat
  inStage : Option Nat
  kvtlb : List KvEntry
  fenced : Bool
  /-- the Beacon unit or Lantern stage has failed: its entries pass to the partner (R433) -/
  passOn : Bool
  /-- reservation: first core, number of cores, task and gang sequence number (R53) -/
  resv : Option (Nat × Nat × Nat × Nat)
  /-- the reservation is that of a run which a realtime gang's pre-emption frees (R54) -/
  freeing : Bool := false
deriving DecidableEq, Repr
def Cluster.vacant : Cluster :=
  { lines := [], tlb := [], edges := [], rr := 0, beacon := [], lantern := [], inStage := none, kvtlb := [], fenced := false, passOn := false,
    resv := none }

/-! ## The device outside its clusters -/

/-- Dispatcher and management registers that hold a value of their own (R464 and the rules it names). -/
structure Mgmt where
  mstate : Nat
  mfail : Nat
  tqbase : Nat
  astbase : Nat
  orlog : Nat
  orsize : Nat
  lxbase : Nat
  lxsize : Nat
  dage : Nat
  pdrain : Nat
  pdlim : Nat
  saveent : Nat
  restent : Nat
  dbgctl : Nat
  fwcnt : Nat
  fwtime : Nat
  irqen : Nat
  linkerr : Nat
  pcap : Nat
  mrtask : Nat
  fnpsel : Nat
  fnmem : Nat
  /-- stacks with a channel to be fenced at the next reset (R433) -/
  hbmFaulty : Nat
  fnpeer : Nat
  mattaddr : Nat
  mattbusy : Bool
  mnonce : List W32
deriving DecidableEq, Repr

/-- A flit sent to the host: type, status, tag, length field, address field, payload bytes (R439, R440, R443). -/
structure Flit where
  ftype : Nat
  stat : Nat
  tag : Nat
  flen : Nat
  faddr : Nat
  data : List Byte
deriving DecidableEq, Repr

/-- A host-call or fault record on its way to the host (R414, R415): its words, the ring base and its log2 size, the stopped
stream (gang, stream kind, block, group), its number once written, and whether a breakpoint's all-stop waits on its reply. -/
structure HostCall where
  words : List W32
  ring : Nat
  log : Nat
  gang : Nat
  strm : Nat
  blk : Nat
  grp : Nat
  num : Option Nat
  allStop : Bool
  /-- a reply that arrived while the gang was saved: its mask and values -/
  reply : Option (Nat × List W32)
deriving DecidableEq, Repr

/-- How far a host-call ring's record in progress is (R414): the counts are to be read; the record of a call goes into slot m; `HCWR` is advanced, after
which the interrupt follows. -/
inductive RingOp where
  | idle
  | record (c : HostCall) (m : Nat)
  | count
deriving DecidableEq, Repr

/-- An access to host memory awaiting its response (R262, R441): its tag, the stream that waits (0 group, 1 Tender, 2 the device,
3 matrix sequencer), the
flight or copy record it belongs to, what it is, the lane and register that its response writes, its element type, address and length,
and the bytes of a response held for a copy word. -/
structure HostAcc where
  tag : Nat
  strm : Nat
  gang : Nat
  blk : Nat
  grp : Nat
  flight : Nat
  /-- 0 load, 1 store, 2 returning atomic, 3 non-returning atomic, 4 acquiring load, 5 bytes held until they are used, 6 the
  bytes of an instruction fetch -/
  kind : Nat
  lane : Nat
  reg : Nat
  etype : Nat
  addr : Nat
  len : Nat
  got : Option (List Byte)
  /-- an `STNT`'s store (R261), and the scope at which an acquiring access orders (R271) -/
  nt : Bool := false
  scope : Nat := 5
  /-- the task whose write this is, once its gang has gone (R437) -/
  task : Option Nat := none
deriving DecidableEq, Repr

/-- A `QPOP` on a queue's waiter list (R398): the descriptor's physical address, the group, its first register, and the entry delivered to it. -/
structure Waiter where
  desc : Nat
  gang : Nat
  blk : Nat
  grp : Nat
  reg : Nat
  got : Option (List W32)
deriving DecidableEq, Repr

/-- A steal that a DEAL has asked for (R57): the task, the group, its cluster and logical clock, and the clock in which the request was made. -/
structure Steal where
  task : Nat
  gang : Nat
  blk : Nat
  grp : Nat
  cl : Nat
  lclk : Nat
  at_ : Nat
deriving DecidableEq, Repr

/-- A message of a peer port (R314, R445): channel, length (of the box, and once it is granted of the message), bytes read or received and not yet
passed on, the Tender word it belongs to (gang, block, copy record), whether it is announced or posted, whether it is granted, the
elements of a send that are read or the bytes of a receive that are written, and whether the bytes of a send have all left. -/
structure PeerMsg where
  chan : Nat
  len : Nat
  data : List Byte
  gang : Nat
  blk : Nat
  rec_ : Nat
  announced : Bool
  granted : Bool
  done : Nat
  sent : Bool
deriving DecidableEq, Repr

/-- A peer port (R314, R444, R445). -/
structure Port where
  inactive : Bool
  half : Bool
  sends : List PeerMsg
  recvs : List PeerMsg
  announced : List PeerMsg
deriving DecidableEq, Repr
def Port.vacant : Port := ⟨false, false, [], [], []⟩

/-- What the dispatcher knows of a task queue (R43, R45): the counts of the waiting tasks that a notify has found, with the clock of the
first that did, oldest first; the counts of waiting tasks that the host has cancelled (R438). -/
structure QueueView where
  seen : List (Nat × Nat)
  cancelled : List Nat
deriving DecidableEq, Repr
def QueueView.vacant : QueueView := ⟨[], []⟩

/-- The stream, or event, in focus of `exec`: gang, block (16 for the handler group), group. -/
structure Focus where
  gang : Nat
  blk : Nat
  grp : Nat
deriving DecidableEq, Repr

/-- A firmware or microcode image (R461): its bytes, the public key offered for checking it, its signature over the SHA3-256 digest of its bytes, and its
security version. -/
structure Image where
  bytes : List Byte
  key : BitVec 10496
  sig : List Byte
  version : BitVec 16
deriving DecidableEq, Repr

/-- What bring-up goes by (R459, R461): the images in the host's flash, the fused minimum security version, and whether the module is outside its
limits; no reset changes these. And the images that the last good bring-up verified and loaded, which the device runs (R462). -/
structure Boot where
  fw : Image
  mc : Image
  minVersion : BitVec 16
  outside : Bool
  ranFw : Image
  ranMc : Image
deriving DecidableEq, Repr
/-- An image that is right: no bytes, signed by Edaifin, of version 0 (the model's choice, log entry 133). -/
def Image.first : Image := ⟨[], Config.edaifinKey, keySignature Config.edaifinKey (sha3 []), 0⟩
def Boot.first : Boot := ⟨Image.first, Image.first, 0, false, Image.first, Image.first⟩

/-- Which agent moves at a step (R145 and the like leave the order open): a group, a matrix sequencer or a Tender issues its next
word, or an event of the device or its surroundings takes place. -/
inductive Turn where
  | group (gang blk grp : Nat)
  | matrix (gang blk : Nat)
  | tender (gang blk : Nat)
  | event (i : Instr)
  /-- the next word of a stream (0 group, 1 Tender, 2 matrix sequencer), or a copy record's word (3) or a queued engine word (4) in progress,
  of number k, consumes an uncorrectable error (R419), which the unit of a kind and place counts (R432) -/
  | dataError (strm gang blk k ukind unit sub : Nat)
  /-- the word of a park entry consumes an uncorrectable error in it (R419) -/
  | parkError (core entry : Nat)
  /-- the commit of a gang finds an uncorrectable error in a line of its store buffer (R418) -/
  | commitError (gang line : Nat)
  /-- a checked unit counts an error that nothing consumed (R432): the kind and place of R443, and which unit of the place -/
  | unitEvent (kind unit sub : Nat)
  /-- the read cache of a core or the cache of a cluster replaces a line: the one named, or one of its choice when it holds too many (R255, R256);
  whether a write-back finds an uncorrectable error in it (R74) -/
  | replace (read : Bool) (unit : Nat) (line : Option Nat) (bad : Bool)
  /-- the host puts other firmware and microcode images into its flash (R460, R461) -/
  | flash (fw mc : Image)
  /-- the verified firmware raises the fused minimum security version (R461) -/
  | minVersion (v : BitVec 16)
  /-- the module is within its limits again (R459) -/
  | withinLimits
deriving DecidableEq, Repr

/-- The state of the machine. -/
structure State where
  /-- CCLK clocks since reset (R105) -/
  now : Nat
  /-- the stream in focus -/
  cur : Focus
  /-- the model's own: the turns to be taken, oldest first; when none is left a clock passes and the turns of the next are listed -/
  turns : List Turn
  /-- the model's own: the counter that free values are taken at -/
  fresh : Nat
  /-- the model's own: the lanes that the next escalatable words park, one mask a word (R157) -/
  parkMask : List W32
  groups : SMap Group
  blocks : SMap Block
  gangs : SMap Gang
  tasks : SMap Task
  cores : SMap Core
  clusters : SMap Cluster
  /-- device memory at the memory-side cache, by physical byte address; an unlisted byte reads 0 -/
  mem : List Host.Cell
  /-- poisoned lines, by physical line number: 1 (R74) -/
  poison : SMap Nat
  mgmt : Mgmt
  /-- flits sent to the host, oldest first -/
  outbox : List Flit
  calls : List HostCall
  hostAccs : List HostAcc
  /-- the waiter lists of the device queues, oldest first (R398) -/
  waiters : List Waiter
  nextTag : Nat
  nextFlight : Nat
  ports : SMap Port
  queues : SMap QueueView
  /-- queue last served in each class (R45) -/
  served : SMap Nat
  /-- retired tasks whose record is kept, oldest first (R52) -/
  recent : List Nat
  nextTask : Nat
  /-- invalidations in progress and waiting, oldest first: TINVCTL value, VA, and the flit tag plus 1 to be answered, 0 for none -/
  tinvs : List (W32 × Nat × Nat)
  /-- KV invalidations in progress: the descriptor's physical address, none where it has no translation -/
  kvinvs : List (Option Nat)
  /-- the host-call rings with a record in progress, by their base -/
  rings : SMap RingOp
  /-- steals that wait for their victim queue -/
  steals : List Steal
  /-- exact-sum pool blocks in use, by block index: the gang that holds the block, plus 1 (R334) -/
  lxUsed : SMap Nat
  /-- clocks of each checked unit's events, by `unitKey`, newest first (R432) -/
  unitEvents : SMap (List Nat)
  /-- the HBM channels and peer-port lanes declared faulty, by kind and place as in R443 (R433) -/
  declared : List (Nat × Nat)
  /-- power gaps are inserted; a thermal limit is passed; the device is stopped (R463) -/
  gaps : Bool
  hot : Nat
  off : Bool
  boot : Boot
deriving DecidableEq, Repr

/-- The management registers after reset (R464, R423, R432, R443, R45, R463). -/
def Mgmt.reset : Mgmt :=
  { mstate := 0, mfail := 0, tqbase := 0, astbase := 0, orlog := 0, orsize := 0, lxbase := 0, lxsize := 0, dage := 16, pdrain := 230,
    pdlim := 64, saveent := 0, restent := 0, dbgctl := 0, fwcnt := 4, fwtime := 10000, irqen := 0x3C, linkerr := 0, pcap := 2000,
    mrtask := 0, fnpsel := 0, fnmem := 0, hbmFaulty := 0, fnpeer := 0, mattaddr := 0, mattbusy := false, mnonce := [0, 0, 0, 0, 0, 0, 0, 0] }

/-- The machine right after reset. -/
def State.reset : State :=
  { now := 0, cur := ⟨0, 0, 0⟩, turns := [], fresh := 0, parkMask := [], groups := [], blocks := [], gangs := [], tasks := [], cores := [],
    clusters := [], mem := [], poison := [], mgmt := Mgmt.reset, outbox := [], calls := [], hostAccs := [], waiters := [], nextTag := 0, nextFlight := 0,
    ports := [], queues := [], served := [], recent := [], nextTask := 0, tinvs := [], kvinvs := [], rings := [], steals := [],
    lxUsed := [], unitEvents := [], declared := [], gaps := false, hot := 0, off := false,
    boot := Boot.first }

/-! ## How a step can stop -/

/-- Why the machine stops with a fault: nothing stops it, since the spec gives every fault an effect. -/
inductive Fault
deriving DecidableEq, Repr

/-- Why an instruction has no meaning. -/
inductive Refusal where
  /-- The instruction has no meaning in this model yet. Raised by the dispatch only; safe. -/
  | notModelled (mnemonic : String)
deriving DecidableEq, Repr

/-- The outcome of a step. -/
abbrev Out := Host.Outcome State Fault Refusal

end Sys2Proof.Machine
end

