-- ==== Sys2Proof/Machine/Ops.lean ====
section
/-!
DEFINITION. Named operations on the state: records of units, registers, writes that land, fault records and their routing, the taking of
a fault and the return from one (R100 to R107, R148, R150, R164, R409 to R415, R420).
-/

namespace Sys2Proof.Machine

/-! ## Records of units -/

def groupKey (gang blk grp : Nat) : Nat := gang * 2048 + blk * 64 + grp
def blockKey (gang blk : Nat) : Nat := gang * 32 + blk
/-- The block index that stands for a gang's handler group. -/
def handlerBlk : Nat := 16

def groupAt (s : State) (gang blk grp : Nat) : Group := s.groups.get Group.vacant (groupKey gang blk grp)
def setGroupAt (s : State) (gang blk grp : Nat) (g : Group) : State :=
  { s with groups := s.groups.set Group.vacant (groupKey gang blk grp) g }
def curGroup (s : State) : Group := groupAt s s.cur.gang s.cur.blk s.cur.grp
def setCurGroup (s : State) (g : Group) : State := setGroupAt s s.cur.gang s.cur.blk s.cur.grp g

def blockAt (s : State) (gang blk : Nat) : Block := s.blocks.get Block.vacant (blockKey gang blk)
def setBlockAt (s : State) (gang blk : Nat) (b : Block) : State := { s with blocks := s.blocks.set Block.vacant (blockKey gang blk) b }
def curBlock (s : State) : Block := blockAt s s.cur.gang s.cur.blk
def setCurBlock (s : State) (b : Block) : State := setBlockAt s s.cur.gang s.cur.blk b

def gangAt (s : State) (gang : Nat) : Gang := s.gangs.get Gang.vacant gang
def setGangAt (s : State) (gang : Nat) (g : Gang) : State := { s with gangs := s.gangs.set Gang.vacant gang g }
def curGang (s : State) : Gang := gangAt s s.cur.gang
def setCurGang (s : State) (g : Gang) : State := setGangAt s s.cur.gang g

def taskAt (s : State) (t : Nat) : Task := s.tasks.get Task.vacant t
def setTaskAt (s : State) (t : Nat) (x : Task) : State := { s with tasks := s.tasks.set Task.vacant t x }
/-- The task of the stream in focus. -/
def curTask (s : State) : Task := taskAt s (curGang s).task
def curLpb (s : State) : Lpb := (curTask s).lpb

def coreAt (s : State) (c : Nat) : Core := s.cores.get Core.vacant c
def setCoreAt (s : State) (c : Nat) (x : Core) : State := { s with cores := s.cores.set Core.vacant c x }
def clusterAt (s : State) (c : Nat) : Cluster := s.clusters.get Cluster.vacant c
def setClusterAt (s : State) (c : Nat) (x : Cluster) : State := { s with clusters := s.clusters.set Cluster.vacant c x }
def portAt (s : State) (p : Nat) : Port := s.ports.get Port.vacant p
def setPortAt (s : State) (p : Nat) (x : Port) : State := { s with ports := s.ports.set Port.vacant p x }

/-- The core, of 256, on which the stream in focus runs; the handler slot's for a handler group (R407). -/
def coreOf (s : State) (gang blk : Nat) : Nat := if blk = handlerBlk then (gangAt s gang).hcore else (blockAt s gang blk).core
def curCore (s : State) : Nat := coreOf s s.cur.gang s.cur.blk
/-- The partition of a group (R21, R407). -/
def partOf (s : State) (gang blk grp : Nat) : Nat :=
  if blk = handlerBlk then (gangAt s gang).hpart else ((blockAt s gang blk).parts[grp]?).getD 0

/-- The slot of a group in its partition (R145, R160). -/
def slotOf (s : State) (gang blk grp : Nat) : Nat :=
  if blk = handlerBlk then (gangAt s gang).hslot else ((blockAt s gang blk).slots[grp]?).getD 0
/-- The group number of the park entries of a block's matrix engine. -/
def engineGrp : Nat := 64

/-! ## A fresh free value -/

/-- The next free-value index. -/
def takeFresh (s : State) : Nat × State := (s.fresh, { s with fresh := s.fresh + 1 })

/-! ## Registers of a group -/

def readS (g : Group) (n : Nat) : W32 := g.s.get 0 n
def readV (g : Group) (r l : Nat) : W32 := g.v.get 0 (32 * r + l)
/-- p0 reads as all ones (R100). -/
def readP (g : Group) (n : Nat) : W32 := if n = 0 then 0xFFFFFFFF else g.p.get 0 n
/-- A pair: the even register holds bits [31:0] (R92). -/
def readPair (g : Group) (n : Nat) : W64 := (readS g (n + 1) ++ readS g n : BitVec (32 + 32))
def readVPair (g : Group) (r l : Nat) : W64 := (readV g (r + 1) l ++ readV g r l : BitVec (32 + 32))

def writeS (g : Group) (n : Nat) (x : W32) : Group := { g with s := g.s.set 0 n x }
def writeV (g : Group) (r l : Nat) (x : W32) : Group := { g with v := g.v.set 0 (32 * r + l) x }
/-- A write to p0 is discarded (R100). -/
def writeP (g : Group) (n : Nat) (x : W32) : Group := if n = 0 then g else { g with p := g.p.set 0 n x }

/-- Sets one lane's RNG state (R229). -/
def setRng (g : Group) (l : Nat) (k c : W64) : Group := { g with rngKey := g.rngKey.set 0 l k, rngCtr := g.rngCtr.set 0 l c }

/-- One register write. SF keeps only its four bits (R104). -/
def applyWrite (g : Group) : RegWrite → Group
  | .s n x => writeS g n x
  | .v r l x => writeV g r l x
  | .p n x => writeP g n x
  | .sf x => { g with sf := x &&& 0xF }
  | .psd n => { g with psd := n }
  | .rng l k c => setRng g l k c
def applyWrites (g : Group) (ws : List RegWrite) : Group := ws.foldl applyWrite g

/-- SetFlag (R135): sets flags of FLAGS, and makes an arithmetic trap pending when an enabled one is set. DESIGN CHOICE (log entry 112): while a
trap is pending, a second word's enabled flags make no other, and the record names the first word. -/
def setFlags (g : Group) (idx : W32) (f : FlagSet) : Group :=
  if f = 0 then g
  else
    let g := { g with flags := g.flags ||| f.setWidth 32 }
    let t := f &&& g.trapen.setWidth 8
    if t = 0 then g
    else match g.atrap with
      | none => { g with atrap := some (idx, f) }
      | some _ => g

/-! ## Modes -/

def modeGuard (g : Group) : Nat := g.mode.toNat % 16
def modeSense (g : Group) : Bool := g.mode.getLsbD 4
def modeEtype (g : Group) : Nat := g.mode.toNat / 32 % 32
/-- A 64-bit element type (R102). -/
def etypeWide (e : Nat) : Bool := e == 3 || e == 7 || e == 11
def modeRnd (g : Group) : Rnd := Rnd.ofCode (g.mode.toNat / 1024 % 8)
def modeIsat (g : Group) : Bool := g.mode.getLsbD 13
def modeNfs (g : Group) : Nat := g.mode.toNat / 16384 % 16
/-- Guard(l) (R141). -/
def guardAt (g : Group) (l : Nat) : Bool := (readP g (modeGuard g)).getLsbD l != modeSense g
/-- The guard mask. -/
def guardMask (g : Group) : W32 := if modeSense g then ~~~ (readP g (modeGuard g)) else readP g (modeGuard g)
/-- The enabled lanes in increasing order. -/
def lanesOn (g : Group) : List Nat := (List.range 32).filter (guardAt g)

/-! ## Fixed-latency writes that land (R88, R148) -/

/-- The landed entries in landing order: an entry landing earlier first, ties in issue order. -/
def insertPend (p : Pend) : List Pend → List Pend
  | [] => [p]
  | q :: r => if p.land < q.land then p :: q :: r else q :: insertPend p r
def sortPend (ps : List Pend) : List Pend := ps.foldl (fun l p => insertPend p l) []

/-- Makes one pending word's writes. -/
def landOne (g : Group) (p : Pend) : Group := setFlags (applyWrites g p.ws) p.idx p.flags

/-- Every fixed-latency write whose clock has come. -/
def landAt (t : Nat) (g : Group) : Group :=
  let due := sortPend (g.pend.filter fun p => decide (p.land ≤ t))
  due.foldl landOne { g with pend := g.pend.filter fun p => !decide (p.land ≤ t) }

/-- Puts a word of latency `lat` in flight at the issue clock `now`. -/
def addPend (g : Group) (now lat : Nat) (ws : List RegWrite) (f : FlagSet) : Group :=
  { g with pend := g.pend ++ [⟨now + lat, g.pc, ws, f, lat, g.passes⟩] }

/-! ## Registers as the checks of R88, R107 and R150 name them -/

inductive Reg where
  | s (n : Nat) | v (n : Nat) | p (n : Nat) | sf | psd | rng
deriving DecidableEq, Repr

def RegWrite.reg : RegWrite → Option Reg
  | .s n _ => some (.s n)
  | .v r _ _ => some (.v r)
  | .p n _ => if n = 0 then none else some (.p n)
  | .sf _ => some .sf
  | .psd _ => some .psd
  | .rng _ _ _ => some .rng

/-- The register that an access of a KV word is to write. -/
def KvAcc.reg? (a : KvAcc) : Option Reg := if a.val.isNone then some (.v a.reg) else none
/-- The registers that a flight still locks for reading and writing (R150). -/
def Flight.locks (f : Flight) : List Reg :=
  f.kv.filterMap KvAcc.reg? ++ f.lockS.map Reg.s ++
  (if f.written then [] else f.ws.filterMap RegWrite.reg) ++ (f.toPark.flatMap fun e => e.2.1.filterMap RegWrite.reg)
    ++ f.parked.flatMap fun e => e.2.1.filterMap RegWrite.reg
/-- Whether a flight has lanes that are parked or will be. -/
def Flight.parks (f : Flight) : Bool := !f.parked.isEmpty || !f.toPark.isEmpty

/-- Whether a word that reads `rs` and writes `ws` finds a locked register. -/
def lockedFor (g : Group) (rs ws : List Reg) : Bool :=
  g.flights.any fun f =>
    let ls := f.locks
    ls.any (fun r => rs.contains r || ws.contains r)
      || (f.parks && f.srcs.any fun n => ws.contains (.v n))
def anyLocked (g : Group) : Bool := g.flights.any fun f => !f.locks.isEmpty

/-! ## Fault records (R412) -/

/-- FWHO: cluster, core in the cluster, block and group. -/
def whoWord (core blk grp : Nat) : W32 :=
  BitVec.ofNat 32 ((core / 16 % 16) * 2 ^ 28 + (core % 16) * 2 ^ 24 + (blk % 16) * 2 ^ 20 + (grp % 64) * 2 ^ 14)

/-- The sixteen words of a record. `strm`: 0 group, 1 Tender, 2 matrix sequencer. -/
def faultWords (s : State) (gang strm blk grp : Nat) (idx guard : W32) (f : FaultInfo) : List W32 :=
  let gg := gangAt s gang
  let t := taskAt s gg.task
  let h := blk = handlerBlk
  let n (x : Nat) : W32 := BitVec.ofNat 32 x
  [ n (f.code * 2 ^ 24 + f.cause * 2 ^ 20 + strm * 2 ^ 18 + (if f.iret then 2 ^ 17 else 0) + (if f.impr then 2 ^ 16 else 0)
      + f.freg * 256 + f.fclass),
    n f.lane, idx, n f.prog, n f.va, n (f.va % 2 ^ 52 / 2 ^ 32), guard, n f.imm, n gg.gx, n gg.gy,
    whoWord (coreOf s gang blk) (if h then 0 else blk) (if h then 0 else grp),
    n (t.lpb.asid % 65536 + (t.lpbAt / 256 % 65536) * 65536),
    n f.key, n (f.key / 2 ^ 32), n f.pos, n f.head ]

/-- Codes that go to the pager when there is one (R410, R411). -/
def pagerCode (c : Nat) : Bool := c == 0x06 || c == 0x10 || decide (0x1A ≤ c ∧ c ≤ 0x1E)

/-! ## The memory side -/

/-- What an unlisted byte of device memory reads as: 0 (log entry 1). -/
def memDefault : Byte := 0
/-- The canonical form of memory. -/
abbrev Memory.wf (m : List Host.Cell) : Prop := SMap.wf memDefault m = true

/-- The bytes of device memory: 12 stacks of 48 GB (R3), decimal (R9). A byte beyond them reads as a free value, and a write to it is lost (log entry 122). -/
def memSize : Nat := 576 * 10 ^ 9
def memByte (s : State) (pa : Nat) : Byte := if pa < memSize then SMap.get memDefault s.mem pa else Config.absentByte pa
/-- The little-endian number of `len` bytes. -/
def memNat (s : State) (pa len : Nat) : Nat := natOf ((List.range len).map fun k => memByte s (pa + k))
def lineOf (pa : Nat) : Nat := pa / 128

/-- A write at the memory side is seen by every watch armed on its line (R399). -/
def noteWatch (s : State) (line : Nat) : State :=
  { s with groups := s.groups.mapVals Group.vacant fun g =>
      match g.watch with
      | some (l, _) => if l = line then { g with watch := some (l, true) } else g
      | none => g }

/-- Writes bytes into device memory from a physical address. -/
def memPut (s : State) (pa : Nat) (bs : List Byte) : State := { s with mem := SMap.setList memDefault s.mem pa (bs.take (memSize - pa)) }
/-- A write at the memory side that ends the waits on its lines (R399). -/
def memWrite (s : State) (pa : Nat) (bs : List Byte) : State :=
  let s := memPut s pa bs
  if bs.isEmpty then s
  else (List.range (lineOf (pa + bs.length - 1) - lineOf pa + 1)).foldl (fun s k => noteWatch s (lineOf pa + k)) s
def memWriteNat (s : State) (pa len n : Nat) : State := memWrite s pa (bytesOf len n)

/-- A waiter that leaves a queue's list without an entry lowers QDWAIT (R397, R398). -/
def lowerWait (s : State) (desc : Nat) : State := memWriteNat s (desc + 0x14) 4 (memNat s (desc + 0x14) 4 + 2 ^ 32 - 1)

/-- Takes waiters off the lists. -/
def dropWaiters (s : State) (f : Waiter → Bool) : State :=
  let gone := s.waiters.filter f
  gone.foldl (fun s w => if w.got.isNone then lowerWait s w.desc else s) { s with waiters := s.waiters.filter fun w => !f w }

/-! ## Removing a gang and failing a task (R420, R426) -/

/-- Whether a stream has ended, or there is none. -/
def SeqState.finished (x : SeqState) : Bool := x == .idle || x == .ended
/-- Every stream of a block has ended (R73). -/
def blockEnded (s : State) (gang blk : Nat) : Bool :=
  let b := blockAt s gang blk
  b.used && b.tnd.st.finished && b.mat.st.finished && (List.range b.ngroups).all fun g => (groupAt s gang blk g).st == .exited
/-- The `MFLAGS` that the ended blocks of a gang have posted (R320, R435). -/
def postedFlags (s : State) (gang : Nat) : W32 :=
  (s.blocks.filter fun e => e.1 / 32 == gang).foldl
    (fun f e => if blockEnded s gang (e.1 % 32) then f ||| e.2.mat.mflags.setWidth 32 else f) 0
/-- The posts join the task's flags. -/
def keepPosted (s : State) (gang : Nat) : State :=
  let f := postedFlags s gang
  if f = 0 then s
  else
    let k := (gangAt s gang).task
    let t := taskAt s k
    setTaskAt s k { t with flagsOr := t.flagsOr ||| f }

/-- Releases the park entries that the words of a gang's groups and engines still hold reserved (R159, R333). -/
def freeReserved (s : State) (gang : Nat) : State :=
  (s.groups.filter fun e => e.1 / 2048 == gang).foldl (fun s e =>
    let n := e.2.flights.foldl (fun n f => n + f.held) 0
    let core := coreOf s gang (e.1 % 2048 / 64)
    if n = 0 then s else setCoreAt s core { coreAt s core with reserved := (coreAt s core).reserved - n })
    ((s.blocks.filter fun e => e.1 / 32 == gang).foldl (fun s e =>
      let n := e.2.mat.queue.foldl (fun n w => n + w.held) 0
      if n = 0 then s else setCoreAt s e.2.core { coreAt s e.2.core with reserved := (coreAt s e.2.core).reserved - n }) s)

/-- Takes a gang off its cores: its groups, blocks and filter entries go, its uncommitted stores are dropped, and its calls and handler
work with it. Park entries of its lanes stay until they resolve; their results are then discarded. -/
def dropGang (s0 : State) (gang : Nat) : State :=
  let s := freeReserved (dropWaiters (keepPosted s0 gang) fun w => w.gang == gang) gang
  { s with
    groups := s.groups.keep fun k => k / 2048 != gang
    blocks := s.blocks.keep fun k => k / 32 != gang
    gangs := s.gangs.erase gang
    lxUsed := s.lxUsed.filter fun e => e.2 != gang + 1
    calls := (s.calls.filter fun c => c.gang != gang || (c.strm == 3 && c.num.isNone)).map fun c =>
      if c.gang = gang then { c with allStop := false } else c
    steals := s.steals.filter fun x => x.gang != gang
    hostAccs := s.hostAccs.map fun a => if a.gang == gang && a.strm != 2 then { a with strm := 2, task := some (gangAt s0 gang).task } else a
    cores := s.cores.mapVals Core.vacant fun c => { c with filter := c.filter.filter fun x => x.1 != gang }
    ports := s.ports.mapVals Port.vacant fun p => { p with
      sends := p.sends.filter fun m => m.gang != gang || m.granted
      recvs := p.recvs.filter fun m => m.gang != gang || m.granted } }

/-- The gangs of a task that have records. -/
def gangsOf (s : State) (task : Nat) : List Nat := (s.gangs.filter fun e => e.2.task == task).map Prod.fst
/-- A gang in its start or completion actions is not removed before they end (R78). -/
def inEdgeAction (g : Gang) : Bool := g.phase == .placing || g.phase == .completing

/-- A record that reports an error and stops no stream goes to the ring when there is one (R411). -/
def reportRecord (s : State) (task : Nat) (words : List W32) : State :=
  let l := (taskAt s task).lpb
  if l.hcring = 0 then s
  else { s with calls := s.calls ++ [⟨words, l.hcring, l.hclog, 0, 3, 0, 0, none, false, none⟩] }

/-- Ends the reservations of a task (R53). -/
def endReservations (s : State) (task : Nat) : State :=
  { s with clusters := s.clusters.mapVals Cluster.vacant fun c =>
      match c.resv with
      | some (_, _, t, _) => if t = task then { c with resv := none } else c
      | none => c }

/-- A task fails (R420): the first failure's kind, code and record stand, and a fault's record goes to the ring too (R436); its gangs are
removed without a save and its held contributions dropped. The completion record is written when the task retires. -/
def failTask (s : State) (task kind code : Nat) (words : List W32) : State :=
  let t := taskAt s task
  if t.failed || !t.active then s
  else
    let s := setTaskAt s task { t with failed := true, failKind := kind, failCode := code, failRec := words, contribs := [] }
    let s := ((gangsOf s task).filter fun g => !inEdgeAction (gangAt s g)).foldl dropGang s
    endReservations (if kind = 2 then reportRecord s task words else s) task

/-- A gang's linear index (R61). -/
def gangIndexOf (s : State) (gang : Nat) : Nat :=
  let gg := gangAt s gang
  gg.gy * (taskAt s gg.task).lpb.gridx + gg.gx

/-- A flush (R426): the gang's stores, held contributions and contexts go, its live-gang slot is released, and it is unplaced with its sequence
number. `avoid` is the cluster + 1 that its relaunch avoids, 0 for none (R431). -/
def flushGang (s : State) (gang avoid : Nat) : State :=
  let gg := gangAt s gang
  let ix := gangIndexOf s gang
  let t := taskAt s gg.task
  let s := setTaskAt s gg.task { t with
    stats := t.stats.set .unplaced ix .unplaced
    cursor := min t.cursor gg.seqNo
    slots := t.slots.set 0 gg.slot 0
    avoid := t.avoid.set 0 ix avoid
    contribs := t.contribs.filter fun c => c.gang != ix }
  dropGang s gang

/-- An error kill (R431): with the window open the gang is relaunched elsewhere, with it closed the task fails with the record. -/
def killGang (s : State) (gang code : Nat) (words : List W32) : State :=
  let gg := gangAt s gang
  if gg.window then flushGang (reportRecord s gg.task words) gang (gg.cluster + 1)
  else failTask s gg.task 2 code words

/-! ## Taking a fault and returning from one -/

/-- Handler work joins in the order in which it arose; the records of one clock by block, then by group (R407). -/
def addWork : List HandlerWork → HandlerWork → List HandlerWork
  | [], w => [w]
  | x :: r, w => if x.reason = 0 ∧ x.at_ = w.at_ ∧ w.blk * 64 + w.grp < x.blk * 64 + x.grp then w :: x :: r else x :: addWork r w

/-- Routes a record (R410, R411): to the pager's handler work, to the host-call ring, or to the failure of the task. A record for the
host of a task without a ring fails the task, and so does a fault of the handler group, but not its breakpoint (R408, R178). -/
def routeRecord (s : State) (gang strm blk grp code : Nat) (words : List W32) : State :=
  let gg := gangAt s gang
  let l := (taskAt s gg.task).lpb
  if blk = handlerBlk ∧ code ≠ 0x21 then failTask s gg.task 2 code words
  else if pagerCode code && l.pager != 0 then
    setGangAt s gang { gg with work := addWork gg.work ⟨0, words, strm, blk, grp, s.now, false⟩ }
  else if l.hcring != 0 then
    { s with calls := s.calls ++ [⟨words, l.hcring, l.hclog, gang, strm, blk, grp, none, false, none⟩] }
  else failTask s gg.task 2 code words

/-- Takes a fault of the group in focus (R413): it stops with the word at pc unperformed, XRESUME holds that word, and the record is
routed. -/
def takeFault (s : State) (f : FaultInfo) : State :=
  let g := curGroup s
  let words := faultWords s s.cur.gang 0 s.cur.blk s.cur.grp g.pc (guardMask g) f
  let s := setCurGroup s { g with st := .fault, resume := g.pc, tested := false }
  routeRecord s s.cur.gang 0 s.cur.blk s.cur.grp f.code words

/-- Takes a pending arithmetic trap (R135, R413): the record names the word that raised the flags; the group resumes at the first
word not yet issued. -/
def takeArithTrap (s : State) (idx : W32) (fl : FlagSet) : State :=
  let g := curGroup s
  let words := faultWords s s.cur.gang 0 s.cur.blk s.cur.grp idx (guardMask g) { FaultInfo.plain 0x20 with imm := fl.toNat }
  let s := setCurGroup s { g with st := .fault, resume := g.pc, atrap := none, tested := false }
  routeRecord s s.cur.gang 0 s.cur.blk s.cur.grp 0x20 words

/-- A control word is never issued (R85): where a supervisor has put a control word's index into `XRESUME` or into a loop entry's start, the group
goes on at the packet's first word. DESIGN CHOICE (log entry 135). -/
def skipControl (pc : W32) : W32 := if pc.toNat % 8 = 0 then pc + 1 else pc

/-- A stopped group that goes on at its resume point. A TRAP or a BKPT that it is stopped at retires now (R177, R178), also where the gang
was saved and restored in between. -/
def resumed (g : Group) (now : Nat) : Group :=
  { g with st := .running, pc := skipControl g.resume, lclk := g.lclk + (if g.owed then 1 else 0), owed := false, called := false, tested := false,
           readyAt := max g.readyAt now }

/-- Raises a counter of the group. -/
def raiseCounter (g : Group) : Counter → Group
  | .none => g
  | .vmc => { g with vmc := g.vmc + 1 }
  | .bfc => { g with bfc := g.bfc + 1 }
  | .sfc => { g with sfc := g.sfc + 1 }
/-- Lowers a counter of the group. -/
def lowerCounter (g : Group) : Counter → Group
  | .none => g
  | .vmc => { g with vmc := g.vmc - 1 }
  | .bfc => { g with bfc := g.bfc - 1 }
  | .sfc => { g with sfc := g.sfc - 1 }

/-- The words whose replay failed are executed again (R155, log entry 118): their results, which nothing has written, land as those of words that issue
now. -/
def redone (g : Group) (now : Nat) : Group :=
  let h := g.again.foldl (fun h f => raiseCounter h f.cnt) g
  { h with pend := h.pend ++ h.redo.map (fun p => { p with land := now + p.passes - 1 + p.lat }), redo := []
           flights := h.flights ++ h.again.map (fun f => { f with due := now + f.lat, held := 0 }), again := [] }
/-- Releases a stopped group at its resume point (R185, R415): the return from a fault, a trap or a breakpoint. -/
def releaseGroup (s : State) (gang blk grp : Nat) : State :=
  setGroupAt s gang blk grp (redone (resumed (groupAt s gang blk grp) s.now) s.now)

/-! ## The target of a supervisor group (R182, R186) -/

/-- Stopped in the sense of R186. -/
def isStopped (g : Group) : Bool := g.st == .fault || g.st == .trap || g.st == .brk || g.st == .savePoint

/-- The selected target, its fixed-latency writes landed; the error is the cross-group fault. -/
def targetOf (s : State) (needStopped : Bool) : Except FaultInfo (Nat × Nat × Group) :=
  match (curGroup s).sel with
  | none => .error (FaultInfo.plain 0x09)
  | some (b, k) =>
    let t := landAt s.now (groupAt s s.cur.gang b k)
    if needStopped && !isStopped t then .error (FaultInfo.plain 0x09) else .ok (b, k, t)

end Sys2Proof.Machine
end

