-- ==== Sys2Proof/Machine/Units.lean ====
section
/-!
DEFINITION. Interrupts (R443), and the counting of errors with the fencing of units declared faulty (spec/15 R432, R433).
-/

namespace Sys2Proof.Machine

/-- Sends an interrupt flit; classes 2 to 5 only when enabled. -/
def sendIntr (s : State) (cls vec payload : Nat) : State :=
  if 2 ≤ cls ∧ cls ≤ 5 ∧ s.mgmt.irqen / 2 ^ cls % 2 = 0 then s
  else { s with outbox := s.outbox ++ [⟨0x90, 0, 0, cls + vec % 256 * 16, payload, []⟩] }

/-! ## Declaring and fencing (R433, R443) -/

/-- The class 5 interrupt: the unit's kind and its place. -/
def declareFaulty (s : State) (kind unit : Nat) : State := sendIntr s 5 kind unit

/-- Fences a partition, a core, a cluster. -/
def fencePart (s : State) (core part : Nat) : State :=
  let c := coreAt s core
  if c.fencedParts.contains part then s else setCoreAt s core { c with fencedParts := c.fencedParts ++ [part] }
def fenceCore (s : State) (core : Nat) : State := setCoreAt s core { coreAt s core with fenced := true }
def fenceCluster (s : State) (cl : Nat) : State := setClusterAt s cl { clusterAt s cl with fenced := true }

/-- Sets bit k of a mask. -/
def withBit (m k : Nat) : Nat := m ||| 2 ^ k

/-- An HBM channel, which is fenced at the next reset, or a peer-port lane, with which its port runs on at half width: neither removes a gang, and
neither is declared twice. -/
def declareOnce (s : State) (kind unit : Nat) : State :=
  if (kind, unit) ∈ s.declared then s
  else
    let s1 := declareFaulty s kind unit
    let s2 := { s1 with declared := (kind, unit) :: s1.declared }
    if kind = 3 then { s2 with mgmt := { s2.mgmt with hbmFaulty := withBit s2.mgmt.hbmFaulty (unit % 16) } }
    else { setPortAt s2 (unit % 16) { portAt s2 (unit % 16) with half := true } with
             mgmt := { s2.mgmt with fnpeer := withBit s2.mgmt.fnpeer (unit % 16) } }

/-! ## Counting (R432) -/

/-- CCLK clocks in a millisecond. -/
def clocksPerMs : Nat := 1050000

/-- Where the events of a checked unit are counted: the unit's kind and place as R443 gives them, and which unit of that place it is. -/
def unitKey (kind unit sub : Nat) : Nat := sub * 2 ^ 20 + kind * 2 ^ 16 + unit
/-- Which unit of its place counts an event: a partition's scalar unit; a core's matrix engine (its other numbers are its other units). -/
def scalarSub : Nat := 1
def matrixSub : Nat := 1

/-- Whether the part has a place. -/
def placeExists (kind unit : Nat) : Bool := match kind with
  | 0 => decide (unit < 2048)
  | 1 => decide (unit < 256)
  | 2 => decide (unit < 16)
  | 3 => decide (unit < 1024) && decide (unit % 16 < 12)
  | 4 => decide (unit < 128)
  | _ => false

/-- A unit declared by counting: no new block is placed on it, and its gangs run to their ends. -/
def fenceByCount (s : State) (kind unit : Nat) : State :=
  match kind with
  | 0 =>
    if (coreAt s (unit % 256)).fencedParts.contains (unit / 256) then s
    else fencePart (declareFaulty s 0 unit) (unit % 256) (unit / 256)
  | 1 => if (coreAt s unit).fenced then s else fenceCore (declareFaulty s 1 unit) unit
  | 2 => if (clusterAt s unit).fenced then s else fenceCluster (declareFaulty s 2 unit) unit
  | _ => declareOnce s kind unit

/-- Counts an event of a unit; with `FWCNT` of them inside `FWTIME` ms it is declared faulty. -/
def countEvent (s : State) (kind unit sub : Nat) : State :=
  let k := unitKey kind unit sub
  let l := s.now :: ((s.unitEvents.get [] k).filter fun t => decide (s.now < t + s.mgmt.fwtime * clocksPerMs))
  let s1 := { s with unitEvents := s.unitEvents.set [] k l }
  if s.mgmt.fwcnt ≤ l.length then fenceByCount s1 kind unit else s1
/-- An event of a place that the part does not have changes nothing. -/
def countAt (s : State) (kind unit sub : Nat) : State := if placeExists kind unit then countEvent s kind unit sub else s

end Sys2Proof.Machine
end

