-- ==== Sys2Proof/Machine/Issue.lean ====
section
/-!
DEFINITION. Issue of a group word: the checks in the order of R109, the wait for readiness (R144), stall counts, loops and the
retirement of the word (R87, R88, R143, R149 to R151, R168, R171, R173).
-/

namespace Sys2Proof.Machine

/-! ## Code indices -/

/-- The next word (R168): control words are skipped, and `skip` literal words. -/
def nextWord (pc : W32) (skip : Nat) : W32 := skipControl (pc + BitVec.ofNat 32 (1 + skip))

/-- The stall count of the word at pc, from its packet's control word (R86). -/
def stallOf (ctl pc : W32) : Nat := ctl.toNat / 2 ^ (4 * (pc.toNat % 8 - 1)) % 16

/-- Whether the packet's control word is marked as one (R86, R90). -/
def markOk (ctl : W32) : Bool := ctl.toNat / 2 ^ 28 == 10

/-! ## What a word says of itself -/

/-- A group word for the issue checks: its instruction, the registers it reads and writes, its counter, and the
conditions that some words add. -/
structure Word where
  i : Instr
  reads : List Reg := []
  writes : List Reg := []
  cnt : Counter := .none
  /-- escalatable: needs a park reservation (R159) -/
  esc : State → Bool := fun _ => false
  divider : Bool := false
  passes : State → Nat := fun _ => 1
  /-- the word raises an illegal-packet fault here, whatever its operands hold (R90, R172) -/
  pkt : Bool := false
  /-- where the word transfers to, when it does (R169, R170) -/
  target : State → Option W32 := fun _ => none
  /-- a pair or block operand that starts on a register it may not, or a number that is not listed (R105, R107) -/
  odd : Bool := false
  /-- registers that the word names and does not read, for the range check alone (R107) -/
  also : List Reg := []
  /-- opcodes 0x11 to 0x16 (R108) -/
  priv : Bool := false
  /-- illegal in a handler group (R408) -/
  userOnly : Bool := false
  /-- a gang-ordered operation (R59) -/
  ordered : Bool := false
  /-- literal words that follow (R89) -/
  skip : Nat := 0
  /-- a register of another group that the word reads or writes still awaits a fixed-latency write of this group (R88, R454) -/
  cross : State → Bool := fun _ => false

/-- What a word does once its checks have passed. -/
inductive Res where
  /-- performed; goes on at the next word -/
  | ok (s : State)
  /-- a taken transfer; `pops` says that loops left behind are popped (R173) -/
  | jump (s : State) (target : W32) (pops : Bool)
  /-- not performed: the word is tried again -/
  | wait (s : State)
  /-- performed, but the group does not go on: the word has stopped or ended it -/
  | stop (s : State)
  /-- a precise fault of its execution -/
  | flt (f : FaultInfo)
  /-- performed, with a precise fault on the side of another agent already recorded in the state -/
  | halted (s : State)

/-! ## Loops (R173) -/

/-- The loop-back at the end of a word at `pc` that takes no transfer: the next word and the stack. -/
def loopBack : Nat → SMap LoopEntry → Nat → W32 → W32 → SMap LoopEntry × Nat × W32
  | 0, l, d, _, nxt => (l, d, nxt)
  | fuel + 1, l, d, pc, nxt =>
    if d = 0 then (l, d, nxt)
    else
      let e := l.get LoopEntry.zero (d - 1)
      if e.last ≠ pc then (l, d, nxt)
      else if 1 < e.count.toNat then (l.set LoopEntry.zero (d - 1) { e with count := e.count - 1 }, d, skipControl e.start)
      else loopBack fuel l (d - 1) pc nxt

/-- The depth after a taken transfer to `t`: entries whose body does not hold the target are popped. -/
def loopLeave : Nat → SMap LoopEntry → Nat → W32 → Nat
  | 0, _, d, _ => d
  | fuel + 1, l, d, t =>
    if d = 0 then 0
    else
      let e := l.get LoopEntry.zero (d - 1)
      if e.start.toNat ≤ t.toNat && t.toNat ≤ e.last.toNat then d else loopLeave fuel l (d - 1) t

/-! ## Retirement -/

/-- The word at pc retires at issue clock t without a transfer, its next word being `nxt`. -/
def retireTo (g : Group) (t : Nat) (nxt : W32) : Group :=
  let r := loopBack 4 g.loops g.loopd g.pc nxt
  { g with pc := r.2.2, loops := r.1, loopd := r.2.1, lclk := g.lclk + 1, tested := false, readyAt := t + stallOf g.ctl g.pc + 1 }
/-- The word at pc, with `skip` literal words after it, retires at issue clock t without a transfer. -/
def retire (g : Group) (t skip : Nat) : Group := retireTo g t (nextWord g.pc skip)

/-- The word at pc retires at issue clock t with a transfer: the target issues no sooner than three clocks later (R148, R171). -/
def retireJump (g : Group) (t : Nat) (target : W32) (pops : Bool) : Group :=
  { g with
    pc := target
    loopd := if pops then loopLeave 4 g.loops g.loopd target else g.loopd
    lclk := g.lclk + 1
    tested := false
    readyAt := t + max (stallOf g.ctl g.pc + 1) 3 }

/-! ## Checks -/

/-- A register at or above the group's count of vector registers (R107). -/
def rangeBad (g : Group) (rs : List Reg) : Bool :=
  rs.any fun r => match r with | .v n => decide (g.nv ≤ n) | _ => false

/-- The stall-count checker (R88, R149) at the issue clock: a fixed-latency write to one of the registers has not landed. The RNG state and
`PSDEPTH` count as registers (R195, R231, log entries 28 and 46). Only a write that the word makes is in flight: a word without an enabled lane, or an
`SSEL` whose condition fails, gives its destination no landing clock (log entry 113). -/
def stallBad (g : Group) (rs : List Reg) : Bool :=
  g.trapen.getLsbD 8 && g.pend.any fun p => (p.ws.filterMap RegWrite.reg).any fun r => rs.contains r

/-- The stall-count checker at the issue clock of a word, over the registers of its own group and those of the group that it has selected. -/
def unlanded (w : Word) (s : State) : Bool :=
  stallBad (curGroup s) (w.reads ++ w.writes) || ((curGroup s).trapen.getLsbD 8 && w.cross s)

/-- Whether a counter is at its limit (R151). -/
def counterFull (g : Group) : Counter → Bool
  | .none => false
  | .vmc => decide (63 ≤ g.vmc)
  | .bfc => decide (63 ≤ g.bfc)
  | .sfc => decide (63 ≤ g.sfc)

/-- The groups of a gang as (block, group, record), handler group left out. -/
def gangGroups (s : State) (gang : Nat) : List (Nat × Nat × Group) :=
  (s.groups.filter fun e => e.1 / 2048 == gang && decide (e.1 % 2048 < 1024)).map fun e => (e.1 % 2048 / 64, e.1 % 64, e.2)

/-- A barrier: 0 to 15 are b0 to b15 of the block, 16 to 19 are g0 to g3 of the gang. -/
def barAt (s : State) (gang blk b : Nat) : Bar :=
  if b < 16 then (blockAt s gang blk).bars.get Bar.zero b else (gangAt s gang).bars.get Bar.zero (b - 16)

/-- A group counts as having an unbounded logical clock in R59's test: it has exited, or waits at a barrier with its arrival made, or is
saved. A waiter whose phase has released it waits no more. -/
def unbounded (s : State) (gang blk : Nat) (g : Group) : Bool :=
  g.st == .exited || g.st == .savePoint || g.st == .vacant || (match g.barWait with
    | some (b, p, made) => made && decide ((barAt s gang blk b).rel ≤ p)
    | none => false)

/-- Whether the group in focus is the least group of its gang (R59): by logical clock, then by linear index. -/
def leastGroup (s : State) : Bool :=
  let g := curGroup s
  let me := s.cur.blk * 64 + s.cur.grp
  (gangGroups s s.cur.gang).all fun e =>
    let o := e.2.2
    let k := e.1 * 64 + e.2.1
    k == me || unbounded s s.cur.gang e.1 o
      || decide (g.lclk.toNat < o.lclk.toNat) || (g.lclk == o.lclk && decide (me < k))

/-- The requests in flight of those Tenders' host accesses that satisfy a test, by lines of 128 bytes (R3, R302). -/
def tenderLines (s : State) (p : HostAcc → Bool) : Nat :=
  ((s.hostAccs.filter fun a => a.strm == 1 && a.got.isNone && p a).map fun a => (a.gang, a.blk, a.flight, a.addr / 128)).eraseDups.length
/-- The requests in flight from one core (R3, R144): the global memory words of its groups, and the accesses of its Tenders. DESIGN CHOICE (log entry
141): a global memory word in flight counts as one request, whatever the lines that it touches. -/
def coreRequests (s : State) (core : Nat) : Nat :=
  s.groups.foldl (fun n e => if coreOf s (e.1 / 2048) (e.1 % 2048 / 64) = core then n + e.2.vmc else n) 0
    + tenderLines s fun a => coreOf s a.gang a.blk == core

/-- Park entries in use or reserved on a core (R159). -/
def parkUsed (s : State) (core : Nat) : Nat :=
  let c := coreAt s core
  c.reserved + c.park.length

/-- Whether the partition's divider is held by a word in flight (R151). -/
def dividerBusy (s : State) : Bool :=
  let core := curCore s
  let part := partOf s s.cur.gang s.cur.blk s.cur.grp
  s.groups.any fun e =>
    let gang := e.1 / 2048
    let blk := e.1 % 2048 / 64
    e.2.flights.any (fun f => f.divider && !f.written) && coreOf s gang blk == core && partOf s gang blk (e.1 % 64) == part

/-- Whether the group is frozen for a replay at the clock in which its next word would make its first pass (R144, R154). -/
def frozenAt (now : Nat) (g : Group) : Bool := decide (max now g.readyAt < g.frozen)

/-- A word is not ready (R144): a locked register, a full counter, no park reservation, a busy divider, no free request, or not its turn among
gang-ordered operations. -/
def notReady (w : Word) (s : State) : Bool :=
  let g := curGroup s
  lockedFor g w.reads w.writes || counterFull g w.cnt
    || (w.esc s && decide (512 < parkUsed s (curCore s) + 32))
    || (w.divider && dividerBusy s)
    || (w.cnt == .vmc && decide (768 ≤ coreRequests s (curCore s)))
    || (w.ordered && (curLpb s).repro && !leastGroup s)

/-- The checks that a word meets when it comes to the head of its group, in the order of R109; the fault code of the first that fails. -/
def issueFault (w : Word) (g : Group) : Option Nat :=
  if !markOk g.ctl || w.pkt then some 0x01
  else if w.priv && !g.handler then some 0x03
  else if !w.i.wf || (w.userOnly && g.handler) then some 0x02
  else if w.odd || rangeBad g (w.reads ++ w.writes ++ w.also) then some 0x02
  else none

/-- The checks that a word meets at its issue clock, when it is ready (R109, R149): its transfer's target, then its stall count. -/
def lateFault (w : Word) (s : State) : Option Nat :=
  if (w.target s).any fun t => t.toNat % 8 == 0 then some 0x01
  else if unlanded w s then some 0x05
  else none

/-- The state at the issue clock of a word of the group in focus (R87, R88): no sooner than the group's next issue clock, after the passes of
a word that makes several (R143), with every fixed-latency write that is due landed. -/
def issueState (w : Word) (s : State) : State :=
  let t0 := max s.now (curGroup s).readyAt
  let s0 := setCurGroup { s with now := t0 } (landAt t0 (curGroup s))
  let n := w.passes s0
  let t := t0 + n - 1
  setCurGroup { s with now := t } { landAt t (curGroup s0) with passes := n }

/-- What a word's result makes of the state `s1` at its issue clock: it retires, transfers, waits, stops or faults. -/
def conclude (w : Word) (s1 : State) : Res → State
  | .ok t => setCurGroup t (retire (curGroup t) s1.now w.skip)
  | .jump t target pops => setCurGroup t (retireJump (curGroup t) s1.now target pops)
  | .wait t => t
  | .stop t => t
  | .halted t => t
  | .flt f => takeFault s1 f

/-- The arithmetic trap that a group takes before its next word (R135): none while its word at pc is a TRAP that has issued, whose reply it awaits
(R177). -/
def pendingTrap (g : Group) : Option (W32 × FlagSet) := if g.called then none else g.atrap

/-- Issues a word of the group in focus. A frozen group makes no pass (R154). Fixed-latency writes due by the word's issue clock land first; a pending
arithmetic trap is taken before it (R135). A word that is not ready waits before its target and its stall count are tested (R149). -/
def issue (w : Word) (body : State → Res) (s : State) : Out :=
  if (curGroup s).st ≠ .running ∨ frozenAt s.now (curGroup s) then .next s
  else
    let s1 := issueState w s
    match pendingTrap (curGroup s1) with
    | some (idx, fl) => .next (takeArithTrap s1 idx fl)
    | none =>
      match issueFault w (curGroup s1) with
      | some c => .next (takeFault s1 (FaultInfo.plain c))
      | none =>
        if notReady w s1 then .next s1
        else match lateFault w s1 with
          | some c => .next (takeFault s1 (FaultInfo.plain c))
          | none => .next (conclude w s1 (body s1))

/-! ## Results of words -/

/-- Puts a fixed-latency result of latency L in flight (R148): the writes and flags land L clocks after the issue clock, which is `now`. -/
def inFlight (s : State) (lat : Nat) (ws : List RegWrite) (f : FlagSet) : State :=
  setCurGroup s (addPend (curGroup s) s.now lat ws f)
def fixedResult (s : State) (lat : Nat) (ws : List RegWrite) (f : FlagSet) : Res := .ok (inFlight s lat ws f)

/-- Puts a variable-latency word in flight (R150, R151): its writes are made by a later write-back, `lat` clocks after its issue or later. -/
def launchFlight (s : State) (ws : List RegWrite) (f : FlagSet) (cnt : Counter) (divider : Bool) (lat : Nat := 0) : State :=
  let g := raiseCounter (curGroup s) cnt
  let fl : Flight := { id := s.nextFlight, idx := g.pc, ws := ws, flags := f, parked := [], srcs := [], cnt := cnt, written := false,
                       divider := divider, due := s.now + lat, lat := lat, toPark := [], held := 0 }
  setCurGroup { s with nextFlight := s.nextFlight + 1 } { g with flights := g.flights ++ [fl] }

/-- What a word notes on the flight that it has launched, whose number is `id`. -/
def noteFlight (s : State) (id : Nat) (f : Flight → Flight) : State :=
  let g := curGroup s
  setCurGroup s { g with flights := g.flights.map fun x => if x.id = id then f x else x }

/-- The lowest free entry numbers of a park queue. -/
def freeEntries (c : Core) (n : Nat) : List Nat :=
  ((List.range 512).filter fun k => (c.park.get none k).isNone).take n

/-- One result of an escalatable word: lane, writes, flags, raw operands, whether the lane must, may or cannot park, and its dither index
where that is not the lane. -/
structure LaneResult where
  lane : Nat
  ws : List RegWrite
  flags : FlagSet
  opa : Nat := 0
  opb : Nat := 0
  need : ParkNeed := .never
  di : Option Nat := none

/-- What the park entries of a word say beside their lane (R160). -/
structure ParkInfo where
  op : Nat
  kind : Nat
  vd : Nat
  va : Nat
  vb : Nat
  srcs : List Nat

/-- The park entry of one lane, as it is at the word's issue: the clock of parking is written with it. -/
def parkEntry (s : State) (p : ParkInfo) (r : LaneResult) : ParkEntry :=
  let g := curGroup s
  { fn := p.op, kind := p.kind, part := partOf s s.cur.gang s.cur.blk s.cur.grp, slot := slotOf s s.cur.gang s.cur.blk s.cur.grp, lane := r.lane,
    rnd := g.mode.toNat / 1024 % 8, etype := modeEtype g, nfs := modeNfs g, di := r.di.getD r.lane % 32, vd := p.vd, va := p.va, vb := p.vb,
    stage := .waiting, ptime := 0, opa := if p.kind = 1 then 0 else BitVec.ofNat 64 r.opa,
    opb := if p.kind = 1 then 0 else BitVec.ofNat 64 r.opb, gang := s.cur.gang, blk := s.cur.blk, grp := s.cur.grp, flight := s.nextFlight, tie := r.need == .must }

/-- Fast-path latency F of an escalatable word when no lane parks (R157). -/
def fastLatency (op : Nat) (wide : Bool) : Nat :=
  let f (a b : Nat) : Nat := if wide then b else a
  if op = 0x71 ∨ op = 0x72 then f 10 16
  else if 0x73 ≤ op ∧ op ≤ 0x78 then f 14 22
  else if 0x79 ≤ op ∧ op ≤ 0x7B then f 16 26
  else if 0x7C ≤ op ∧ op ≤ 0x7F then f 18 28
  else if op = 0x80 ∨ op = 0x81 then f 22 34
  else if 0x90 ≤ op ∧ op ≤ 0x92 then f 12 16
  else if op = 0x8F ∨ op = 0x93 then f 20 30
  else 10

/-- Least latency of a word of the divider (R151). -/
def dividerLatency (op : Nat) (wide : Bool) : Nat :=
  if op = 0x70 then if wide then 18 else 12
  else if op = 0x6F ∨ op = 0x96 then if wide then 20 else 12
  else if wide then 18 else 10

/-- Whether a lane parks: one whose interval cannot be decided must, one that may be decided or not parks where the next park mask names it
(R157, log entry 4). -/
def parksIn (mask : W32) (r : LaneResult) : Bool :=
  match r.need with
  | .never => false
  | .may => mask.getLsbD r.lane
  | .must => true

/-- An escalatable word's results (R157 to R160): it reserves 32 park entries; at the end of its rounding test the decided lanes are written and
the others parked. Which lanes park changes no result. -/
def escLaunch (s : State) (p : ParkInfo) (rs : List LaneResult) : State :=
  let mask := (s.parkMask.head?).getD 0
  let s := { s with parkMask := s.parkMask.tail }
  let core := coreAt s (curCore s)
  let stays := rs.filter fun r => !parksIn mask r
  let g := raiseCounter (curGroup s) .sfc
  let lat := fastLatency p.op (etypeWide (modeEtype g))
  let fl : Flight :=
    { id := s.nextFlight, idx := g.pc, ws := stays.flatMap LaneResult.ws, flags := stays.foldl (fun f r => f ||| r.flags) 0, parked := [],
      srcs := if p.kind = 1 then p.srcs else [], cnt := .sfc, written := false, divider := false, due := s.now + lat, lat := lat,
      toPark := (rs.filter (parksIn mask)).map fun r => (parkEntry s p r, r.ws, r.flags), held := 32 }
  let s := setCoreAt { s with nextFlight := s.nextFlight + 1 } (curCore s) { core with reserved := core.reserved + 32 }
  setCurGroup s { g with flights := g.flights ++ [fl] }
def escResult (s : State) (p : ParkInfo) (rs : List LaneResult) : Res := .ok (escLaunch s p rs)

/-- A variable-latency result (R150). -/
def variableResult (s : State) (ws : List RegWrite) (f : FlagSet) (cnt : Counter) : Res := .ok (launchFlight s ws f cnt false)

end Sys2Proof.Machine
end

