-- ==== Sys2Proof/Machine/Operands.lean ====
section
/-!
DEFINITION. The operand forms of group words: scalar registers and pairs (R91, R92), lane elements of every type (R102, R114), the element
format in force with its narrow slot (R101, R118, R121), and the register sets that the checks use.
-/

namespace Sys2Proof.Machine

/-! ## Scalar operands -/

def scalarWidth (pair : Bool) : Nat := if pair then 64 else 32
/-- S(n, w) read as unsigned (R187). -/
def readScalar (g : Group) (n : Nat) (pair : Bool) : Nat := if pair then (readPair g n).toNat else (readS g n).toNat
/-- The writes of S(n, w) = x mod 2^w. -/
def scalarWrites (n : Nat) (pair : Bool) (x : Nat) : List RegWrite :=
  if pair then [.s n (BitVec.ofNat 32 x), .s (n + 1) (BitVec.ofNat 32 (x / 2 ^ 32))] else [.s n (BitVec.ofNat 32 x)]
/-- The registers of a scalar operand. -/
def scalarRegs (n : Nat) (pair : Bool) : List Reg := if pair then [.s n, .s (n + 1)] else [.s n]

/-! ## Element types -/

/-- The element format of an ETYPE code from 0x00 to 0x0B (R102). -/
def etypeFmt (e : Nat) : Option Fmt :=
  match e with
  | 0 => some (.int true 8) | 1 => some (.int true 16) | 2 => some (.int true 32) | 3 => some (.int true 64)
  | 4 => some (.int false 8) | 5 => some (.int false 16) | 6 => some (.int false 32) | 7 => some (.int false 64)
  | 8 => some .f16 | 9 => some .bf16 | 10 => some .f32 | 11 => some .f64
  | _ => none

/-- The element width in bits as the bit words take it; nf counts as 32 (R198). -/
def etypeBits (e : Nat) : Nat :=
  match e with
  | 0 => 8 | 4 => 8 | 1 => 16 | 5 => 16 | 8 => 16 | 9 => 16 | 3 => 64 | 7 => 64 | 11 => 64 | _ => 32

/-- Descriptor slot i of a task (R29). -/
def nfdAt (t : Task) (i : Nat) : W32 := (t.lpb.nfdt[i]?).getD 0
/-- The companding table j's words (R125). -/
def tableAt (t : Task) (j : Nat) : List W32 := t.curves.get [] j
/-- The narrow format of a slot. -/
def nfSlot (t : Task) (i : Nat) : NFmt :=
  let n := NFmt.ofBits (nfdAt t i) []
  { n with curve := if n.cmp = 0 then [] else curvePoints (tableAt t n.cmp) }
/-- Whether a slot's descriptor is legal at its use (R121). -/
def nfSlotOk (t : Task) (i : Nat) : Bool := nfdOk (nfdAt t) (tableAt t) (nfdAt t i)
/-- The scale format of a slot (R123). -/
def scaleFmt (t : Task) (n : NFmt) : ScaleFmt := if n.scl = 0 then none else some (nfSlot t n.scl)

/-- The element format in force for floating words; none when the type is illegal (R198, R121): an integer type, a code above 0x0C, an
invalid slot or a blocked one. -/
def floatFmt (t : Task) (g : Group) : Option Fmt :=
  let e := modeEtype g
  if e = 12 then
    if nfSlotOk t (modeNfs g) && (nfSlot t (modeNfs g)).blk == 0 then some (.nar (nfSlot t (modeNfs g))) else none
  else if 8 ≤ e then etypeFmt e else none

/-- The integer type in force (R198). -/
def intFmt (g : Group) : Option (Bool × Nat) :=
  match etypeFmt (modeEtype g) with
  | some (.int sg w) => some (sg, w)
  | _ => none

/-- Whether the words on the current nf slot run on the M port (R142): ETYPE nf with a companded slot. -/
def companded (t : Task) (g : Group) : Bool := modeEtype g == 12 && (NFmt.ofBits (nfdAt t (modeNfs g)) []).cmp != 0

/-! ## Lane elements -/

/-- Registers of a vector operand that carries a type of the given width. -/
def vecRegs (n : Nat) (wide : Bool) : List Reg := if wide then [.v n, .v (n + 1)] else [.v n]
/-- The raw bits of a lane element, its pair for a wide type. -/
def laneBits (g : Group) (n l : Nat) (wide : Bool) : Nat := if wide then (readVPair g n l).toNat else (readV g n l).toNat
/-- The writes of a lane element of format f (R114). -/
def laneWrites (f : Fmt) (n l code : Nat) : List RegWrite :=
  if f.width = 64 then [.v n l (BitVec.ofNat 32 code), .v (n + 1) l (BitVec.ofNat 32 (code / 2 ^ 32))] else [.v n l (f.lane code)]
/-- The writes of w raw bits. -/
def rawWrites (n l w x : Nat) : List RegWrite :=
  if w = 64 then [.v n l (BitVec.ofNat 32 x), .v (n + 1) l (BitVec.ofNat 32 (x / 2 ^ 32))] else [.v n l (BitVec.ofNat 32 x)]
/-- The element code of a lane: its low w bits. -/
def laneCode (g : Group) (f : Fmt) (n l : Nat) : Nat := laneBits g n l (f.width == 64) % 2 ^ f.width
/-- The value of a lane element. A companded code is rounded once, in RNE, to the operand format binary32 (R126, log entry 26). -/
def laneVal (g : Group) (f : Fmt) (n l : Nat) : FVal :=
  let v := f.decode (laneCode g f n l)
  match f with
  | .nar nf => if nf.curve.isEmpty then v else Fmt.f32.decode (roundTo .f32 .rne 0 v).code
  | _ => v
/-- The guard predicate as a register that a vector word reads (R196). -/
def guardReg (g : Group) : Reg := .p (modeGuard g)

/-- A pair operand that does not start on an even register (R107). -/
def oddWide (wide : Bool) (ns : List Nat) : Bool := wide && ns.any fun n => n % 2 == 1

end Sys2Proof.Machine
end

