-- ==== Sys2Proof/Machine/Words.lean ====
section
/-!
DEFINITION. What each group word says of itself to the issue checks: the registers it reads and writes, its counter, its passes, and the conditions
that R59, R86 to R90, R107, R108, R142 to R144, R150, R156, R172 and R408 add.
-/

namespace Sys2Proof.Machine

/-! ## Operands that the records name -/

/-- pc + sext(offset), modulo 2^32. -/
def offsetTarget {n : Nat} (pc : W32) (off : BitVec n) : W32 := pc + off.signExtend 32
/-- The last word of a loop (R172). -/
def loopLast (pc : W32) (last : BitVec 15) : W32 := pc + last.setWidth 32

/-- Whether an illegal word raises an illegal packet first (R90, R109): a transfer that is taken whatever its other fields hold, or a loop, whose
index is a multiple of 8, or SLIT in word 7. -/
def illegalPacket (g : Group) (w : W32) : Bool :=
  let op := opcodeOf w
  let m (t : W32) : Bool := t.toNat % 8 == 0
  (op == 0x34 && g.pc.toNat % 8 == 7)
    || ((op == 0x02 || op == 0x05) && m (offsetTarget g.pc (fieldAt w 0 20)))
    || (op == 0x06 && m (readS g 383))
    || (op == 0x07 && decide ((fieldAt w 6 9).toNat < 384) && m (readS g (fieldAt w 6 9).toNat))
    || (op == 0x08 && fieldAt w 0 15 != 0 && m (loopLast g.pc (fieldAt w 0 15)))

/-- The test of PBR (R170): any, all or none of p over the enabled lanes. -/
def predTest (g : Group) (p : BitVec 4) (test : BitVec 2) : Bool :=
  let m := readP g p.toNat &&& guardMask g
  match test.toNat with | 0 => m != 0 | 1 => m == guardMask g | _ => m == 0

/-- Whether an illegal word raises a privilege fault first (R105, R108, R109): opcodes 0x11 to 0x16, and RDSR and WRSR of a supervisor register. -/
def illegalPrivilege (w : W32) : Bool :=
  decide (0x11 ≤ opcodeOf w ∧ opcodeOf w ≤ 0x16) || ((opcodeOf w == 0x0D || opcodeOf w == 0x0E) && w.getLsbD 8)

/-- The special registers below the supervisor range that RDSR reads and WRSR writes, and the supervisor registers of R241, R361 and R409; any
other number is illegal (R105, R181). -/
def specialListed (n : Nat) : Bool :=
  decide (n ≤ 0x012) || decide (0x100 ≤ n ∧ n ≤ 0x103) || decide (0x110 ≤ n ∧ n ≤ 0x112) || decide (0x114 ≤ n ∧ n ≤ 0x116) || n == 0x118
    || n == 0x11A || n == 0x11B || decide (0x120 ≤ n ∧ n ≤ 0x124) || n == 0x128 || n == 0x129 || decide (0x130 ≤ n ∧ n ≤ 0x13C)
/-- Those of them that WRSR writes. -/
def specialWritable (n : Nat) : Bool := decide (n ≤ 2) || (decide (0x100 ≤ n) && specialListed n && n != 0x102 && n != 0x118)

/-- Whether RNGSV and RNGLD act on a selected group (R454). -/
def rngSelects (g : Group) : Bool := g.handler && g.sel.isSome
/-- The guard and the RNG state, which RNGSV and RNGLD of a group without a selection name; with one they name neither of their own (R454). -/
def rngNames (g : Group) : List Reg := if rngSelects g then [] else [guardReg g, .rng]
/-- Whether a write of RNG state is in flight in a group: one of its own words, or of a supervisor's RNGLD, whose entry names no latency. -/
def rngInFlight (t : Group) (own : Bool) : Bool := t.pend.any fun p => (p.lat != 0) == own && (p.ws.filterMap RegWrite.reg).contains .rng
/-- Whether an earlier RNGLD of this group has yet to reach the RNG state of the selected one (R230, R454). -/
def crossRng (s : State) : Bool :=
  rngSelects (curGroup s) && match (curGroup s).sel with
    | some (b, k) => rngInFlight (landAt s.now (groupAt s s.cur.gang b k)) false
    | none => false

/-- The registers s[n] to s[n + k − 1]. -/
def sRun (n k : Nat) : List Reg := (List.range k).map fun j => .s (n + j)
/-- The registers v[n] to v[n + k − 1]. -/
def vRun (n k : Nat) : List Reg := (List.range k).map fun j => .v (n + j)
/-- Whether the operands that carry the type are pairs: under any 64-bit type, also one that the word does not accept (R107, R109, R197). -/
def typeWide (g : Group) : Bool := etypeWide (modeEtype g)
/-- Whether VPACK takes 8-bit units (R209). -/
def packEight (g : Group) : Bool := modeEtype g == 0 || modeEtype g == 4 || modeEtype g == 12
/-- Whether the slot in force is blocked (R220). -/
def slotBlocked (t : Task) (g : Group) : Bool := (NFmt.ofBits (nfdAt t (modeNfs g)) []).blk != 0

/-- The global atomics. -/
inductive AtomicOp where
  | add | fadd | min | max | and | or | xor | xchg | cas
deriving DecidableEq, Repr

/-- The opcode of an atomic (R276), as a held contribution keeps it. -/
def AtomicOp.code : AtomicOp → Nat
  | .add => 0xAA | .fadd => 0xAB | .min => 0xAC | .max => 0xAD | .and => 0xAE | .or => 0xAF | .xor => 0xB0 | .xchg => 0xB1 | .cas => 0xB2
/-- The atomic of an opcode. -/
def AtomicOp.ofCode (c : Nat) : AtomicOp :=
  match c with
  | 0xAA => .add | 0xAB => .fadd | 0xAC => .min | 0xAD => .max | 0xAE => .and | 0xAF => .or | 0xB0 => .xor | 0xB1 => .xchg | _ => .cas

/-- The registers of an atomic's operands: VCAS reads the compare value and the swap value (R277). -/
def atomicRegs (cas : Bool) (v : Nat) (wide : Bool) : List Reg := vRun v ((if wide then 2 else 1) * (if cas then 2 else 1))
/-- An atomic's data operand on a register that it may not start on (R107, R277). -/
def atomicOdd (cas : Bool) (v : Nat) (wide : Bool) : Bool := if cas && wide then v % 4 != 0 else oddWide wide [v]
/-- A gang-ordered scope: group, block or gang (R59). -/
def orderedScope (scope : Nat) : Bool := decide (scope ≤ 2)
/-- Whether an atomic is a held contribution (R280). -/
def isHeld (fadd : Bool) (v scope : Nat) : Bool := v == 0 && (fadd || decide (3 ≤ scope))

/-! ## The frames -/

/-- Passes of a V-port word by its element type (R143). -/
def typePasses (e : Nat) : Nat := if e == 11 then 4 else if e == 3 || e == 7 then 2 else 1

/-- A vector word that carries the element type: the registers it reads and writes, those of them that must be even when the type is
wide, and whether it is a V-port word. On a companded nf slot it is an escalatable M-port word (R142, R156). -/
def typedWord (s : State) (i : Instr) (vport : Bool) (reads writes : List Reg) (pairs : List Nat) (wide : Bool) : Word :=
  let g := curGroup s
  let c := companded (curTask s) g
  { i := i, reads := guardReg g :: reads, writes := writes, cnt := if c then .sfc else .none, esc := fun _ => c,
    passes := fun _ => if vport && !c then typePasses (modeEtype g) else 1, odd := oddWide wide pairs }

/-- A typed word from vector operands to a vector destination of the same width. -/
def laneWord (s : State) (i : Instr) (vport wide : Bool) (vd : BitVec 8) (srcs : List (BitVec 8)) : Word :=
  typedWord s i vport (srcs.flatMap fun r => vecRegs r.toNat wide) (vecRegs vd.toNat wide) (vd.toNat :: srcs.map BitVec.toNat) wide

/-- A word of the divider: never parked (R216). -/
def dividerRec (s : State) (i : Instr) (vd : BitVec 8) (srcs : List (BitVec 8)) : Word :=
  { laneWord s i false (typeWide (curGroup s)) vd srcs with divider := true, esc := fun _ => false }

/-- An escalatable word of any type (R156): it raises SFC, and any lane may park. -/
def escRec (s : State) (i : Instr) (vd : BitVec 8) (srcs : List (BitVec 8)) : Word :=
  { laneWord s i false (typeWide (curGroup s)) vd srcs with cnt := .sfc, esc := fun _ => true }

/-- Whether a conversion to a type has an escalatable lane: either side is a companded slot. -/
def convComp (t : Task) (g : Group) (code : Nat) : Bool :=
  (modeEtype g == 12 || code == 12) && (NFmt.ofBits (nfdAt t (modeNfs g)) []).cmp != 0

/-- A conversion (R218). -/
def convertRec (s : State) (i : Instr) (vd va : BitVec 8) (code : BitVec 5) : Word :=
  let g := curGroup s
  let sw := typeWide g
  let dw := etypeWide code.toNat
  let c := convComp (curTask s) g code.toNat
  { i := i, reads := guardReg g :: vecRegs va.toNat sw, writes := vecRegs vd.toNat dw, cnt := if c then .sfc else .none, esc := fun _ => c,
    passes := fun _ => if c then 1 else typePasses (modeEtype g), odd := oddWide sw [va.toNat] || oddWide dw [vd.toNat] }

/-- A(l) = base + va[l], exact (R267). -/
def laneAddr (g : Group) (n va l : Nat) : Nat := (readPair g (2 * n)).toNat + (readV g va l).toNat
/-- The distinct 128-byte lines that the enabled lanes of a global memory word touch, by the sums that its lanes address (R143, R266); an aligned
element lies in one line. -/
def lanesLines (g : Group) (n va : Nat) : Nat := ((lanesOn g).map fun l => laneAddr g n va l / 128).eraseDups.length

/-- A global memory word (R266, R267). It makes two passes when its enabled lanes touch more than 16 lines (R143). -/
def globalWord (s : State) (i : Instr) (n : BitVec 5) (va : BitVec 8) (reads writes : List Reg) (ordered odd : Bool) : Word :=
  { i := i, passes := fun s => if 16 < lanesLines (curGroup s) n.toNat va.toNat then 2 else 1, reads := [guardReg (curGroup s), .v va.toNat, .s (2 * n.toNat), .s (2 * n.toNat + 1)] ++ reads, writes := writes, cnt := .vmc,
    ordered := ordered, odd := odd }

/-- A global atomic (R275 to R280). -/
def atomicRec (s : State) (i : Instr) (o : AtomicOp) (v va : BitVec 8) (n : BitVec 5) (scope : BitVec 3) : Word :=
  let wide := typeWide (curGroup s)
  globalWord s i n va (atomicRegs (o == .cas) v.toNat wide) (if v = 0 then [] else vecRegs v.toNat wide) (orderedScope scope.toNat)
    (atomicOdd (o == .cas) v.toNat wide)

/-- A typed-buffer word (R281). -/
def bufferWord (s : State) (i : Instr) (va : BitVec 8) (reads writes : List Reg) (ordered odd userOnly : Bool) : Word :=
  { i := i, reads := [guardReg (curGroup s), .v va.toNat] ++ reads, writes := writes, cnt := .bfc, ordered := ordered, odd := odd,
    userOnly := userOnly }

/-- A buffer atomic (R283). -/
def bufAtomicRec (s : State) (i : Instr) (cas : Bool) (v va : BitVec 8) : Word :=
  let wide := typeWide (curGroup s)
  bufferWord s i va (atomicRegs cas v.toNat wide) (if v = 0 then [] else vecRegs v.toNat wide) true (atomicOdd cas v.toNat wide) true

/-- LDC and STC: raw in a handler group (R284, R285, R408). -/
def accumRec (s : State) (i : Instr) (load : Bool) (v va : BitVec 8) : Word :=
  let g := curGroup s
  let wide := typeWide g
  let rs := if g.handler then vRun v.toNat 4 else vecRegs v.toNat wide
  bufferWord s i va (if load then [] else rs) (if load then rs else []) false (if g.handler then v.toNat % 4 != 0 else oddWide wide [v.toNat]) false

/-- A KV map word (R365). -/
def mapWord (i : Instr) (reads writes : List Reg) : Word := { i := i, reads := reads, writes := writes, cnt := .bfc }

/-! ## The words -/

/-- The record of a group word in a state. An instruction of another stream, or an event, has no record. -/
def wordOf (s : State) (i : Instr) : Word :=
  let g := curGroup s
  let sc := scalarRegs
  match i with
  -- control
  | .nop | .stop | .yield | .setm _ _ => { i := i }
  | .br off => { i := i, target := fun s => some (offsetTarget (curGroup s).pc off) }
  | .brc cond off =>
    { i := i, reads := [.sf],
      target := fun s => if condHolds cond.toNat (curGroup s).sf then some (offsetTarget (curGroup s).pc off) else none }
  | .pbr p test off =>
    { i := i, reads := [.p p.toNat, guardReg g],
      target := fun s => if predTest (curGroup s) p test then some (offsetTarget (curGroup s).pc off) else none }
  | .call off => { i := i, writes := [.s 383], target := fun s => some (offsetTarget (curGroup s).pc off) }
  | .ret => { i := i, reads := [.s 383], target := fun s => some (readS (curGroup s) 383) }
  | .jmpr sa => { i := i, reads := [.s sa.toNat], target := fun s => some (readS (curGroup s) sa.toNat) }
  | .setmReg _ sa | .setmr sa => { i := i, reads := [.s sa.toNat] }
  | .loops n last => { i := i, reads := [.s n.toNat], pkt := last != 0 && (loopLast g.pc last).toNat % 8 == 0 }
  | .getm sd => { i := i, writes := [.s sd.toNat] }
  | .trap _ => { i := i, userOnly := true }
  | .bkpt _ => { i := i, reads := [guardReg g] }
  | .illegalInstruction w =>
    { i := i, pkt := illegalPacket g w, priv := illegalPrivilege w }
  -- supervisor words and special registers
  | .eret => { i := i, priv := true }
  | .xsel sa => { i := i, reads := [.s sa.toNat], priv := true }
  | .xrv own _ => { i := i, writes := [.v own.toNat], priv := true }
  | .xwv own _ => { i := i, reads := [.v own.toNat], priv := true }
  | .xrs sd _ _ => { i := i, writes := [.s sd.toNat], priv := true }
  | .xws sd _ _ => { i := i, reads := [.s sd.toNat], priv := true }
  | .rdsr sd num =>
    { i := i, reads := if num = 2 then [.sf] else if num = 3 then [.psd] else [], writes := [.s sd.toNat], priv := decide (0x100 ≤ num.toNat),
      odd := !specialListed num.toNat }
  | .wrsr sd num =>
    { i := i, reads := [.s sd.toNat], writes := if num = 2 then [.sf] else [], priv := decide (0x100 ≤ num.toNat),
      odd := !specialWritable num.toNat }
  -- scalar
  | .sadd sd sa p | .ssub sd sa p | .smul sd sa p | .smulh sd sa p | .smulhn sd sa p | .sand sd sa p | .sor sd sa p | .sxor sd sa p
  | .sshl sd sa p | .sshr sd sa p | .ssar sd sa p | .smin sd sa p | .smax sd sa p | .sminn sd sa p | .smaxn sd sa p =>
    { i := i, reads := sc sd.toNat p ++ sc sa.toNat p, writes := sc sd.toNat p }
  | .sdiv sd sa p | .sdivn sd sa p | .srem sd sa p | .sremn sd sa p =>
    { i := i, reads := sc sd.toNat p ++ sc sa.toNat p, writes := sc sd.toNat p, divider := true }
  | .smov sd sa p | .snot sd sa p | .sneg sd sa p | .sclz sd sa p | .spopc sd sa p => { i := i, reads := sc sa.toNat p, writes := sc sd.toNat p }
  | .scmp sd sa p | .scmpn sd sa p => { i := i, reads := sc sd.toNat p ++ sc sa.toNat p, writes := [.sf] }
  | .saddc sd sa p | .ssubb sd sa p => { i := i, reads := .sf :: sc sd.toNat p ++ sc sa.toNat p, writes := .sf :: sc sd.toNat p }
  | .ssel sd sa p _ => { i := i, reads := .sf :: sc sa.toNat p, writes := sc sd.toNat p }
  | .saddi sd _ => { i := i, reads := [.s sd.toNat], writes := [.s sd.toNat] }
  | .smovi sd _ => { i := i, writes := [.s sd.toNat] }
  | .slit sd => { i := i, writes := [.s sd.toNat], pkt := g.pc.toNat % 8 == 7, skip := 1 }
  -- predicates
  | .pand pd pa pb | .por pd pa pb | .pxor pd pa pb => { i := i, reads := [.p pa.toNat, .p pb.toNat], writes := [.p pd.toNat] }
  | .pnot pd pa | .pmov pd pa => { i := i, reads := [.p pa.toNat], writes := [.p pd.toNat] }
  | .psets pd src | .plane pd src => { i := i, reads := [.s src.toNat], writes := [.p pd.toNat] }
  | .pgets sd pa | .pcnt sd pa | .pffs sd pa => { i := i, reads := [.p pa.toNat], writes := [.s sd.toNat] }
  | .ppush pa => { i := i, reads := [.p pa.toNat] }
  | .ppop pd => { i := i, writes := [.p pd.toNat] }
  -- vector integer and bits
  | .vadd vd va vb | .vsub vd va vb | .vmul vd va vb | .vmulh vd va vb | .vmin vd va vb | .vmax vd va vb | .vshl vd va vb
  | .vshr vd va vb => laneWord s i true (typeWide g) vd [va, vb]
  | .vmad vd va vb => laneWord s i true (typeWide g) vd [va, vb, vd]
  | .vabs vd va | .vclz vd va | .vpopc vd va | .vscan vd va _ | .vred vd va _ => laneWord s i true (typeWide g) vd [va]
  | .vand vd va vb | .vor vd va vb | .vxor vd va vb | .vsel vd va vb | .vshfl vd va vb =>
    laneWord s i true (typeWide g) vd [va, vb]
  | .vnot vd va | .vmov vd va | .vrot vd va _ => laneWord s i true (typeWide g) vd [va]
  | .vcmp pd _ va vb =>
    typedWord s i true (vecRegs va.toNat (typeWide g) ++ vecRegs vb.toNat (typeWide g)) [.p pd.toNat] [va.toNat, vb.toNat] (typeWide g)
  | .vpack vd va vb => typedWord s i true (vecRegs va.toNat (packEight g) ++ vecRegs vb.toNat (packEight g)) [.v vd.toNat] [] false
  | .vunpk vd va _ => typedWord s i true [.v va.toNat] [.v vd.toNat] [] false
  | .vbcast vd src => { i := i, reads := [guardReg g, .s src.toNat], writes := [.v vd.toNat] }
  | .vlane vd => { i := i, reads := [guardReg g], writes := [.v vd.toNat] }
  | .vxtr sd va _ => { i := i, reads := [.v va.toNat], writes := [.s sd.toNat] }
  | .vins vd src _ => { i := i, reads := [.s src.toNat], writes := [.v vd.toNat] }
  | .vhash vd va | .rngf vd va => { i := i, reads := [guardReg g, .v va.toNat], writes := [.v vd.toNat] }
  | .rngk vd va vb => { i := i, reads := guardReg g :: vecRegs va.toNat true ++ vecRegs vb.toNat true, writes := [.v vd.toNat] }
  | .rng vd => { i := i, reads := [guardReg g, .rng], writes := [.v vd.toNat] }
  | .rngs => { i := i, reads := [guardReg g, .rng] }
  | .rngsv vd => { i := i, reads := rngNames g, writes := vRun vd.toNat 4, cross := crossRng }
  | .rngld va => { i := i, reads := rngNames g ++ vRun va.toNat 4, cross := crossRng }
  -- floating
  | .vfadd vd va vb | .vfsub vd va vb | .vfmul vd va vb | .vfmulz vd va vb | .vfmin vd va vb | .vfmax vd va vb | .vfcps vd va vb =>
    laneWord s i true (typeWide g) vd [va, vb]
  | .vfma vd va vb | .vfms vd va vb | .vfnma vd va vb => laneWord s i true (typeWide g) vd [va, vb, vd]
  | .vfabs vd va | .vfneg vd va | .vfrnd vd va => laneWord s i true (typeWide g) vd [va]
  | .vfdiv vd va vb | .vfrem vd va vb => dividerRec s i vd [va, vb]
  | .vfsqrt vd va => dividerRec s i vd [va]
  | .vfrsq vd va | .vfrcp vd va | .vfexp vd va | .vfexp2 vd va | .vfexpm1 vd va | .vflog vd va | .vflog2 vd va | .vflog1p vd va
  | .vfsin vd va | .vfcos vd va | .vftan vd va | .vfatan vd va | .vftanh vd va | .vferf vd va | .vfssq vd va => escRec s i vd [va]
  | .vfatan2 vd va vb | .vfpow vd va vb | .vfhyp vd va vb | .vfsmx vd va vb => escRec s i vd [va, vb]
  | .vfrot vd va vb =>
    -- lanes of vb carry a position and a frequency, not the type (R228)
    let w := escRec s i vd [va]
    { w with reads := w.reads ++ [.v vb.toNat] }
  | .vfred vd va op | .vfscan vd va op => if op = 0 then escRec s i vd [va] else laneWord s i false (typeWide g) vd [va]
  | .vfcmp pd _ va vb =>
    typedWord s i true (vecRegs va.toNat (typeWide g) ++ vecRegs vb.toNat (typeWide g)) [.p pd.toNat] [va.toNat, vb.toNat] (typeWide g)
  | .vfcls vd va => typedWord s i true (vecRegs va.toNat (typeWide g)) [.v vd.toNat] [va.toNat] (typeWide g)
  | .vfldx vd va vb =>
    typedWord s i true (vecRegs va.toNat (typeWide g) ++ [.v vb.toNat]) (vecRegs vd.toNat (typeWide g)) [vd.toNat, va.toNat] (typeWide g)
  | .vffrx vd va sel =>
    typedWord s i true (vecRegs va.toNat (typeWide g)) (vecRegs vd.toNat (typeWide g && sel == 0))
      (if sel == 1 then [va.toNat] else [vd.toNat, va.toNat]) (typeWide g)
  | .vftoi vd va code | .vitof vd va code | .vfcvt vd va code => convertRec s i vd va code
  | .vfqnt vd va vb => typedWord s i true [.v va.toNat] [.v vd.toNat, .v vb.toNat] [] false
  | .vfdq vd va vb =>
    { typedWord s i true (if slotBlocked (curTask s) g then [.v va.toNat, .v vb.toNat] else [.v va.toNat]) [.v vd.toNat] [] false with
      also := [.v vb.toNat] }
  -- memory
  | .ld v va n _ | .ldf v va n _ | .ldd v va n _ =>
    globalWord s i n va [] (vecRegs v.toNat (typeWide g)) false (oddWide (typeWide g) [v.toNat])
  | .lda v va n scope =>
    globalWord s i n va [] (vecRegs v.toNat (typeWide g)) (orderedScope scope.toNat) (oddWide (typeWide g) [v.toNat])
  | .st v va n _ | .stnt v va n _ | .std v va n _ =>
    globalWord s i n va (vecRegs v.toNat (typeWide g)) [] false (oddWide (typeWide g) [v.toNat])
  | .stl v va n scope =>
    globalWord s i n va (vecRegs v.toNat (typeWide g)) [] (orderedScope scope.toNat) (oddWide (typeWide g) [v.toNat])
  | .pref va n _ => globalWord s i n va [] [] false false
  | .fence scope => { i := i, cnt := .vmc, ordered := orderedScope scope.toNat }
  | .drainnt => { i := i, cnt := .vmc }
  | .aadd v va n scope => atomicRec s i .add v va n scope
  | .afadd v va n scope => atomicRec s i .fadd v va n scope
  | .amin v va n scope => atomicRec s i .min v va n scope
  | .amax v va n scope => atomicRec s i .max v va n scope
  | .aand v va n scope => atomicRec s i .and v va n scope
  | .aor v va n scope => atomicRec s i .or v va n scope
  | .axor v va n scope => atomicRec s i .xor v va n scope
  | .axchg v va n scope => atomicRec s i .xchg v va n scope
  | .acas v va n scope => atomicRec s i .cas v va n scope
  -- typed buffers
  | .ldb v va _ => bufferWord s i va [] (vecRegs v.toNat (typeWide g)) false (oddWide (typeWide g) [v.toNat]) true
  | .stb v va _ => bufferWord s i va (vecRegs v.toNat (typeWide g)) [] false (oddWide (typeWide g) [v.toNat]) true
  | .abadd v va _ => bufAtomicRec s i false v va
  | .abcas v va _ => bufAtomicRec s i true v va
  | .ldc v va _ => accumRec s i true v va
  | .stc v va _ => accumRec s i false v va
  -- KV space
  | .ldkv v va src =>
    bufferWord s i va [.v (va.toNat + 1), .s src.toNat, .s (src.toNat + 1)] [.v v.toNat] false (va.toNat % 2 != 0) false
  | .stkv v va src =>
    bufferWord s i va [.v (va.toNat + 1), .s src.toNat, .s (src.toNat + 1), .v v.toNat] [] false (va.toNat % 2 != 0) false
  | .kvmap sd sa => mapWord i (.s sd.toNat :: sc sa.toNat true) [.s sd.toNat]
  | .kvfork sd sa => mapWord i [.s sd.toNat, .s sa.toNat, .s (sa.toNat + 1)] []
  | .kvdrop sd sa => mapWord i [.s sa.toNat, .s (sa.toNat + 1)] [.s sd.toNat]
  | .kvinfo sd sa => mapWord i (sc sa.toNat true) (sRun sd.toNat 3)
  -- synchronisation
  | .bar _ | .bara _ | .barw _ | .gbar _ _ => { i := i, userOnly := true, ordered := g.barWait.isNone }
  | .hwait _ _ _ | .hset _ _ => { i := i, userOnly := true, ordered := true }
  | .wait _ _ _ | .mwait | .ckpt | .clksync => { i := i }
  | .evpop sd _ => { i := i, writes := sRun sd.toNat 4, userOnly := true, ordered := true }
  | .qpush sd sa => { i := i, reads := sRun sd.toNat 16 ++ sc sa.toNat true, writes := [.s (sd.toNat + 16)] }
  | .qpop sd sa => { i := i, reads := sc sa.toNat true, writes := sRun sd.toNat 17 }
  | .mwatch sa => { i := i, reads := sc sa.toNat true }
  | .launch sd sa => { i := i, reads := .s sd.toNat :: sc sa.toNat true, writes := [.s sd.toNat] }
  | .signal sd sa => { i := i, reads := .s sd.toNat :: sc sa.toNat true }
  | .deal sd => { i := i, writes := sc sd.toNat true, userOnly := true }
  | .tkick sa => { i := i, reads := [.s sa.toNat], userOnly := true }
  | .clock sd => { i := i, writes := sc sd.toNat true }
  | _ => { i := i }

end Sys2Proof.Machine
end

