-- ==== Sys2Proof/Machine/Scalar.lean ====
section
/-!
DEFINITION. Scalar integer words (R187 to R193): the two-address family, the divisions, the one-operand family, compares, carries, select
and the immediate forms.
-/

namespace Sys2Proof.Machine

/-! ## Operations on unsigned readings of w bits -/

/-- The two-address operations of R187 but for the divisions. -/
inductive SOp where
  | add | sub | mul | mulh | mulhn | and | or | xor | shl | shr | sar | min | max | minn | maxn
deriving DecidableEq, Repr

/-- Op(a, b) modulo 2^w (R187). The shift amount is the whole unsigned value of b. -/
def scalarOp (o : SOp) (w a b : Nat) : Nat :=
  let sa := signedOf w a
  let sb := signedOf w b
  match o with
  | .add => (a + b) % 2 ^ w
  | .sub => wrapInt w ((a : Int) - b)
  | .mul => a * b % 2 ^ w
  | .mulh => wrapInt w (sa * sb / 2 ^ w)
  | .mulhn => a * b / 2 ^ w
  | .and => a &&& b
  | .or => a ||| b
  | .xor => a ^^^ b
  | .shl => if w ≤ b then 0 else a * 2 ^ b % 2 ^ w
  | .shr => if w ≤ b then 0 else a / 2 ^ b
  | .sar => wrapInt w (sa / 2 ^ (Nat.min b (w - 1)))
  | .min => if sb < sa then b else a
  | .max => if sa < sb then b else a
  | .minn => Nat.min a b
  | .maxn => Nat.max a b

/-- Quotient and remainder (R115, R188), truncating towards zero; division by zero gives 0 and the dividend. -/
def scalarDiv (signed : Bool) (w a b : Nat) : Nat × Nat :=
  if b = 0 then (0, a)
  else if signed then
    (wrapInt w ((signedOf w a).tdiv (signedOf w b)), wrapInt w ((signedOf w a).tmod (signedOf w b)))
  else (a / b, a % b)

/-- The one-operand operations of R189. -/
inductive SUn where
  | mov | not | neg | clz | popc
deriving DecidableEq, Repr

/-- Count of one bits among the low n bits. -/
def popCount (n a : Nat) : Nat := (List.range n).foldl (fun c i => c + a / 2 ^ i % 2) 0

def scalarUn (o : SUn) (w a : Nat) : Nat :=
  match o with
  | .mov => a
  | .not => 2 ^ w - 1 - a
  | .neg => wrapInt w (-(a : Int))
  | .clz => if a = 0 then w else w - 1 - Nat.log2 a
  | .popc => popCount w a

/-! ## The shared forms -/

/-- sd = sd op sa with scalar-ALU latency. -/
def scalarBinary (i : Instr) (o : SOp) (sd sa : BitVec 9) (pair : Bool) (s : State) : Out :=
  issue (wordOf s i)
    (fun s =>
      let g := curGroup s
      let r := scalarOp o (scalarWidth pair) (readScalar g sd.toNat pair) (readScalar g sa.toNat pair)
      fixedResult s 2 (scalarWrites sd.toNat pair r) 0) s

/-- A division word (R188): variable latency, in the divider; `rem` selects the remainder. -/
def scalarDivide (i : Instr) (signed rem : Bool) (sd sa : BitVec 9) (pair : Bool) (s : State) : Out :=
  issue (wordOf s i)
    (fun s =>
      let g := curGroup s
      let a := readScalar g sd.toNat pair
      let b := readScalar g sa.toNat pair
      let r := scalarDiv signed (scalarWidth pair) a b
      .ok (launchFlight s (scalarWrites sd.toNat pair (if rem then r.2 else r.1)) (if b = 0 then fDZ else 0) .none true (dividerLatency 0x1D pair))) s

/-- sd = op sa with scalar-ALU latency. -/
def scalarUnary (i : Instr) (o : SUn) (sd sa : BitVec 9) (pair : Bool) (s : State) : Out :=
  issue (wordOf s i)
    (fun s => fixedResult s 2 (scalarWrites sd.toNat pair (scalarUn o (scalarWidth pair) (readScalar (curGroup s) sa.toNat pair))) 0) s

/-- A compare: SF alone is written, with scalar-ALU latency (R190). -/
def scalarCompare (i : Instr) (f : Nat → Nat → Nat → W32) (sd sa : BitVec 9) (pair : Bool) (s : State) : Out :=
  issue (wordOf s i)
    (fun s =>
      let g := curGroup s
      fixedResult s 2 [.sf (f (scalarWidth pair) (readScalar g sd.toNat pair) (readScalar g sa.toNat pair))] 0) s

/-- SADDC and SSUBB (R191): sd and SF, from SF.C at issue. -/
def scalarCarry (i : Instr) (f : Nat → Nat → Nat → Nat → Nat × W32) (sd sa : BitVec 9) (pair : Bool) (s : State) : Out :=
  issue (wordOf s i)
    (fun s =>
      let g := curGroup s
      let r := f (scalarWidth pair) (readScalar g sd.toNat pair) (readScalar g sa.toNat pair) (if sfC g.sf then 1 else 0)
      fixedResult s 2 (scalarWrites sd.toNat pair r.1 ++ [.sf r.2]) 0) s

/-! ## The words -/

/-- SADD (R187). -/
def execSadd (sd sa : BitVec 9) (pair : Bool) (s : State) : Out :=
  scalarBinary (.sadd sd sa pair) .add sd sa pair s

/-- SSUB (R187). -/
def execSsub (sd sa : BitVec 9) (pair : Bool) (s : State) : Out :=
  scalarBinary (.ssub sd sa pair) .sub sd sa pair s

/-- SMUL (R187). -/
def execSmul (sd sa : BitVec 9) (pair : Bool) (s : State) : Out :=
  scalarBinary (.smul sd sa pair) .mul sd sa pair s

/-- SMULH (R187). -/
def execSmulh (sd sa : BitVec 9) (pair : Bool) (s : State) : Out :=
  scalarBinary (.smulh sd sa pair) .mulh sd sa pair s

/-- SMULHN (R187). -/
def execSmulhn (sd sa : BitVec 9) (pair : Bool) (s : State) : Out :=
  scalarBinary (.smulhn sd sa pair) .mulhn sd sa pair s

/-- SAND (R187). -/
def execSand (sd sa : BitVec 9) (pair : Bool) (s : State) : Out :=
  scalarBinary (.sand sd sa pair) .and sd sa pair s

/-- SOR (R187). -/
def execSor (sd sa : BitVec 9) (pair : Bool) (s : State) : Out :=
  scalarBinary (.sor sd sa pair) .or sd sa pair s

/-- SXOR (R187). -/
def execSxor (sd sa : BitVec 9) (pair : Bool) (s : State) : Out :=
  scalarBinary (.sxor sd sa pair) .xor sd sa pair s

/-- SSHL (R187). -/
def execSshl (sd sa : BitVec 9) (pair : Bool) (s : State) : Out :=
  scalarBinary (.sshl sd sa pair) .shl sd sa pair s

/-- SSHR (R187). -/
def execSshr (sd sa : BitVec 9) (pair : Bool) (s : State) : Out :=
  scalarBinary (.sshr sd sa pair) .shr sd sa pair s

/-- SSAR (R187). -/
def execSsar (sd sa : BitVec 9) (pair : Bool) (s : State) : Out :=
  scalarBinary (.ssar sd sa pair) .sar sd sa pair s

/-- SMIN (R187). -/
def execSmin (sd sa : BitVec 9) (pair : Bool) (s : State) : Out :=
  scalarBinary (.smin sd sa pair) .min sd sa pair s

/-- SMAX (R187). -/
def execSmax (sd sa : BitVec 9) (pair : Bool) (s : State) : Out :=
  scalarBinary (.smax sd sa pair) .max sd sa pair s

/-- SMINN (R187). -/
def execSminn (sd sa : BitVec 9) (pair : Bool) (s : State) : Out :=
  scalarBinary (.sminn sd sa pair) .minn sd sa pair s

/-- SMAXN (R187). -/
def execSmaxn (sd sa : BitVec 9) (pair : Bool) (s : State) : Out :=
  scalarBinary (.smaxn sd sa pair) .maxn sd sa pair s

/-- SDIV (R188). -/
def execSdiv (sd sa : BitVec 9) (pair : Bool) (s : State) : Out :=
  scalarDivide (.sdiv sd sa pair) true false sd sa pair s

/-- SDIVN (R188). -/
def execSdivn (sd sa : BitVec 9) (pair : Bool) (s : State) : Out :=
  scalarDivide (.sdivn sd sa pair) false false sd sa pair s

/-- SREM (R188). -/
def execSrem (sd sa : BitVec 9) (pair : Bool) (s : State) : Out :=
  scalarDivide (.srem sd sa pair) true true sd sa pair s

/-- SREMN (R188). -/
def execSremn (sd sa : BitVec 9) (pair : Bool) (s : State) : Out :=
  scalarDivide (.sremn sd sa pair) false true sd sa pair s

/-- SMOV (R189). -/
def execSmov (sd sa : BitVec 9) (pair : Bool) (s : State) : Out :=
  scalarUnary (.smov sd sa pair) .mov sd sa pair s

/-- SNOT (R189). -/
def execSnot (sd sa : BitVec 9) (pair : Bool) (s : State) : Out :=
  scalarUnary (.snot sd sa pair) .not sd sa pair s

/-- SNEG (R189). -/
def execSneg (sd sa : BitVec 9) (pair : Bool) (s : State) : Out :=
  scalarUnary (.sneg sd sa pair) .neg sd sa pair s

/-- SCLZ (R189). -/
def execSclz (sd sa : BitVec 9) (pair : Bool) (s : State) : Out :=
  scalarUnary (.sclz sd sa pair) .clz sd sa pair s

/-- SPOPC (R189). -/
def execSpopc (sd sa : BitVec 9) (pair : Bool) (s : State) : Out :=
  scalarUnary (.spopc sd sa pair) .popc sd sa pair s

/-- SCMP (R190). -/
def execScmp (sd sa : BitVec 9) (pair : Bool) (s : State) : Out :=
  scalarCompare (.scmp sd sa pair) scmpFlags sd sa pair s

/-- SCMPN (R190). -/
def execScmpn (sd sa : BitVec 9) (pair : Bool) (s : State) : Out :=
  scalarCompare (.scmpn sd sa pair) (fun _ a b => scmpnFlags a b) sd sa pair s

/-- SADDC (R191). -/
def execSaddc (sd sa : BitVec 9) (pair : Bool) (s : State) : Out :=
  scalarCarry (.saddc sd sa pair) saddcResult sd sa pair s

/-- SSUBB (R191). -/
def execSsubb (sd sa : BitVec 9) (pair : Bool) (s : State) : Out :=
  scalarCarry (.ssubb sd sa pair) ssubbResult sd sa pair s

/-- SSEL (R192): sd is unchanged where the condition fails. -/
def execSsel (sd sa : BitVec 9) (pair : Bool) (cond : BitVec 4) (s : State) : Out :=
  issue (wordOf s (.ssel sd sa pair cond))
    (fun s =>
      let g := curGroup s
      fixedResult s 2 (if condHolds cond.toNat g.sf then scalarWrites sd.toNat pair (readScalar g sa.toNat pair) else []) 0) s

/-- SADDI (R193). -/
def execSaddi (sd : BitVec 9) (imm : BitVec 15) (s : State) : Out :=
  issue (wordOf s (.saddi sd imm))
    (fun s => fixedResult s 2 [.s sd.toNat (readS (curGroup s) sd.toNat + imm.signExtend 32)] 0) s

/-- SMOVI (R193). -/
def execSmovi (sd : BitVec 9) (imm : BitVec 15) (s : State) : Out :=
  issue (wordOf s (.smovi sd imm))
    (fun s => fixedResult s 2 [.s sd.toNat (imm.signExtend 32)] 0) s

/-- SLIT (R89, R193): the literal word that follows; in word 7 an illegal packet. -/
def execSlit (sd : BitVec 9) (s : State) : Out :=
  issue (wordOf s (.slit sd))
    (fun s => fixedResult s 2 [.s sd.toNat (curGroup s).lit] 0) s

end Sys2Proof.Machine
end

