-- ==== Sys2Proof/Machine/Vector.lean ====
section
/-!
DEFINITION. Vector integer, bit, permute, packing, hashing and random words (spec/08 R197 to R210, R229 to R231).
-/

namespace Sys2Proof.Machine

/-! ## The shared frame of a vector word -/

/-- Delivers lane results: fixed latency, or as an escalatable word on a companded slot. -/
def delivered (s : State) (lat : Nat) (p : ParkInfo) (rs : List LaneResult) : State :=
  if companded (curTask s) (curGroup s) then escLaunch s p rs
  else inFlight s lat (rs.flatMap LaneResult.ws) (rs.foldl (fun f r => f ||| r.flags) 0)
def deliver (s : State) (lat : Nat) (p : ParkInfo) (rs : List LaneResult) : Res := .ok (delivered s lat p rs)

/-- The results of the enabled lanes. -/
def eachLane (g : Group) (f : Nat → LaneResult) : List LaneResult := (lanesOn g).map f

/-- What the entries of a lane word say (R160). DESIGN CHOICE (log entry 137): of `KIND` 0 also for a word of three sources; a word of one source names it
as `VB` too. -/
def parkOf (op : Nat) (vd va vb : BitVec 8) : ParkInfo := ⟨op, 0, vd.toNat, va.toNat, vb.toNat, []⟩

/-! ## Integer arithmetic (R200 to R203) -/

/-- The signed or unsigned reading of an element's w bits. -/
def elemInt (sg : Bool) (w a : Nat) : Int := if sg then signedOf w a else a
/-- The low w bits of a lane element. -/
def elemBits (g : Group) (r l w : Nat) : Nat := laneBits g r l (w == 64) % 2 ^ w
/-- Clamps to the type's range, or reduces modulo 2^w (R115). -/
def finishInt (sat sg : Bool) (w : Nat) (r : Int) : Nat :=
  if sat then
    let lo : Int := if sg then -(2 ^ (w - 1)) else 0
    let hi : Int := if sg then 2 ^ (w - 1) - 1 else 2 ^ w - 1
    wrapInt w (if r < lo then lo else if hi < r then hi else r)
  else wrapInt w r

/-- The integer operations of two or three operands; the third operand is vd. -/
inductive VOp where
  | add | sub | mul | mulh | min | max | mad | shl | shr
deriving DecidableEq, Repr

/-- The element result of an integer operation (R200 to R202), as an exact integer before the reduction that `sat` chooses. -/
def vecIntOp (o : VOp) (sat sg : Bool) (w a b d : Nat) : Nat :=
  let x := elemInt sg w a
  let y := elemInt sg w b
  match o with
  | .add => finishInt sat sg w (x + y)
  | .sub => finishInt sat sg w (x - y)
  | .mul => finishInt sat sg w (x * y)
  | .mulh => wrapInt w (x * y / 2 ^ w)
  | .min => if y < x then b else a
  | .max => if x < y then b else a
  | .mad => finishInt sat sg w (x * y + elemInt sg w d)
  | .shl => if b < w then finishInt sat sg w (x * 2 ^ b)
            else if sat then finishInt true sg w (if x = 0 then 0 else if x < 0 then -(2 ^ w) else 2 ^ w) else 0
  | .shr => if b < w then wrapInt w (x / 2 ^ b) else wrapInt w (if x < 0 then -1 else 0)

/-- An integer VVV word. -/
def vecInt (i : Instr) (o : VOp) (vd va vb : BitVec 8) (s : State) : Out :=
  issue (wordOf s i)
    (fun s =>
      let g := curGroup s
      match intFmt g with
      | none => .flt (FaultInfo.plain 0x04)
      | some (sg, w) =>
        fixedResult s 4 ((lanesOn g).flatMap fun l =>
          laneWrites (.int sg w) vd.toNat l
            (vecIntOp o (modeIsat g) sg w (elemBits g va.toNat l w) (elemBits g vb.toNat l w) (elemBits g vd.toNat l w))) 0) s

/-- The one-operand integer words of R203. -/
inductive VUn where
  | abs | clz | popc
deriving DecidableEq, Repr

def vecIntUn (o : VUn) (sat sg : Bool) (w a : Nat) : Nat :=
  match o with
  | .abs => let x := elemInt sg w a; finishInt sat sg w (if x < 0 then -x else x)
  | .clz => if a = 0 then w else w - 1 - Nat.log2 a
  | .popc => popCount w a

def vecIntOne (i : Instr) (o : VUn) (vd va : BitVec 8) (s : State) : Out :=
  issue (wordOf s i)
    (fun s =>
      let g := curGroup s
      match intFmt g with
      | none => .flt (FaultInfo.plain 0x04)
      | some (sg, w) =>
        fixedResult s 4 ((lanesOn g).flatMap fun l =>
          laneWrites (.int sg w) vd.toNat l (vecIntUn o (modeIsat g) sg w (elemBits g va.toNat l w))) 0) s

/-! ## Bit words, selects and permutes (R200, R203, R205, R207) -/

/-- The format a bit word reads and writes: any legal type, nf as 32 raw bits (R198); none is the illegal-type fault. -/
def bitFmt (t : Task) (g : Group) : Option Fmt :=
  if modeEtype g = 12 then (if nfSlotOk t (modeNfs g) && (nfSlot t (modeNfs g)).blk == 0 then some (.int false 32) else none)
  else etypeFmt (modeEtype g)

/-- A bit word over the enabled lanes: `f` gives the w raw bits of lane l. `all` writes disabled lanes too. -/
def vecBits (i : Instr) (op : Nat) (all : Bool) (vd va vb : BitVec 8)
    (f : Group → Nat → Nat → Nat) (s : State) : Out :=
  issue (wordOf s i)
    (fun s =>
      let g := curGroup s
      match bitFmt (curTask s) g with
      | none => .flt (FaultInfo.plain 0x04)
      | some fm =>
        let ls := if all then List.range 32 else lanesOn g
        deliver s 4 (parkOf op vd va vb) (ls.map fun l =>
          { lane := l, ws := laneWrites fm vd.toNat l (f g l fm.width % 2 ^ fm.width), flags := 0,
            opa := elemBits g va.toNat l fm.width, opb := elemBits g vb.toNat l fm.width })) s

/-! ## Compare (R204) -/

/-- The relations of VCMP and, on ordered values, of VFCMP: eq, ne, lt, le, gt, ge. -/
def relHolds (c : Nat) (lt eq : Bool) : Bool :=
  match c with
  | 0 => eq | 1 => !eq | 2 => lt | 3 => lt || eq | 4 => !lt && !eq | _ => !lt

/-- The mask whose bit l is f l for the enabled lanes. -/
def maskOf (g : Group) (f : Nat → Bool) : W32 :=
  BitVec.ofNat 32 ((lanesOn g).foldl (fun m l => if f l then m + 2 ^ l else m) 0)

/-- VCMP (R204). -/
def execVcmp (pd cond : BitVec 4) (va vb : BitVec 8) (s : State) : Out :=
  issue (wordOf s (.vcmp pd cond va vb))
    (fun s =>
      let g := curGroup s
      match intFmt g with
      | none => .flt (FaultInfo.plain 0x04)
      | some (sg, w) =>
        fixedResult s 4 [.p pd.toNat (maskOf g fun l =>
          let a := elemInt sg w (elemBits g va.toNat l w)
          let b := elemInt sg w (elemBits g vb.toNat l w)
          relHolds cond.toNat (decide (a < b)) (a == b))] 0) s

/-! ## Moves between lanes and registers (R206) -/

/-- VBCAST. -/
def execVbcast (vd src : BitVec 8) (s : State) : Out :=
  issue (wordOf s (.vbcast vd src))
    (fun s =>
      let g := curGroup s
      fixedResult s 4 ((lanesOn g).map fun l => .v vd.toNat l (readS g src.toNat)) 0) s

/-- VLANE. -/
def execVlane (vd : BitVec 8) (s : State) : Out :=
  issue (wordOf s (.vlane vd))
    (fun s => fixedResult s 4 ((lanesOn (curGroup s)).map fun l => .v vd.toNat l (BitVec.ofNat 32 l)) 0) s

/-- VXTR: one lane into an s register, whatever the guard. -/
def execVxtr (sd va : BitVec 8) (lane : BitVec 5) (s : State) : Out :=
  issue (wordOf s (.vxtr sd va lane))
    (fun s => fixedResult s 4 [.s sd.toNat (readV (curGroup s) va.toNat lane.toNat)] 0) s

/-- VINS: an s register into one lane, whatever the guard. -/
def execVins (vd src : BitVec 8) (lane : BitVec 5) (s : State) : Out :=
  issue (wordOf s (.vins vd src lane))
    (fun s => fixedResult s 4 [.v vd.toNat lane.toNat (readS (curGroup s) src.toNat)] 0) s

/-! ## Scans and reductions (R208) -/

/-- A fold step on exact integers: 0 add, 1 min, 2 max, 3 and, 4 or, 5 xor. -/
def foldInt (op w : Nat) (a b : Int) : Int :=
  let n (x : Int) : Nat := wrapInt w x
  match op with
  | 0 => a + b
  | 1 => if b < a then b else a
  | 2 => if a < b then b else a
  | 3 => ((n a &&& n b : Nat) : Int)
  | 4 => ((n a ||| n b : Nat) : Int)
  | _ => ((n a ^^^ n b : Nat) : Int)

/-- The fold of a list of exact integers. -/
def foldList (op w : Nat) : List Int → Int
  | [] => 0
  | x :: r => r.foldl (foldInt op w) x

/-- Fin: the sum is clamped or reduced once; the others are w bits as they stand. -/
def foldFin (op : Nat) (sat sg : Bool) (w : Nat) (x : Int) : Nat := if op = 0 then finishInt sat sg w x else wrapInt w x

/-- VSCAN and VRED. -/
def vecFold (i : Instr) (scan : Bool) (vd va : BitVec 8) (op : BitVec 4) (s : State) : Out :=
  issue (wordOf s i)
    (fun s =>
      let g := curGroup s
      match intFmt g with
      | none => .flt (FaultInfo.plain 0x04)
      | some (sg, w) =>
        let on := lanesOn g
        let val (l : Nat) : Int := elemInt sg w (elemBits g va.toNat l w)
        fixedResult s 4 (on.flatMap fun l =>
          let xs := (if scan then on.filter (fun j => decide (j ≤ l)) else on).map val
          laneWrites (.int sg w) vd.toNat l (foldFin op.toNat (modeIsat g) sg w (foldList op.toNat w xs))) 0) s

/-! ## Packing (R209) -/

/-- The unit width of the pack class; none is the illegal-type fault. Blocked nf slots are accepted (R121, R198). -/
def packUnit (t : Task) (g : Group) : Option Nat :=
  let e := modeEtype g
  if e = 0 || e = 4 then some 8
  else if e = 1 || e = 5 || e = 8 || e = 9 then some 16
  else if e = 12 && nfSlotOk t (modeNfs g) then some 8 else none

/-- VPACK. -/
def execVpack (vd va vb : BitVec 8) (s : State) : Out :=
  issue (wordOf s (.vpack vd va vb))
    (fun s =>
      let g := curGroup s
      match packUnit (curTask s) g with
      | none => .flt (FaultInfo.plain 0x04)
      | some u =>
        deliver s 4 (parkOf 0x61 vd va vb) (eachLane g fun l =>
          let low (r : Nat) : Nat := (readV g r l).toNat % 2 ^ u
          let x := if u = 8 then low va.toNat + 2 ^ 8 * low (va.toNat + 1) + 2 ^ 16 * low vb.toNat + 2 ^ 24 * low (vb.toNat + 1)
                   else low va.toNat + 2 ^ 16 * low vb.toNat
          { lane := l, ws := [.v vd.toNat l (BitVec.ofNat 32 x)], flags := 0 })) s

/-- VUNPK: sub-element k, written as an element; for nf the whole byte. -/
def execVunpk (vd va : BitVec 8) (k : BitVec 2) (s : State) : Out :=
  issue (wordOf s (.vunpk vd va k))
    (fun s =>
      let g := curGroup s
      match packUnit (curTask s) g with
      | none => .flt (FaultInfo.plain 0x04)
      | some u =>
        if u = 16 && 2 ≤ k.toNat then .flt (FaultInfo.plain 0x02)
        else
          let fm := (etypeFmt (modeEtype g)).getD (.int false 8)
          deliver s 4 (parkOf 0x62 vd va va) (eachLane g fun l =>
            let x := (readV g va.toNat l).toNat / 2 ^ (k.toNat * u) % 2 ^ u
            { lane := l, ws := [.v vd.toNat l (fm.lane x)], flags := 0 })) s

/-! ## Hashing (R210) -/

/-- The 32-bit mix. -/
def hashMix (x : W32) : W32 :=
  let h := x ^^^ (x >>> 15)
  let h := h * 0x6A5D39E9
  let h := h ^^^ (h >>> 12)
  let h := h * 0x4C1B77F3
  h ^^^ (h >>> 15)

/-- VHASH. -/
def execVhash (vd va : BitVec 8) (s : State) : Out :=
  issue (wordOf s (.vhash vd va))
    (fun s =>
      let g := curGroup s
      fixedResult s 4 ((lanesOn g).map fun l => .v vd.toNat l (hashMix (readV g va.toNat l))) 0) s

/-! ## The Spar generator (R229 to R231) -/

/-- One round. -/
def sparRound (kx : W64 × W64) : W64 × W64 :=
  let x := kx.2 ^^^ kx.1
  let x := x * 0xA24BAED4963EE407
  (kx.1 + 0x9FB21C651E98DF25, x ^^^ (x >>> 31))
/-- Spar(k, x): eight rounds, then the halves combined. -/
def spar (k x : W64) : W32 :=
  let r := (List.range 8).foldl (fun kx _ => sparRound kx) (k, x)
  (r.2 >>> 32).setWidth 32 ^^^ r.2.setWidth 32

def rngKeyAt (g : Group) (l : Nat) : W64 := g.rngKey.get 0 l
def rngCtrAt (g : Group) (l : Nat) : W64 := g.rngCtr.get 0 l

/-- RNGK: no state changes. -/
def execRngk (vd va vb : BitVec 8) (s : State) : Out :=
  issue (wordOf s (.rngk vd va vb))
    (fun s =>
      let g := curGroup s
      fixedResult s 8 ((lanesOn g).map fun l => .v vd.toNat l (spar (readVPair g va.toNat l) (readVPair g vb.toNat l))) 0) s

/-- RNG: draws and advances the counter of each enabled lane. The RNG state is written with RNG latency (R231, log entry 28). -/
def execRng (vd : BitVec 8) (s : State) : Out :=
  issue (wordOf s (.rng vd))
    (fun s =>
      let g := curGroup s
      fixedResult s 8 ((lanesOn g).flatMap fun l =>
        [.v vd.toNat l (spar (rngKeyAt g l) (rngCtrAt g l)), .rng l (rngKeyAt g l) (rngCtrAt g l + 1)]) 0) s

/-- The global lane index gl (R230). A handler group counts as block 0, group 0 (log entry 27). -/
def globalLane (s : State) (l : Nat) : Nat :=
  let gg := curGang s
  let lp := curLpb s
  let h := s.cur.blk = handlerBlk
  (((gg.gy * lp.gridx + gg.gx) * lp.blocks + (if h then 0 else s.cur.blk)) * lp.groups + (if h then 0 else s.cur.grp)) * 32 + l

/-- RNGS: seeds each enabled lane. -/
def execRngs (s : State) : Out :=
  issue (wordOf s .rngs)
    (fun s =>
      let g := curGroup s
      fixedResult s 8 ((lanesOn g).map fun l =>
        .rng l ((curLpb s).seed ^^^ (BitVec.ofNat 64 (globalLane s l) * 0xBF58476D1CE4E5B9)) 0) 0) s

/-- RNGF: (va >> 8) × 2^−24 as binary32. -/
def execRngf (vd va : BitVec 8) (s : State) : Out :=
  issue (wordOf s (.rngf vd va))
    (fun s =>
      let g := curGroup s
      fixedResult s 8 ((lanesOn g).map fun l =>
        let q := (Q.ofInt ((readV g va.toNat l).toNat / 256 : Nat)).scale2 (-24)
        .v vd.toNat l (BitVec.ofNat 32 (roundTo .f32 .rne 0 (FVal.ofQ false q)).code)) 0) s

/-- Whose RNG state `RNGSV` and `RNGLD` act on, and its lanes (R230, R454): in a handler group that holds a selection all lanes of the
selected group, which must be stopped; else the group's own lanes under its guard. -/
def rngTarget (s : State) : Except FaultInfo (Nat × Nat × Group × List Nat) :=
  let g := curGroup s
  if rngSelects g then (targetOf s true).map fun t => (t.1, t.2.1, t.2.2, List.range 32)
  else .ok (s.cur.blk, s.cur.grp, g, lanesOn g)

/-- RNGSV: key and counter into four registers. That of a stopped group waits for the RNG words which that group has in flight, and not for an earlier
RNGLD of the handler group, which it follows with RNG latency (R88, R230). -/
def execRngsv (vd : BitVec 8) (s : State) : Out :=
  issue (wordOf s (.rngsv vd))
    (fun s =>
      match rngTarget s with
      | .error f => .flt f
      | .ok (_, _, g, ls) => if rngSelects (curGroup s) && rngInFlight g true then .wait s else fixedResult s 8 (ls.flatMap fun l =>
        [ .v vd.toNat l ((rngKeyAt g l).setWidth 32), .v (vd.toNat + 1) l ((rngKeyAt g l >>> 32).setWidth 32),
          .v (vd.toNat + 2) l ((rngCtrAt g l).setWidth 32), .v (vd.toNat + 3) l ((rngCtrAt g l >>> 32).setWidth 32) ]) 0) s

/-- RNGLD: key and counter from four registers, with RNG latency; into a selected group the write is in flight there (R454). -/
def execRngld (va : BitVec 8) (s : State) : Out :=
  issue (wordOf s (.rngld va))
    (fun s =>
      match rngTarget s with
      | .error f => .flt f
      | .ok (b, k, t, ls) =>
        let g := curGroup s
        let ws := ls.map fun l => RegWrite.rng l (readVPair g va.toNat l) (readVPair g (va.toNat + 2) l)
        if !rngSelects g then fixedResult s 8 ws 0
        else .ok (setGroupAt s s.cur.gang b k { t with pend := t.pend ++ [⟨s.now + 8, g.pc, ws, 0, 0, 1⟩] })) s

/-! ## The remaining words -/

/-- VADD (R200). -/
def execVadd (vd va vb : BitVec 8) (s : State) : Out :=
  vecInt (.vadd vd va vb) .add vd va vb s

/-- VSUB (R200). -/
def execVsub (vd va vb : BitVec 8) (s : State) : Out :=
  vecInt (.vsub vd va vb) .sub vd va vb s

/-- VMUL (R200). -/
def execVmul (vd va vb : BitVec 8) (s : State) : Out :=
  vecInt (.vmul vd va vb) .mul vd va vb s

/-- VMULH (R200). -/
def execVmulh (vd va vb : BitVec 8) (s : State) : Out :=
  vecInt (.vmulh vd va vb) .mulh vd va vb s

/-- VMIN (R200). -/
def execVmin (vd va vb : BitVec 8) (s : State) : Out :=
  vecInt (.vmin vd va vb) .min vd va vb s

/-- VMAX (R200). -/
def execVmax (vd va vb : BitVec 8) (s : State) : Out :=
  vecInt (.vmax vd va vb) .max vd va vb s

/-- VMAD (R201). -/
def execVmad (vd va vb : BitVec 8) (s : State) : Out :=
  vecInt (.vmad vd va vb) .mad vd va vb s

/-- VSHL (R202). -/
def execVshl (vd va vb : BitVec 8) (s : State) : Out :=
  vecInt (.vshl vd va vb) .shl vd va vb s

/-- VSHR (R202). -/
def execVshr (vd va vb : BitVec 8) (s : State) : Out :=
  vecInt (.vshr vd va vb) .shr vd va vb s

/-- VABS (R203). -/
def execVabs (vd va : BitVec 8) (s : State) : Out :=
  vecIntOne (.vabs vd va) .abs vd va s

/-- VCLZ (R203). -/
def execVclz (vd va : BitVec 8) (s : State) : Out :=
  vecIntOne (.vclz vd va) .clz vd va s

/-- VPOPC (R203). -/
def execVpopc (vd va : BitVec 8) (s : State) : Out :=
  vecIntOne (.vpopc vd va) .popc vd va s

/-- VAND (R200). -/
def execVand (vd va vb : BitVec 8) (s : State) : Out :=
  vecBits (.vand vd va vb) 0x4D false vd va vb
    (fun g l w => elemBits g va.toNat l w &&& elemBits g vb.toNat l w) s

/-- VOR (R200). -/
def execVor (vd va vb : BitVec 8) (s : State) : Out :=
  vecBits (.vor vd va vb) 0x4E false vd va vb
    (fun g l w => elemBits g va.toNat l w ||| elemBits g vb.toNat l w) s

/-- VXOR (R200). -/
def execVxor (vd va vb : BitVec 8) (s : State) : Out :=
  vecBits (.vxor vd va vb) 0x4F false vd va vb
    (fun g l w => elemBits g va.toNat l w ^^^ elemBits g vb.toNat l w) s

/-- VNOT (R203). -/
def execVnot (vd va : BitVec 8) (s : State) : Out :=
  vecBits (.vnot vd va) 0x50 false vd va va (fun g l w => 2 ^ w - 1 - elemBits g va.toNat l w) s

/-- VMOV (R203). -/
def execVmov (vd va : BitVec 8) (s : State) : Out :=
  vecBits (.vmov vd va) 0x59 false vd va va (fun g l w => elemBits g va.toNat l w) s

/-- VSEL (R205): every lane is written. -/
def execVsel (vd va vb : BitVec 8) (s : State) : Out :=
  vecBits (.vsel vd va vb) 0x58 true vd va vb
    (fun g l w => if guardAt g l then elemBits g va.toNat l w else elemBits g vb.toNat l w) s

/-- VSHFL (R207): the lane index is the low 32 bits of vb. -/
def execVshfl (vd va vb : BitVec 8) (s : State) : Out :=
  vecBits (.vshfl vd va vb) 0x5C false vd va vb
    (fun g l w =>
      let j := (readV g vb.toNat l).toNat
      if 32 ≤ j then 0 else elemBits g va.toNat j w) s

/-- VROT (R207). -/
def execVrot (vd va : BitVec 8) (imm : BitVec 5) (s : State) : Out :=
  vecBits (.vrot vd va imm) 0x5D false vd va va (fun g l w => elemBits g va.toNat ((l + imm.toNat) % 32) w) s

/-- VSCAN (R208). -/
def execVscan (vd va : BitVec 8) (op : BitVec 4) (s : State) : Out :=
  vecFold (.vscan vd va op) true vd va op s

/-- VRED (R208). -/
def execVred (vd va : BitVec 8) (op : BitVec 4) (s : State) : Out :=
  vecFold (.vred vd va op) false vd va op s

end Sys2Proof.Machine
end

