-- ==== Sys2Proof/Machine/Float.lean ====
section
/-!
DEFINITION. Floating-point, conversion, quantisation, elementary, reduction and rotation words (spec/08 R211 to R228).
-/

namespace Sys2Proof.Machine

/-! ## The shared frames -/

/-- A floating word on the V port with floating-point latency: `f` gives lane l's result, `need` the outcome of its rounding test on a companded
slot (R142, R157). -/
def floatWord (i : Instr) (op : Nat) (vd va vb : BitVec 8)
    (f : Fmt → Group → Nat → Rounded) (need : Fmt → Group → Nat → ParkNeed) (s : State) : Out :=
  issue (wordOf s i)
    (fun s =>
      let g := curGroup s
      match floatFmt (curTask s) g with
      | none => .flt (FaultInfo.plain 0x04)
      | some fm =>
        deliver s 6 (parkOf op vd va vb) (eachLane g fun l =>
          let r := f fm g l
          { lane := l, ws := laneWrites fm vd.toNat l r.code, flags := r.flags, opa := laneCode g fm va.toNat l,
            opb := laneCode g fm vb.toNat l, need := need fm g l })) s

/-- A floating word of the divider (R216): variable latency, never parked; on a companded slot it raises SFC. -/
def dividerWord (i : Instr) (op : Nat) (vd : BitVec 8) (f : Fmt → Group → Nat → Rounded) (s : State) : Out :=
  issue (wordOf s i)
    (fun s =>
      let g := curGroup s
      match floatFmt (curTask s) g with
      | none => .flt (FaultInfo.plain 0x04)
      | some fm =>
        let rs := (lanesOn g).map fun l => (l, f fm g l)
        .ok (launchFlight s (rs.flatMap fun e => laneWrites fm vd.toNat e.1 e.2.code) (rs.foldl (fun a e => a ||| e.2.flags) 0)
          (if companded (curTask s) g then .sfc else .none) true (dividerLatency op (typeWide g)))) s

/-- An escalatable word (R156): it raises SFC, and any lane may park. DESIGN CHOICE (log entry 137): VFSSQ, VFRED, VFSCAN and VFROT, whose lanes read
other lanes' operands, park entries of `KIND` 1; every other word of `KIND` 0. -/
def escWord (i : Instr) (op : Nat) (kind : Nat) (srcs : List (BitVec 8)) (vd va vb : BitVec 8)
    (ok : Fmt → Bool) (f : Fmt → Group → List LaneResult) (s : State) : Out :=
  issue (wordOf s i)
    (fun s =>
      let g := curGroup s
      match floatFmt (curTask s) g with
      | none => .flt (FaultInfo.plain 0x04)
      | some fm =>
        if ok fm then
          escResult s ⟨op, kind, vd.toNat, va.toNat, vb.toNat, srcs.flatMap fun r => if typeWide g then [r.toNat, r.toNat + 1] else [r.toNat]⟩
            (f fm g)
        else .flt (FaultInfo.plain 0x04)) s

/-! ## Arithmetic (R211 to R213) -/

/-- Rounds an exact result that came with flags. -/
def roundExact (f : Fmt) (m : Rnd) (dth : Nat) (e : Exact) : Rounded :=
  if e.v.isNan then invalidNan f m
  else
    let r := roundTo f m dth e.v
    ⟨r.code, r.flags ||| e.flags⟩

/-- A two-operand operation: NaNPick first, else the exact result rounded once. -/
def arith2 (f : Fmt) (m : Rnd) (dth : Nat) (op : FVal → FVal → Exact) (a b : FVal) : Rounded :=
  if a.isNan || b.isNan then nanPick f [a, b] else roundExact f m dth (op a b)

/-- The rounding test of a two-operand operation; a result that R131, R132 or R134 fixes never parks. -/
def need2 (f : Fmt) (m : Rnd) (dth : Nat) (op : FVal → FVal → Exact) (a b : FVal) : ParkNeed :=
  if a.isNan || b.isNan then .never else (op a b).v.parkNeed f m dth

/-- VFMULZ (R133): a zero factor gives a zero whose sign combines both sign bits, with no flag. -/
def mulz (f : Fmt) (m : Rnd) (dth : Nat) (a b : FVal) : Rounded :=
  if a.isZero || b.isZero then roundTo f m dth (.zero (a.sign != b.sign)) else arith2 f m dth mulE a b

/-- a × b + d in one rounding, the product negated when `np` (R212). -/
def fused (f : Fmt) (m : Rnd) (dth : Nat) (np : Bool) (a b d : FVal) : Rounded :=
  if a.isNan || b.isNan then nanPick f [a, b, d]
  else
    let p := mulE a b
    if p.v.isNan then
      if d.isNan then let r := nanPick f [d]; ⟨r.code, r.flags ||| fNV⟩ else invalidNan f m
    else if d.isNan then nanPick f [d]
    else roundExact f m dth (addE m (if np then p.v.negate else p.v) d)

/-- The rounding test of a × b + d. -/
def needFused (f : Fmt) (m : Rnd) (dth : Nat) (np : Bool) (a b d : FVal) : ParkNeed :=
  let p := (mulE a b).v
  if a.isNan || b.isNan || d.isNan || p.isNan then .never else (addE m (if np then p.negate else p) d).v.parkNeed f m dth

/-- −0 below +0 (R213). -/
def lessFor (a b : FVal) : Bool :=
  match a, b with
  | .inf n, .inf k => n && !k
  | .inf n, _ => n
  | _, .inf k => !k
  | .zero n, .zero k => n && !k
  | _, _ => a.q.lt b.q

/-- VFMIN and VFMAX: the code of an operand, unrounded (R213). -/
def minMax (f : Fmt) (mx : Bool) (a b : FVal) (ca cb : Nat) : Rounded :=
  let nv : FlagSet := if a.isSig || b.isSig then fNV else 0
  match a.isNan, b.isNan with
  | true, true => nanPick f [a, b]
  | true, false => ⟨cb, nv⟩
  | false, true => ⟨ca, nv⟩
  | false, false => ⟨if (if mx then lessFor a b else lessFor b a) then cb else ca, 0⟩

/-! ## Sign words (R214) -/

/-- The format of a sign word: an nf slot without a sign is an illegal type. -/
def signFmt (t : Task) (g : Group) : Option Fmt :=
  match floatFmt t g with
  | some (.nar n) => if n.sgn then some (.nar n) else none
  | f => f

/-- VFABS, VFNEG and VFCPS: `f` gives the new sign bit. -/
def signWord (i : Instr) (op : Nat) (vd va vb : BitVec 8) (f : Nat → Nat → Nat) (s : State) : Out :=
  issue (wordOf s i)
    (fun s =>
      let g := curGroup s
      match signFmt (curTask s) g with
      | none => .flt (FaultInfo.plain 0x04)
      | some fm =>
        let top := 2 ^ (fm.width - 1)
        deliver s 6 (parkOf op vd va vb) (eachLane g fun l =>
          let a := laneCode g fm va.toNat l
          let b := laneCode g fm vb.toNat l
          { lane := l, ws := laneWrites fm vd.toNat l (a % top + top * f (a / top) (b / top)), flags := 0, opa := a, opb := b })) s

/-! ## Compare (R215) -/

/-- The truth of a floating comparison and its flag. -/
def floatRel (c : Nat) (a b : FVal) : Bool × FlagSet :=
  let sig : FlagSet := if a.isSig || b.isSig then fNV else 0
  let un := a.isNan || b.isNan
  let eq := !un && !(lessFor a b) && !(lessFor b a) || (a.isZero && b.isZero)
  let lt := !un && lessFor a b && !(a.isZero && b.isZero)
  match c with
  | 0 => (eq, sig)
  | 1 => (!eq, sig)
  | 6 => (un, sig)
  | 7 => (!un, sig)
  | c => (!un && relHolds c lt eq, if un then fNV else 0)

/-- VFCMP (R215). On a companded slot it is an escalatable word; its predicate is written whole and no lane parks. -/
def execVfcmp (pd cond : BitVec 4) (va vb : BitVec 8) (s : State) : Out :=
  issue (wordOf s (.vfcmp pd cond va vb))
    (fun s =>
      let g := curGroup s
      match floatFmt (curTask s) g with
      | none => .flt (FaultInfo.plain 0x04)
      | some fm =>
        let rel (l : Nat) := floatRel cond.toNat (laneVal g fm va.toNat l) (laneVal g fm vb.toNat l)
        let ws := [RegWrite.p pd.toNat (maskOf g fun l => (rel l).1)]
        let fl := (lanesOn g).foldl (fun a l => a ||| (rel l).2) 0
        deliver s 6 (parkOf 0x8E 0 va vb) [{ lane := 0, ws := ws, flags := fl }]) s

/-! ## Division, square root, remainder (R216) -/

def sqrtOf (f : Fmt) (m : Rnd) (dth : Nat) (a : FVal) : Rounded :=
  match a with
  | .nan .. => nanPick f [a]
  | .zero _ => roundTo f m dth a
  | .inf n => if n then invalidNan f m else roundTo f m dth a
  | .fin q => if q.isNeg then invalidNan f m else roundSqrt f m dth q

/-- The integer nearest a rational, ties to even. -/
def nearestEven (q : Q) : Int := ((Grid.round ⟨0, 0, true⟩ true false .rne 0 q)).floor

/-- a − n × b, n the integer nearest a ÷ b with ties to even; exact. DESIGN CHOICE (log entry 114): a remainder that the format cannot hold, in a
companded slot or with SGN = 0, goes through RoundTo with its flags. -/
def remOf (f : Fmt) (m : Rnd) (dth : Nat) (a b : FVal) : Rounded :=
  if a.isNan || b.isNan then nanPick f [a, b]
  else if a.isInf || b.isZero then invalidNan f m
  else if b.isInf || a.isZero then roundTo f m dth a
  else
    let n := nearestEven (a.q.div b.q)
    roundTo f m dth (FVal.ofQ a.sign (a.q.sub ((Q.ofInt n).mul b.q)))

/-! ## Parts of a value (R217) -/

/-- The finite integral values a narrow format represents, with their codes. -/
def integralCodes (n : NFmt) : List (Nat × Q) :=
  (List.range (2 ^ n.width)).filterMap fun c =>
    match n.decode c with
    | .fin q => if q.den = 1 then some (c, q) else none
    | .zero false => some (c, Q.zero)
    | _ => none

/-- The greatest value of Z at or below a, and the least at or above it, with their codes. -/
def integralBelow (n : NFmt) (a : Q) : Option (Nat × Q) :=
  (integralCodes n).foldl (fun (b : Option (Nat × Q)) e =>
    if e.2.le a then (match b with | some x => if x.2.lt e.2 then some e else b | none => some e) else b) none
def integralAbove (n : NFmt) (a : Q) : Option (Nat × Q) :=
  (integralCodes n).foldl (fun (b : Option (Nat × Q)) e =>
    if a.le e.2 then (match b with | some x => if e.2.lt x.2 then some e else b | none => some e) else b) none

/-- VFRND of a narrow format: the choice between the neighbours in Z (R217). A tie goes to the code whose lowest bit is 0; when both
or neither code is so, to the even integer (log entry 14). -/
def rndNarrow (n : NFmt) (mode : Rnd) (dth : Nat) (a : Q) : Rounded :=
  let lo := integralBelow n a
  let hi := integralAbove n a
  let zeroNeg : Nat := if a.isNeg && n.sgn && n.e != 0 then 2 ^ (n.e + n.m) else 0
  let out (e : Nat × Q) : Rounded := ⟨if e.2.isZero then zeroNeg else e.1, if e.2.eq a then 0 else fNX⟩
  match lo, hi with
  | none, none => ⟨zeroNeg, fNX⟩
  | some l, none => out l
  | none, some h => out h
  | some l, some h =>
    if l.2.eq h.2 then out l
    else
      let f := (a.sub l.2).div (h.2.sub l.2)
      let half : Q := ⟨1, 2⟩
      let tie : Bool :=
        if l.1 % 2 != h.1 % 2 then decide (h.1 % 2 = 0) else decide (h.2.num % 2 = 0)
      let up : Bool := match mode with
        | .rne => if f.eq half then tie else half.lt f
        | .rna => if f.eq half then tie else half.lt f
        | .rtz => a.isNeg
        | .rup => true
        | .rdn => false
        | .dith => Q.le ⟨2 * (ditherD dth : Int) + 1, 64⟩ f
      out (if up then h else l)

/-- The rounding test of VFRND on a companded slot (R157): its points are those of Z next to a, the midpoint between them and the dither threshold. A
value of Z is delivered as it is. -/
def rndNeed (n : NFmt) (mode : Rnd) (dth : Nat) (a : Q) : ParkNeed :=
  let lo := (integralBelow n a).map Prod.snd
  let hi := (integralAbove n a).map Prod.snd
  let between : List Q := match lo, hi with
    | some l, some h =>
      let part (f : Q) : Q := l.add ((h.sub l).mul f)
      match mode with
      | .rne => [part ⟨1, 2⟩]
      | .rna => [part ⟨1, 2⟩]
      | .dith => [part ⟨2 * (ditherD dth : Int) + 1, 64⟩]
      | _ => []
    | _, _ => []
  let w := intervalReach (Fmt.nar n).precision a.abs
  if lo.any a.eq then .never
  else if between.any a.eq then .must
  else if (lo.toList ++ hi.toList ++ between).any fun p => (a.sub w).le p && p.le (a.add w) then .may
  else .never

/-- VFRND (R217). -/
def rndOf (f : Fmt) (mode : Rnd) (dth : Nat) (a : FVal) : Rounded :=
  match a with
  | .nan .. => nanPick f [a]
  | .inf _ => roundTo f mode dth a
  | .zero _ => roundTo f mode dth a
  | .fin q =>
    match f with
    | .nar n => rndNarrow n mode dth q
    | _ =>
      let y := Grid.round ⟨0, 0, true⟩ true false mode dth q
      let r := roundTo f .rne 0 (FVal.ofQ q.isNeg y)
      ⟨r.code, if y.eq q then 0 else fNX⟩

/-- The class bit of a code (R217): sNaN, qNaN, −∞, −normal, −subnormal, −0, +0, +subnormal, +normal, +∞. -/
def classBit (f : Fmt) (code : Nat) : Nat :=
  let sub : Bool := match f with
    | .bin e fb => code % 2 ^ (e + fb) / 2 ^ fb == 0
    | .nar n => n.e != 0 && code % 2 ^ (n.e + n.m) / 2 ^ n.m == 0
    | .int .. => false
  let v := match f with | .nar n => n.decodePlain code | _ => f.decode code
  match v with
  | .nan _ sig .. => if sig then 0 else 1
  | .inf n => if n then 2 else 9
  | .zero n => if n then 5 else 6
  | .fin q => if q.isNeg then (if sub then 4 else 3) else (if sub then 7 else 8)

/-- VFCLS: one register whatever the type. -/
def execVfcls (vd va : BitVec 8) (s : State) : Out :=
  issue (wordOf s (.vfcls vd va))
    (fun s =>
      let g := curGroup s
      match floatFmt (curTask s) g with
      | none => .flt (FaultInfo.plain 0x04)
      | some fm =>
        deliver s 6 (parkOf 0x8D vd va va) (eachLane g fun l =>
          { lane := l, ws := [.v vd.toNat l (BitVec.ofNat 32 (2 ^ classBit fm (laneCode g fm va.toNat l)))], flags := 0,
            opa := laneCode g fm va.toNat l })) s

/-- The exponent of VFLDX, held within a range beyond which every result is the same overflow or underflow. -/
def clampExp (k : Int) : Int := if k < -50000 then -50000 else if 50000 < k then 50000 else k

/-- VFLDX (R217): k is read as s32 from one register. -/
def execVfldx (vd va vb : BitVec 8) (s : State) : Out :=
  issue (wordOf s (.vfldx vd va vb))
    (fun s =>
      let g := curGroup s
      match floatFmt (curTask s) g with
      | none => .flt (FaultInfo.plain 0x04)
      | some fm =>
        deliver s 6 (parkOf 0x94 vd va vb) (eachLane g fun l =>
          let a := laneVal g fm va.toNat l
          let k := (readV g vb.toNat l).toInt
          let r := match a with
            | .nan .. => nanPick fm [a]
            | .fin q => roundTo fm (modeRnd g) l (.fin (q.scale2 (clampExp k)))
            | _ => roundTo fm (modeRnd g) l a
          let need := match a with | .fin q => (FVal.fin (q.scale2 (clampExp k))).parkNeed fm (modeRnd g) l | _ => .never
          { lane := l, ws := laneWrites fm vd.toNat l r.code, flags := r.flags, opa := laneCode g fm va.toNat l,
            opb := (readV g vb.toNat l).toNat, need := need })) s

/-- VFFRX (R217). `NV` for ±∞ and NaNs goes with the exponent, sel 1; sel 0 delivers a under R131 (log entry 15). DESIGN CHOICE (log entry 114): a
fraction that a narrow format cannot hold goes through RoundTo with its flags. -/
def execVffrx (vd va : BitVec 8) (sel : BitVec 1) (s : State) : Out :=
  let expn := sel == 1
  issue (wordOf s (.vffrx vd va sel))
    (fun s =>
      let g := curGroup s
      match floatFmt (curTask s) g with
      | none => .flt (FaultInfo.plain 0x04)
      | some fm =>
        deliver s 6 (parkOf 0x95 vd va va) (eachLane g fun l =>
          let a := laneVal g fm va.toNat l
          let k : Int := match a with | .fin q => q.log2 + 1 | _ => 0
          if expn then
            let bad := a.isNan || a.isInf
            { lane := l, ws := [.v vd.toNat l (if bad then 0x7FFFFFFF else BitVec.ofInt 32 k)], flags := if bad then fNV else 0,
              opa := laneCode g fm va.toNat l }
          else
            let r := match a with
              | .nan .. => nanPick fm [a]
              | .fin q => roundTo fm (modeRnd g) l (.fin (q.scale2 (-k)))
              | _ => roundTo fm (modeRnd g) l a
            let need := match a with | .fin q => (FVal.fin (q.scale2 (-k))).parkNeed fm (modeRnd g) l | _ => .never
            { lane := l, ws := laneWrites fm vd.toNat l r.code, flags := r.flags, opa := laneCode g fm va.toNat l, need := need })) s

/-! ## Conversions (R218) -/

/-- The destination format of a conversion code; nf through NFS must be valid and unblocked. -/
def convFmt (t : Task) (g : Group) (code : Nat) : Option Fmt :=
  if code = 12 then
    if nfSlotOk t (modeNfs g) && (nfSlot t (modeNfs g)).blk == 0 then some (.nar (nfSlot t (modeNfs g))) else none
  else etypeFmt code

/-- A conversion: the source class is floating, or integer for VITOF. -/
def convert (i : Instr) (op : Nat) (fromInt : Bool) (vd va : BitVec 8) (code : BitVec 5) (s : State) : Out :=
  issue (wordOf s i)
    (fun s =>
      let g := curGroup s
      let t := curTask s
      let src := if fromInt then (intFmt g).map fun p => Fmt.int p.1 p.2 else floatFmt t g
      match src, convFmt t g code.toNat with
      | some sf, some df =>
        let rs := eachLane g fun l =>
          let x := laneVal g sf va.toNat l
          let r := roundTo df (modeRnd g) l x
          { lane := l, ws := laneWrites df vd.toNat l r.code, flags := r.flags, opa := laneCode g sf va.toNat l,
            need := x.parkNeed df (modeRnd g) l : LaneResult }
        if convComp t g code.toNat then escResult s (parkOf op vd va va) rs
        else fixedResult s 6 (rs.flatMap LaneResult.ws) (rs.foldl (fun a r => a ||| r.flags) 0)
      | _, _ => .flt (FaultInfo.plain 0x04)) s

/-! ## Quantisation (R219, R220) -/

/-- The slot of a quantise word; none is the illegal-type fault: another type, an invalid slot, or blocks of 64. -/
def quantFmt (t : Task) (g : Group) : Option NFmt :=
  if modeEtype g = 12 && nfSlotOk t (modeNfs g) && (nfSlot t (modeNfs g)).blk != 64 then some (nfSlot t (modeNfs g)) else none

/-- The side data of a block's lane p (R219). -/
def sideWord (b : QBlock) (p : Nat) : W32 :=
  if p = 0 then BitVec.ofNat 32 (b.scale + 256 * b.outs.length)
  else match b.outs[p - 1]? with
    | some o => BitVec.ofNat 32 (o.2 * 65536 + o.1)
    | none => 0

/-- VFQNT (R219). -/
def execVfqnt (vd va vb : BitVec 8) (s : State) : Out :=
  issue (wordOf s (.vfqnt vd va vb))
    (fun s =>
      let g := curGroup s
      let t := curTask s
      let val (l : Nat) : FVal := Fmt.f32.decode (readV g va.toNat l).toNat
      match quantFmt t g with
      | none => .flt (FaultInfo.plain 0x04)
      | some n =>
        if n.blk = 0 then
          deliver s 6 (parkOf 0x8B vd va vb) (eachLane g fun l =>
            let r := roundTo (.nar n) (modeRnd g) l (val l)
            { lane := l, ws := [.v vd.toNat l (BitVec.ofNat 32 r.code), .v vb.toNat l 0], flags := r.flags,
              opa := (readV g va.toNat l).toNat, need := (val l).parkNeed (.nar n) (modeRnd g) l })
        else
          let sf := scaleFmt t n
          let vals (j : Nat) : List FVal := (List.range n.blk).map fun p => if guardAt g (n.blk * j + p) then val (n.blk * j + p) else .zero false
          let needs (j : Nat) : List ParkNeed := blockNeeds n sf (Config.scaleOfNone n.scl) (modeRnd g) 0 (vals j)
          let blocks := (List.range (32 / n.blk)).filterMap fun j =>
            if (List.range n.blk).any fun p => guardAt g (n.blk * j + p) then
              some (j, quantBlock n sf (Config.scaleOfNone n.scl) (modeRnd g) 0 (vals j))
            else none
          deliver s 6 (parkOf 0x8B vd va vb) (blocks.flatMap fun e =>
            (List.range n.blk).map fun p =>
              let l := n.blk * e.1 + p
              { lane := l,
                ws := (if guardAt g l then [RegWrite.v vd.toNat l (BitVec.ofNat 32 ((e.2.codes[p]?).getD 0))] else [])
                  ++ [.v vb.toNat l (sideWord e.2 p)],
                flags := if p = 0 then e.2.flags else 0, opa := (readV g va.toNat l).toNat,
                need := if guardAt g l then ((needs e.1)[p]?).getD .never else .never, di := some p })) s

/-- VFDQ (R220). -/
def execVfdq (vd va vb : BitVec 8) (s : State) : Out :=
  issue (wordOf s (.vfdq vd va vb))
    (fun s =>
      let g := curGroup s
      let t := curTask s
      match quantFmt t g with
      | none => .flt (FaultInfo.plain 0x04)
      | some n =>
        deliver s 6 (parkOf 0x8C vd va vb) (eachLane g fun l =>
          let code := (readV g va.toNat l).toNat % 2 ^ n.width
          let v :=
            if n.blk = 0 then n.decode code
            else
              let j := l / n.blk
              let head := (readV g vb.toNat (n.blk * j)).toNat
              let outs := (List.range (min (head / 256 % 256) n.outl)).map fun k =>
                let w := (readV g vb.toNat (n.blk * j + 1 + k)).toNat
                (w % 64, w / 65536)
              blockElem n (scaleFmt t n) .f32 (head % 256) outs (l % n.blk) code
          let r := if n.curve.isEmpty then roundTo .f32 (modeRnd g) l v else ⟨(roundTo .f32 .rne l v).code, 0⟩
          { lane := l, ws := [.v vd.toNat l (BitVec.ofNat 32 r.code)], flags := r.flags, opa := code,
            need := v.parkNeed .f32 (if n.curve.isEmpty then modeRnd g else .rne) l })) s

/-! ## Elementary words (R221 to R226) -/

/-- The result and the rounding test of one lane of an elementary word; a table case never parks (R221). -/
def elemLane (f : Fmt) (m : Rnd) (vd l opa opb : Nat) (x : Exactly) : LaneResult :=
  let r := x.round f m l
  { lane := l, ws := laneWrites f vd l r.code, flags := r.flags, opa := opa, opb := opb, need := x.need f m l }

def elemWord (i : Instr) (op : Nat) (e : Elem) (vd va : BitVec 8) (s : State) : Out :=
  escWord i op 0 [va] vd va va (fun _ => true) (fun fm g => eachLane g fun l =>
    elemLane fm (modeRnd g) vd.toNat l (laneCode g fm va.toNat l) 0 (exactly1 fm (modeRnd g) l e (laneVal g fm va.toNat l))) s

def elemWord2 (i : Instr) (op : Nat) (f : Fmt → Rnd → Nat → FVal → FVal → Exactly) (vd va vb : BitVec 8) (s : State) : Out :=
  escWord i op 0 [va, vb] vd va vb (fun _ => true) (fun fm g => eachLane g fun l =>
    elemLane fm (modeRnd g) vd.toNat l (laneCode g fm va.toNat l) (laneCode g fm vb.toNat l)
      (f fm (modeRnd g) l (laneVal g fm va.toNat l) (laneVal g fm vb.toNat l))) s

/-! ## Exact reductions and scans (R227) -/

/-- The exact sum of terms rounded once. -/
def sumRound (f : Fmt) (m : Rnd) (dth : Nat) (ts : List FVal) : Rounded :=
  if ts.any FVal.isNan then nanPick f ts
  else roundExact f m dth (sumE m ts)

/-- The rounding test of an exact value that is a sum: the p of R157 is the position of its element, which is read as its lane, and for a word of one
result the lane that its entry carries (DEDUCED, log entry 136). -/
def exactNeed (p : Nat) (f : Fmt) (m : Rnd) (dth : Nat) : FVal → ParkNeed
  | .fin q => parkNeedAt p f m dth q q
  | _ => .never
/-- The rounding test of an exact sum. -/
def sumNeed (p : Nat) (f : Fmt) (m : Rnd) (dth : Nat) (ts : List FVal) : ParkNeed :=
  if ts.any FVal.isNan then .never else exactNeed p f m dth (sumE m ts).v

/-- Min or max over a list of codes in lane order (R227), with VFMIN's and VFMAX's flags. One code stands as it is, and sets `NV` when it is a
signalling NaN (log entry 116). -/
def foldMinMax (f : Fmt) (mx : Bool) (val : Nat → FVal) : List Nat → Rounded
  | [] => ⟨0, 0⟩
  | c :: rest => rest.foldl (fun acc d =>
      let r := minMax f mx (val acc.code) (val d) acc.code d
      ⟨r.code, acc.flags ||| r.flags⟩) ⟨c, if rest.isEmpty && (val c).isSig then fNV else 0⟩

/-- The sum of squares (R227): an infinity wins over a NaN. -/
def sumSquares (f : Fmt) (m : Rnd) (ts : List FVal) : Rounded :=
  let sig : FlagSet := if ts.any FVal.isSig then fNV else 0
  if ts.any FVal.isInf then let r := roundTo f m 0 (.inf false); ⟨r.code, r.flags ||| sig⟩
  else if ts.any FVal.isNan then nanPick f ts
  else roundTo f m 0 (FVal.ofQ false (ts.foldl (fun a t => a.add (t.q.mul t.q)) Q.zero))

/-- The rounding test of the sum of squares; an infinity, a NaN and a sum of 0 are table cases. -/
def squaresNeed (p : Nat) (f : Fmt) (m : Rnd) (ts : List FVal) : ParkNeed :=
  if ts.any fun t => t.isInf || t.isNan then .never
  else exactNeed p f m 0 (FVal.ofQ false (ts.foldl (fun a t => a.add (t.q.mul t.q)) Q.zero))

/-- VFRED and VFSCAN. With no lane enabled nothing is written. The sum parks at most one entry for VFRED, with dither index 0 (R158, R227); min and
max never park. -/
def floatFold (i : Instr) (opc : Nat) (scan : Bool) (vd va : BitVec 8) (op : BitVec 4) (s : State) : Out :=
  let res (fm : Fmt) (g : Group) (l : Nat) : Rounded :=
    let js := if scan then (lanesOn g).filter (fun j => decide (j ≤ l)) else lanesOn g
    if op = 0 then sumRound fm (modeRnd g) (if scan then l else 0) (js.map fun j => laneVal g fm va.toNat j)
    else
      foldMinMax fm (op == 2) (fun c => match fm with
        | .nar n => if n.curve.isEmpty then fm.decode c else Fmt.f32.decode (roundTo .f32 .rne 0 (fm.decode c)).code
        | _ => fm.decode c) (js.map fun j => laneCode g fm va.toNat j)
  let need (fm : Fmt) (g : Group) (l : Nat) : ParkNeed :=
    let js := if scan then (lanesOn g).filter (fun j => decide (j ≤ l)) else lanesOn g
    if op = 0 then sumNeed l fm (modeRnd g) (if scan then l else 0) (js.map fun j => laneVal g fm va.toNat j) else .never
  let lanes (fm : Fmt) (g : Group) : List LaneResult :=
    if scan then eachLane g fun l =>
      let r := res fm g l
      { lane := l, ws := laneWrites fm vd.toNat l r.code, flags := r.flags, need := need fm g l }
    else match lanesOn g with
      | [] => []
      | l0 :: _ =>
        let r := res fm g l0
        [{ lane := l0, ws := (lanesOn g).flatMap fun l => laneWrites fm vd.toNat l r.code, flags := r.flags, need := need fm g l0, di := some 0 }]
  if op = 0 then escWord i opc 1 [va] vd va va (fun _ => true) lanes s
  else
      issue (wordOf s i)
      (fun s =>
        let g := curGroup s
        match floatFmt (curTask s) g with
        | none => .flt (FaultInfo.plain 0x04)
        | some fm =>
          let rs := lanes fm g
          if companded (curTask s) g then escResult s (parkOf opc vd va va) rs
          else .ok (launchFlight s (rs.flatMap LaneResult.ws) (rs.foldl (fun a r => a ||| r.flags) 0) .none false (fastLatency opc (typeWide g)))) s

/-- VFSSQ: the exact sum of squares in every enabled lane. -/
def execVfssq (vd va : BitVec 8) (s : State) : Out :=
  escWord (.vfssq vd va) 0x90 1 [va] vd va va (fun _ => true) (fun fm g =>
    match lanesOn g with
    | [] => []
    | l0 :: _ =>
      let ts := (lanesOn g).map fun j => laneVal g fm va.toNat j
      let r := sumSquares fm (modeRnd g) ts
      [{ lane := l0, ws := (lanesOn g).flatMap fun l => laneWrites fm vd.toNat l r.code, flags := r.flags,
         need := squaresNeed l0 fm (modeRnd g) ts, di := some 0 }]) s

/-! ## Rotation (R228) -/

/-- VFROT: pairs of lanes; f16, bf16 and f32 only. -/
def execVfrot (vd va vb : BitVec 8) (s : State) : Out :=
  escWord (.vfrot vd va vb) 0x93 1 [va, vb] vd va vb (fun fm => fm == .f16 || fm == .bf16 || fm == .f32) (fun fm g =>
    (List.range 16).flatMap fun k =>
      if guardAt g (2 * k) || guardAt g (2 * k + 1) then
        let x := laneVal g fm va.toNat (2 * k)
        let y := laneVal g fm va.toNat (2 * k + 1)
        let pos := (readV g vb.toNat (2 * k)).toNat
        let w := Fmt.f32.decode (readV g vb.toNat (2 * k + 1)).toNat
        let r := rotPair fm (modeRnd g) (2 * k) x y pos w
        let n := rotNeed fm (modeRnd g) (2 * k) x y pos w
        let one (l : Nat) (x : Rounded) (need : ParkNeed) : List LaneResult :=
          if guardAt g l then [{ lane := l, ws := laneWrites fm vd.toNat l x.code, flags := x.flags, need := need }] else []
        one (2 * k) r.1 n.1 ++ one (2 * k + 1) r.2 n.2
      else []) s

/-! ## The words -/

/-- VFADD (R212). -/
def execVfadd (vd va vb : BitVec 8) (s : State) : Out :=
  floatWord (.vfadd vd va vb) 0x68 vd va vb (fun fm g l => arith2 fm (modeRnd g) l (addE (modeRnd g)) (laneVal g fm va.toNat l) (laneVal g fm vb.toNat l))
    (fun fm g l => need2 fm (modeRnd g) l (addE (modeRnd g)) (laneVal g fm va.toNat l) (laneVal g fm vb.toNat l)) s

/-- VFSUB (R212). -/
def execVfsub (vd va vb : BitVec 8) (s : State) : Out :=
  floatWord (.vfsub vd va vb) 0x69 vd va vb (fun fm g l => arith2 fm (modeRnd g) l (fun a b => addE (modeRnd g) a b.negate) (laneVal g fm va.toNat l) (laneVal g fm vb.toNat l))
    (fun fm g l => need2 fm (modeRnd g) l (fun a b => addE (modeRnd g) a b.negate) (laneVal g fm va.toNat l) (laneVal g fm vb.toNat l)) s

/-- VFMUL (R212). -/
def execVfmul (vd va vb : BitVec 8) (s : State) : Out :=
  floatWord (.vfmul vd va vb) 0x6A vd va vb (fun fm g l => arith2 fm (modeRnd g) l mulE (laneVal g fm va.toNat l) (laneVal g fm vb.toNat l))
    (fun fm g l => need2 fm (modeRnd g) l mulE (laneVal g fm va.toNat l) (laneVal g fm vb.toNat l)) s

/-- VFMULZ (R133, R212). -/
def execVfmulz (vd va vb : BitVec 8) (s : State) : Out :=
  floatWord (.vfmulz vd va vb) 0x6B vd va vb (fun fm g l => mulz fm (modeRnd g) l (laneVal g fm va.toNat l) (laneVal g fm vb.toNat l))
    (fun fm g l => need2 fm (modeRnd g) l mulE (laneVal g fm va.toNat l) (laneVal g fm vb.toNat l)) s

/-- VFMIN (R213). -/
def execVfmin (vd va vb : BitVec 8) (s : State) : Out :=
  floatWord (.vfmin vd va vb) 0x82 vd va vb (fun fm g l => minMax fm false (laneVal g fm va.toNat l) (laneVal g fm vb.toNat l) (laneCode g fm va.toNat l) (laneCode g fm vb.toNat l)) (fun _ _ _ => .never) s

/-- VFMAX (R213). -/
def execVfmax (vd va vb : BitVec 8) (s : State) : Out :=
  floatWord (.vfmax vd va vb) 0x83 vd va vb (fun fm g l => minMax fm true (laneVal g fm va.toNat l) (laneVal g fm vb.toNat l) (laneCode g fm va.toNat l) (laneCode g fm vb.toNat l)) (fun _ _ _ => .never) s

/-- VFMA (R212). -/
def execVfma (vd va vb : BitVec 8) (s : State) : Out :=
  floatWord (.vfma vd va vb) 0x6C vd va vb (fun fm g l => fused fm (modeRnd g) l false (laneVal g fm va.toNat l) (laneVal g fm vb.toNat l) (laneVal g fm vd.toNat l))
    (fun fm g l => needFused fm (modeRnd g) l false (laneVal g fm va.toNat l) (laneVal g fm vb.toNat l) (laneVal g fm vd.toNat l)) s

/-- VFMS (R212). -/
def execVfms (vd va vb : BitVec 8) (s : State) : Out :=
  floatWord (.vfms vd va vb) 0x6D vd va vb (fun fm g l => fused fm (modeRnd g) l false (laneVal g fm va.toNat l) (laneVal g fm vb.toNat l) (let d := (laneVal g fm vd.toNat l); if d.isNan then d else d.negate))
    (fun fm g l => needFused fm (modeRnd g) l false (laneVal g fm va.toNat l) (laneVal g fm vb.toNat l) (laneVal g fm vd.toNat l).negate) s

/-- VFNMA (R212). -/
def execVfnma (vd va vb : BitVec 8) (s : State) : Out :=
  floatWord (.vfnma vd va vb) 0x6E vd va vb (fun fm g l => fused fm (modeRnd g) l true (laneVal g fm va.toNat l) (laneVal g fm vb.toNat l) (laneVal g fm vd.toNat l))
    (fun fm g l => needFused fm (modeRnd g) l true (laneVal g fm va.toNat l) (laneVal g fm vb.toNat l) (laneVal g fm vd.toNat l)) s

/-- VFRND (R217). -/
def execVfrnd (vd va : BitVec 8) (s : State) : Out :=
  floatWord (.vfrnd vd va) 0x87 vd va va (fun fm g l => rndOf fm (modeRnd g) l (laneVal g fm va.toNat l))
    (fun fm g l => match fm, laneVal g fm va.toNat l with | .nar n, .fin q => rndNeed n (modeRnd g) l q | _, _ => .never) s

/-- VFABS (R214). -/
def execVfabs (vd va : BitVec 8) (s : State) : Out :=
  signWord (.vfabs vd va) 0x84 vd va va (fun _ _ => 0) s

/-- VFNEG (R214). -/
def execVfneg (vd va : BitVec 8) (s : State) : Out :=
  signWord (.vfneg vd va) 0x85 vd va va (fun a _ => 1 - a) s

/-- VFCPS (R214). -/
def execVfcps (vd va vb : BitVec 8) (s : State) : Out :=
  signWord (.vfcps vd va vb) 0x86 vd va vb (fun _ b => b) s

/-- VFDIV (R216). -/
def execVfdiv (vd va vb : BitVec 8) (s : State) : Out :=
  dividerWord (.vfdiv vd va vb) 0x6F vd (fun fm g l => arith2 fm (modeRnd g) l divE (laneVal g fm va.toNat l) (laneVal g fm vb.toNat l)) s

/-- VFSQRT (R216). -/
def execVfsqrt (vd va : BitVec 8) (s : State) : Out :=
  dividerWord (.vfsqrt vd va) 0x70 vd (fun fm g l => sqrtOf fm (modeRnd g) l (laneVal g fm va.toNat l)) s

/-- VFREM (R216). -/
def execVfrem (vd va vb : BitVec 8) (s : State) : Out :=
  dividerWord (.vfrem vd va vb) 0x96 vd (fun fm g l => remOf fm (modeRnd g) l (laneVal g fm va.toNat l) (laneVal g fm vb.toNat l)) s

/-- VFTOI (R218). -/
def execVftoi (vd va : BitVec 8) (imm : BitVec 5) (s : State) : Out :=
  convert (.vftoi vd va imm) 0x88 false vd va imm s

/-- VITOF (R218). -/
def execVitof (vd va : BitVec 8) (imm : BitVec 5) (s : State) : Out :=
  convert (.vitof vd va imm) 0x89 true vd va imm s

/-- VFCVT (R218). -/
def execVfcvt (vd va : BitVec 8) (imm : BitVec 5) (s : State) : Out :=
  convert (.vfcvt vd va imm) 0x8A false vd va imm s

/-- VFRSQ (R222). -/
def execVfrsq (vd va : BitVec 8) (s : State) : Out :=
  elemWord (.vfrsq vd va) 0x71 .rsq vd va s

/-- VFRCP (R222). -/
def execVfrcp (vd va : BitVec 8) (s : State) : Out :=
  elemWord (.vfrcp vd va) 0x72 .rcp vd va s

/-- VFEXP (R222). -/
def execVfexp (vd va : BitVec 8) (s : State) : Out :=
  elemWord (.vfexp vd va) 0x73 .exp vd va s

/-- VFEXP2 (R222). -/
def execVfexp2 (vd va : BitVec 8) (s : State) : Out :=
  elemWord (.vfexp2 vd va) 0x74 .exp2 vd va s

/-- VFEXPM1 (R222). -/
def execVfexpm1 (vd va : BitVec 8) (s : State) : Out :=
  elemWord (.vfexpm1 vd va) 0x75 .expm1 vd va s

/-- VFLOG (R222). -/
def execVflog (vd va : BitVec 8) (s : State) : Out :=
  elemWord (.vflog vd va) 0x76 .log vd va s

/-- VFLOG2 (R222). -/
def execVflog2 (vd va : BitVec 8) (s : State) : Out :=
  elemWord (.vflog2 vd va) 0x77 .log2 vd va s

/-- VFLOG1P (R222). -/
def execVflog1p (vd va : BitVec 8) (s : State) : Out :=
  elemWord (.vflog1p vd va) 0x78 .log1p vd va s

/-- VFSIN (R222). -/
def execVfsin (vd va : BitVec 8) (s : State) : Out :=
  elemWord (.vfsin vd va) 0x79 .sin vd va s

/-- VFCOS (R222). -/
def execVfcos (vd va : BitVec 8) (s : State) : Out :=
  elemWord (.vfcos vd va) 0x7A .cos vd va s

/-- VFTAN (R222). -/
def execVftan (vd va : BitVec 8) (s : State) : Out :=
  elemWord (.vftan vd va) 0x7B .tan vd va s

/-- VFATAN (R222). -/
def execVfatan (vd va : BitVec 8) (s : State) : Out :=
  elemWord (.vfatan vd va) 0x7C .atan vd va s

/-- VFTANH (R222). -/
def execVftanh (vd va : BitVec 8) (s : State) : Out :=
  elemWord (.vftanh vd va) 0x7E .tanh vd va s

/-- VFERF (R222). -/
def execVferf (vd va : BitVec 8) (s : State) : Out :=
  elemWord (.vferf vd va) 0x7F .erf vd va s

/-- VFATAN2 (R223). -/
def execVfatan2 (vd va vb : BitVec 8) (s : State) : Out :=
  elemWord2 (.vfatan2 vd va vb) 0x7D exactlyAtan2 vd va vb s

/-- VFPOW (R224). -/
def execVfpow (vd va vb : BitVec 8) (s : State) : Out :=
  elemWord2 (.vfpow vd va vb) 0x80 exactlyPow vd va vb s

/-- VFHYP (R225). -/
def execVfhyp (vd va vb : BitVec 8) (s : State) : Out :=
  elemWord2 (.vfhyp vd va vb) 0x81 exactlyHyp vd va vb s

/-- VFSMX (R226). -/
def execVfsmx (vd va vb : BitVec 8) (s : State) : Out :=
  elemWord2 (.vfsmx vd va vb) 0x8F exactlySmx vd va vb s

/-- VFRED (R227). -/
def execVfred (vd va : BitVec 8) (op : BitVec 4) (s : State) : Out :=
  floatFold (.vfred vd va op) 0x91 false vd va op s

/-- VFSCAN (R227). -/
def execVfscan (vd va : BitVec 8) (op : BitVec 4) (s : State) : Out :=
  floatFold (.vfscan vd va op) 0x92 true vd va op s

end Sys2Proof.Machine
end

