-- ==== Sys2Proof/Machine/MemOps.lean ====
section
/-!
DEFINITION. Global memory: the memory side, translation, the region filter, the cluster cache, the gang store buffer, the read cache and commits
(spec/03 R64 to R72, spec/09 R233 to R242, R255 to R263).
-/

namespace Sys2Proof.Machine

/-! ## Translation (R234 to R240) -/

/-- What an access asks of its page. -/
inductive AccessKind where
  | read | write | fetch
deriving DecidableEq, Repr

/-- The causes of a page fault with their FCAUSE codes (R238, R412). -/
inductive PageCause where
  | notPresent | malformed | writeDenied | fetchDenied | privilege
deriving DecidableEq, Repr
def PageCause.code : PageCause → Nat
  | .notPresent => 0 | .malformed => 1 | .writeDenied => 2 | .fetchDenied => 3 | .privilege => 4

/-- A page-table entry's fields (R236). -/
def pteV (e : Nat) : Bool := e % 2 == 1
def pteLeaf (e : Nat) : Bool := e / 2 % 2 == 1
def pteW (e : Nat) : Bool := e / 4 % 2 == 1
def pteX (e : Nat) : Bool := e / 8 % 2 == 1
def pteSup (e : Nat) : Bool := e / 16 % 2 == 1
def pteP64 (e : Nat) : Bool := e / 32 % 2 == 1
def pteMt (e : Nat) : Nat := e / 128 % 4
def ptePa (e : Nat) : Nat := e / 4096 % 2 ^ 36 * 4096
def pteRsv (e : Nat) : Bool := e / 64 % 2 != 0 || e / 512 % 8 != 0 || e / 2 ^ 48 != 0

/-- log2 of the page a leaf maps at a level; an L0 leaf with P64 maps 64 KiB (R235, R237). -/
def leafSize (level e : Nat) : Nat :=
  match level with
  | 2 => 30 | 1 => 21 | _ => if pteP64 e then 16 else 12

/-- The malformed test (R238). -/
def pteMalformed (level e : Nat) : Bool :=
  pteRsv e || (level == 3 && pteLeaf e) || (level == 0 && !pteLeaf e)
    || (if pteLeaf e then decide (2 ≤ pteMt e) || (level != 0 && pteP64 e) || ptePa e % 2 ^ leafSize level e != 0
        else pteMt e != 0 || pteP64 e)

/-- The entry index of a virtual address at a level (R235). -/
def pteIndex (level va : Nat) : Nat :=
  match level with
  | 3 => va / 2 ^ 39 % 2 ^ 13 | 2 => va / 2 ^ 30 % 512 | 1 => va / 2 ^ 21 % 512 | _ => va / 2 ^ 12 % 512

/-- The walk from a table at a level down: fuel counts the levels left. -/
def walkFrom (s : State) (asid va : Nat) : Nat → Nat → Except PageCause TlbEntry
  | 0, _ => .error .malformed
  | level + 1, table =>
    let e := memNat s (table + 8 * pteIndex level va) 8
    if !pteV e then .error .notPresent
    else if pteMalformed level e then .error .malformed
    else if pteLeaf e then
      let sz := leafSize level e
      .ok { asid := asid, va := va / 2 ^ sz * 2 ^ sz, size := sz, pa := ptePa e, mt := pteMt e, sup := pteSup e, x := pteX e, w := pteW e }
    else walkFrom s asid va level (ptePa e)

/-- A walk of an address space (R234): an invalid root pointer, or one with a reserved bit set, is a page that is not present. -/
def walk (s : State) (asid va : Nat) : Except PageCause TlbEntry :=
  let rp := memNat s (s.mgmt.astbase + 8 * (asid % 65536)) 8
  if 2 ^ 52 ≤ va ∨ rp % 2 = 0 || rp / 2 % 2 ^ 15 != 0 || rp / 2 ^ 48 != 0 then .error .notPresent
  else walkFrom s asid va 4 (rp / 2 ^ 16 % 2 ^ 32 * 2 ^ 16)

/-- The permission checks on a found translation, in the order of R238. -/
def pagePermit (e : TlbEntry) (k : AccessKind) (sup : Bool) : Option PageCause :=
  if e.sup && !sup then some .privilege
  else match k with
    | .write => if e.w then none else some .writeDenied
    | .fetch => if e.x then none else some .fetchDenied
    | .read => none

def tlbHit (asid va : Nat) (e : TlbEntry) : Bool := e.asid == asid && e.va == va / 2 ^ e.size * 2 ^ e.size
/-- Puts an entry at the front, the oldest leaving when the TLB is full (log entry 29). -/
def tlbFill (n : Nat) (e : TlbEntry) (l : List TlbEntry) : List TlbEntry := (e :: l).take n

/-- Translation of one address for an agent on a core: the core's TLB, the cluster's translation unit, then a walk, which fills both when it
succeeds (R240). -/
def translate (s : State) (core asid va : Nat) (k : AccessKind) (sup : Bool) : Except PageCause (TlbEntry × State) :=
  let c := coreAt s core
  let cl := clusterAt s (core / 16)
  match c.tlb.find? (tlbHit asid va) with
  | some e => match pagePermit e k sup with
    | some x => .error x
    | none => .ok (e, s)
  | none =>
    match cl.tlb.find? (tlbHit asid va) with
    | some e => match pagePermit e k sup with
      | some x => .error x
      | none => .ok (e, setCoreAt s core { c with tlb := tlbFill 64 e c.tlb })
    | none =>
      match walk s asid va with
      | .error x => .error x
      | .ok e => match pagePermit e k sup with
        | some x => .error x
        | none =>
          let s := setCoreAt s core { c with tlb := tlbFill 64 e c.tlb }
          .ok (e, setClusterAt s (core / 16) { cl with tlb := tlbFill 4096 e cl.tlb })

/-- The physical address of a virtual one under a translation. -/
def TlbEntry.paOf (e : TlbEntry) (va : Nat) : Nat := e.pa + va % 2 ^ e.size

/-- Translation by the dispatcher and the other agents that hold no TLB. Their areas lie in device memory, and no flit reads host memory for them
(R440): a page of host memory is as one that denies the access (log entry 45). -/
def translateBare (s : State) (asid va : Nat) (k : AccessKind) (sup : Bool) : Except PageCause Nat :=
  match walk s asid va with
  | .error x => .error x
  | .ok e => match pagePermit e k sup with
    | some x => .error x
    | none => if e.mt = 1 then .error (if k = .write then .writeDenied else .notPresent) else .ok (e.paOf va)

/-- Bytes of a virtual area for the device's own use, page by page: the first failing address with its cause, or the bytes. -/
def readArea (s : State) (asid : Nat) (sup : Bool) : Nat → Nat → Nat → Except (PageCause × Nat) (List Byte)
  | 0, _, _ => .ok []
  | fuel + 1, va, len =>
    if len = 0 then .ok []
    else
      match translateBare s asid va .read sup with
      | .error c => .error (c, va)
      | .ok pa =>
        let k := min len (4096 - va % 4096)
        match readArea s asid sup fuel (va + k) (len - k) with
        | .error e => .error e
        | .ok bs => .ok ((List.range k).map (fun j => memByte s (pa + j)) ++ bs)
/-- Pages that an area may touch. -/
def pagesOf (len : Nat) : Nat := len / 4096 + 2
def readVirtual (s : State) (asid : Nat) (sup : Bool) (va len : Nat) : Except (PageCause × Nat) (List Byte) :=
  readArea s asid sup (pagesOf len) va len

/-- The number of n bytes at an offset of read bytes. -/
def natAt (bs : List Byte) (o n : Nat) : Nat := natOf ((bs.drop o).take n)

/-! ## The region filter (R64 to R71) -/

/-- The access classes, with the FCLASS codes of R412. -/
inductive AccessClass where
  | read | write | atomic | device
deriving DecidableEq, Repr
def AccessClass.code : AccessClass → Nat
  | .read => 0 | .write => 1 | .atomic => 2 | .device => 3

/-- Whether a region kind admits a class (R66). -/
def kindAdmits (kind : Nat) : AccessClass → Bool
  | .read => kind == 0 || kind == 2
  | .write => kind == 1 || kind == 2
  | .atomic => kind == 2
  | .device => kind == 3 || kind == 4

/-- The instance of a record for a gang (R24): the record with its base moved. -/
def instanceOf (r : Region) (gx gy : Nat) : Region :=
  { r with base := ((r.base : Int) + (gx : Int) * r.sx + (gy : Int) * r.sy).toNat }
def Region.holds (r : Region) (a : Nat) : Bool := decide (r.base ≤ a) && decide (a < r.base + r.ext) && decide (a < 2 ^ 52)

/-- The filter entries of a block on its core (R71). -/
def filterOf (s : State) (gang blk : Nat) : List Region :=
  (((coreAt s (coreOf s gang blk)).filter.find? fun e => e.1 == gang && e.2.1 == blk).map fun e => e.2.2).getD []

/-- The index of the first record whose instance holds a byte. -/
def firstHolding (rs : List Region) (a : Nat) : Option Nat := (List.range rs.length).find? fun i => ((rs[i]?).map fun r => r.holds a).getD false

/-- The region check of one byte: none when it passes, else the fault code and FREG (R67, R68). -/
def regionByte (rs : List Region) (cls : AccessClass) (a : Nat) : Option (Nat × Nat) :=
  if rs.any fun r => r.holds a && kindAdmits r.kind cls then none
  else match firstHolding rs a with
    | none => some (0x0E, 0xFF)
    | some i => some (0x0F, i)

/-- The region check of n bytes: the fault of the first failing byte, with its address. -/
def regionCheck (rs : List Region) (cls : AccessClass) (a : Nat) : Nat → Option (Nat × Nat × Nat)
  | 0 => none
  | n + 1 =>
    match regionByte rs cls a with
    | some (c, r) => some (c, r, a)
    | none => regionCheck rs cls (a + 1) n

/-! ## Lines -/

def lineByte (l : Line) (o : Nat) : Option Byte :=
  let x := l.bytes.get 0 o
  if x = 0 then none else some (BitVec.ofNat 8 x)
def lineSet (l : Line) (o : Nat) (b : Byte) : Line := { l with bytes := l.bytes.set 0 o (b.toNat + 256) }

/-- The cluster cache's line at a physical line number. -/
def clusterLine (s : State) (cl line : Nat) : Line := (clusterAt s cl).lines.get Line.empty line
def setClusterLine (s : State) (cl line : Nat) (l : Line) : State :=
  let c := clusterAt s cl
  setClusterAt s cl { c with lines := c.lines.set Line.empty line l }

/-- The value of a byte in a cluster: the cluster cache's copy, or the memory side's (R256). -/
def clusterByte (s : State) (cl pa : Nat) : Byte :=
  match lineByte (clusterLine s cl (lineOf pa)) (pa % 128) with
  | some b => b
  | none => memByte s pa

/-- Fills the missing bytes of a line from the memory side: an ordinary read leaves a copy in the cluster cache. -/
def clusterFill (s : State) (cl line : Nat) : State :=
  let l := clusterLine s cl line
  setClusterLine s cl line ((List.range 128).foldl (fun l o =>
    match lineByte l o with
    | some _ => l
    | none => lineSet l o (memByte s (128 * line + o))) l)

/-- An ordinary write performed at the cluster cache: the byte becomes dirty. -/
def clusterPut (s : State) (cl pa : Nat) (b : Byte) : State :=
  let l := lineSet (clusterLine s cl (lineOf pa)) (pa % 128) b
  setClusterLine s cl (lineOf pa) { l with dirty := l.dirty ||| BitVec.ofNat 128 (2 ^ (pa % 128)) }

/-- Drops the clean bytes of a line from a cluster's cache (R260, R261). -/
def dropClean (s : State) (cl line : Nat) : State :=
  let l := clusterLine s cl line
  setClusterLine s cl line { l with bytes := l.bytes.keep fun o => l.dirty.getLsbD o }

/-- Writes a line's dirty bytes back to the memory side; they stay as clean copies (R73, R80). A whole line replaces a
poisoned one. -/
def cleanLine (s : State) (cl line : Nat) : State :=
  let l := clusterLine s cl line
  if l.dirty = 0 then s
  else
    let s := (List.range 128).foldl (fun s o =>
      if l.dirty.getLsbD o then
        match lineByte l o with
        | some b => if line < memSize / 128 then { s with mem := SMap.set memDefault s.mem (128 * line + o) b } else s
        | none => s
      else s) s
    { setClusterLine s cl line { l with dirty := 0 } with
      poison := if l.dirty = BitVec.allOnes 128 then s.poison.set 0 line 0 else s.poison }
/-- The write-back of a task edge, which ends the waits on the line (R399). -/
def writeBack (s : State) (cl line : Nat) : State :=
  if (clusterLine s cl line).dirty = 0 then s else noteWatch (cleanLine s cl line) line

/-- Invalidates a line in a cluster's cache at a task edge, its dirty bytes written back first (R73). -/
def invalidateLine (s : State) (cl line : Nat) : State := setClusterLine (writeBack s cl line) cl line Line.empty

/-! ## The gang store buffer (R256 to R259) -/

/-- The byte a gang sees at a physical address with LDF: its buffered byte over the cluster cache. -/
def gangByte (s : State) (gang pa : Nat) : Byte :=
  let gg := gangAt s gang
  match gg.store.get none (lineOf pa) with
  | some l =>
    let x := l.bytes.get 0 (pa % 128)
    if x = 0 then clusterByte s gg.cluster pa else BitVec.ofNat 8 x
  | none => clusterByte s gg.cluster pa

/-- Closes a gang's restartable window (R259). -/
def closeWindow (s : State) (gang : Nat) : State :=
  let gg := gangAt s gang
  if gg.window then setGangAt s gang { gg with window := false } else s

/-- One store-buffer line merged into the cluster cache. -/
def mergeLine (s : State) (cl line : Nat) (l : StoreLine) : State :=
  l.bytes.foldl (fun s e => clusterPut s cl (128 * line + e.1) (BitVec.ofNat 8 e.2)) s

/-- A commit (R257): every line of the gang's store buffer is merged into the cluster cache as one action, and the window closes. -/
def commitGang (s : State) (gang : Nat) : State :=
  let gg := gangAt s gang
  let s := gg.store.foldl (fun s e => match e.2 with | some l => mergeLine s gg.cluster e.1 l | none => s) s
  setGangAt s gang { gangAt s gang with store := [], window := false }

/-- The store-buffer lines a cluster's gangs hold. -/
def clusterStoreLines (s : State) (cl : Nat) : Nat :=
  s.gangs.foldl (fun n e => if e.2.cluster = cl then n + e.2.store.length else n) 0
/-- The gang of a cluster that holds the most lines, ties to the gang placed first (R258). -/
def fullestGang (s : State) (cl : Nat) : Option Nat :=
  (s.gangs.foldl (fun (b : Option (Nat × Gang)) e =>
    if e.2.cluster != cl || e.2.phase == .vacant then b
    else match b with
      | none => some e
      | some x =>
        if x.2.store.length < e.2.store.length || (x.2.store.length == e.2.store.length && decide (e.2.placedAt < x.2.placedAt))
        then some e else b) none).map Prod.fst

/-- Room for one more line (R258): a store beyond the gang's 8,192 lines commits the gang first, one beyond the cluster's 49,152 commits the
gang that holds the most. -/
def makeRoom (s : State) (gang line : Nat) : State :=
  let gg := gangAt s gang
  if (gg.store.get none line).isSome then s
  else
    let s := if 8192 ≤ gg.store.length then commitGang s gang else s
    if 49152 ≤ clusterStoreLines s gg.cluster then
      match fullestGang s gg.cluster with
      | some k => commitGang s k
      | none => s
    else s

/-- One byte stored into the gang's store buffer, with the tags of its group and word (R256). -/
def storeByte (s : State) (gang blk grp : Nat) (idx : W32) (pa : Nat) (b : Byte) : State :=
  let s := makeRoom s gang (lineOf pa)
  let gg := gangAt s gang
  let l := (gg.store.get none (lineOf pa)).getD ⟨[], blk, grp, idx, false⟩
  let l := { l with bytes := l.bytes.set 0 (pa % 128) (b.toNat + 256), blk := blk, grp := grp, idx := idx, iret := false }
  setGangAt s gang { gg with store := gg.store.set none (lineOf pa) (some l) }

/-- Bytes stored from a physical address on. -/
def storeBytes (s : State) (gang blk grp : Nat) (idx : W32) (pa : Nat) : List Byte → State
  | [] => s
  | b :: r => storeBytes (storeByte s gang blk grp idx pa b) gang blk grp idx (pa + 1) r

/-! ## The read cache (R255) -/

/-- Fills a core's read-cache line from a cluster's cache. -/
def rcacheFill (s : State) (core cl line : Nat) : State :=
  let c := coreAt s core
  if c.rcache.get Line.empty line ≠ Line.empty then s
  else
    let s := clusterFill s cl line
    let l := clusterLine s cl line
    setCoreAt s core { coreAt s core with rcache := c.rcache.set Line.empty line { l with dirty := 0 } }

/-- The number that the read cache holds at a physical address, when it holds all its bytes. -/
def rcacheNat (s : State) (core pa len : Nat) : Option Nat :=
  let byte (k : Nat) : Option Byte := lineByte ((coreAt s core).rcache.get Line.empty (lineOf (pa + k))) ((pa + k) % 128)
  if (List.range len).all fun k => (byte k).isSome then some (natOf ((List.range len).map fun k => (byte k).getD 0)) else none

def gangNat (s : State) (gang pa len : Nat) : Nat := natOf ((List.range len).map fun k => gangByte s gang (pa + k))

/-! ## Replacement (R255, R256) -/

/-- The lines of a core's read cache, 64 KiB, and of a cluster's cache, 8 MiB. -/
def readCacheLines : Nat := 512
def clusterCacheLines : Nat := 65536
/-- The line that leaves a cache: the one named, or one that a free value picks (log entry 5). -/
def lineToReplace (lines : SMap Line) (line : Option Nat) (k : Nat) : Option Nat :=
  match line with
  | some l => some l
  | none => (lines[(Config.freeWord k).toNat % lines.length]?).map Prod.fst

/-- A cache replaces a line; a cluster cache writes its dirty bytes back. -/
def replaceLine (s0 : State) (read : Bool) (unit : Nat) (line : Option Nat) : State :=
  let r := takeFresh s0
  let s := r.2
  if read then
    let c := coreAt s unit
    match lineToReplace c.rcache line r.1 with
    | some l => setCoreAt s unit { c with rcache := c.rcache.erase l }
    | none => s
  else match lineToReplace (clusterAt s unit).lines line r.1 with
    | some l => setClusterLine (cleanLine s unit l) unit l Line.empty
    | none => s

/-! ## Device-class writes and reads (R260) -/

/-- A device-class or non-temporal write: performed at the memory side; the issuing cluster's clean bytes of the line go. -/
def deviceWrite (s : State) (cl pa len n : Nat) : State :=
  let s := memWriteNat s pa len n
  (List.range (lineOf (pa + len - 1) - lineOf pa + 1)).foldl (fun s k => dropClean s cl (lineOf pa + k)) s

/-- Writes bytes of a virtual area for the device's own use at the memory side, page by page; `cl` is the cluster whose clean copies go. -/
def writeArea (asid : Nat) (sup : Bool) (cl : Nat) : Nat → Nat → List Byte → State → Except (PageCause × Nat) State
  | 0, _, _, s => .ok s
  | fuel + 1, va, bs, s =>
    if bs.isEmpty then .ok s
    else
      match translateBare s asid va .write sup with
      | .error c => .error (c, va)
      | .ok pa =>
        let k := 4096 - va % 4096
        let part := bs.take k
        let s1 := memPut s pa part
        let s2 := (List.range (lineOf (pa + part.length - 1) - lineOf pa + 1)).foldl (fun s j => dropClean s cl (lineOf pa + j)) s1
        writeArea asid sup cl fuel (va + k) (bs.drop k) s2
def writeVirtual (s : State) (asid : Nat) (sup : Bool) (cl va : Nat) (bs : List Byte) : Except (PageCause × Nat) State :=
  writeArea asid sup cl (pagesOf bs.length) va bs s

/-- Whether a line that an access reads is poisoned at the memory side (R74, R419). -/
def poisoned (s : State) (pa : Nat) : Bool := s.poison.get 0 (lineOf pa) != 0
/-- Whether one of n bytes from a physical address on lies in a poisoned line. -/
def anyPoisoned (s : State) (pa n : Nat) : Bool := (List.range (lineOf (pa + n - 1) + 1 - lineOf pa)).any fun k => s.poison.get 0 (lineOf pa + k) != 0

end Sys2Proof.Machine
end

