-- ==== Sys2Proof/Machine/Memory.lean ====
section
/-!
DEFINITION. Global memory words: loads, stores, prefetch, fences and atomics (spec/10 R266 to R280, R286, R287).
-/

namespace Sys2Proof.Machine

/-! ## Addresses and checks -/

/-- The element size z of an ETYPE in bytes (R267); none for a code that is not a type. -/
def elemSize (e : Nat) : Option Nat :=
  match e with
  | 0 => some 1 | 4 => some 1 | 12 => some 1
  | 1 => some 2 | 5 => some 2 | 8 => some 2 | 9 => some 2
  | 2 => some 4 | 6 => some 4 | 10 => some 4
  | 3 => some 8 | 7 => some 8 | 11 => some 8
  | _ => none

/-- The writes of a loaded element (R114, R267): s8 and s16 extend their sign, other narrow types are zero-extended. -/
def loadWrites (e v l x : Nat) : List RegWrite :=
  match e with
  | 0 => laneWrites (.int true 8) v l x
  | 1 => laneWrites (.int true 16) v l x
  | 3 => rawWrites v l 64 x
  | 7 => rawWrites v l 64 x
  | 11 => rawWrites v l 64 x
  | _ => rawWrites v l 32 x

/-- One lane's access that has passed its checks: the lane, its virtual and physical address, and whether it lies in host memory. -/
structure LaneAccess where
  lane : Nat
  va : Nat
  pa : Nat
  host : Bool
deriving DecidableEq, Repr

/-- The fault of a lane's access (R412). -/
def accessFault (code : Nat) (cls : AccessClass) (lane va : Nat) : FaultInfo :=
  { FaultInfo.plain code with fclass := cls.code, lane := lane, va := va }

/-- The alignment check (R269): the lowest lane whose address is not a multiple of z. -/
def alignFault (cls : AccessClass) (z : Nat) (ls : List (Nat × Nat)) : Option FaultInfo :=
  (ls.find? fun e => e.2 % z != 0).map fun e => accessFault 0x0D cls e.1 e.2

/-- The region check of the lanes (R68): the fault of the lowest failing lane. -/
def regionFault (rs : List Region) (cls : AccessClass) (z : Nat) : List (Nat × Nat) → Option FaultInfo
  | [] => none
  | e :: r =>
    match regionCheck rs cls e.2 z with
    | some (c, reg, a) => some { accessFault c cls e.1 a with freg := reg }
    | none => regionFault rs cls z r

/-- An address of 2^52 or more lies in no region instance (R234); a handler group, which the filter does not check, meets that too. -/
def tooHigh (cls : AccessClass) (z : Nat) (ls : List (Nat × Nat)) : Option FaultInfo :=
  (ls.find? fun e => decide (2 ^ 52 < e.2 + z)).map fun e => { accessFault 0x0E cls e.1 (max e.2 (2 ^ 52)) with freg := 0xFF }

/-- Check 4 of R269: the region filter, or for a handler group the size of its addresses (R234, R408). -/
def lanesAllowed (s : State) (cls : AccessClass) (z : Nat) (ls : List (Nat × Nat)) : Option FaultInfo :=
  if (curGroup s).handler then tooHigh cls z ls else regionFault (filterOf s s.cur.gang s.cur.blk) cls z ls

/-- Translates the lanes in order (R242); `hostBad` makes a host page a denied write (R262). -/
def translateLanes (core asid : Nat) (k : AccessKind) (sup hostBad : Bool) (cls : AccessClass) :
    List (Nat × Nat) → List LaneAccess → State → Except FaultInfo (List LaneAccess × State)
  | [], acc, s => .ok (acc.reverse, s)
  | e :: r, acc, s =>
    match translate s core asid e.2 k sup with
    | .error c => .error { accessFault 0x10 cls e.1 e.2 with cause := c.code }
    | .ok (t, s2) =>
      if hostBad && t.mt == 1 then .error { accessFault 0x10 cls e.1 e.2 with cause := PageCause.writeDenied.code }
      else translateLanes core asid k sup hostBad cls r (⟨e.1, e.2, t.paOf e.2, t.mt == 1⟩ :: acc) s2

/-- Checks 3 to 5 of R269 for the enabled lanes of the group in focus. -/
def checkLanes (s : State) (cls : AccessClass) (k : AccessKind) (hostBad : Bool) (n va z : Nat) : Except FaultInfo (List LaneAccess × State) :=
  let g := curGroup s
  let ls := (lanesOn g).map fun l => (l, laneAddr g n va l)
  match alignFault cls z ls with
  | some f => .error f
  | none =>
    match lanesAllowed s cls z ls with
    | some f => .error f
    | none => translateLanes (curCore s) (curLpb s).asid k g.handler hostBad cls ls [] s

/-! ## Host memory (R262, R440, R441) -/

/-- The masked line of a write flit: 128 line bytes, then the 16 mask bytes (R439). -/
def linePayload (pa : Nat) (bs : List Byte) : List Byte :=
  let o := pa % 128
  let byte (k : Nat) : Byte := if o ≤ k then (bs[k - o]?).getD 0 else 0
  let m : Nat := (2 ^ bs.length - 1) * 2 ^ o
  (List.range 128).map byte ++ bytesOf 16 m

/-- Sends a flit for an access to host memory and records what its response does. -/
def hostRequest (s : State) (ftype flen : Nat) (data : List Byte) (a : HostAcc) : State :=
  { s with outbox := s.outbox ++ [⟨ftype, 0, s.nextTag, flen, a.addr, data⟩], hostAccs := s.hostAccs ++ [{ a with tag := s.nextTag }],
           nextTag := (s.nextTag + 1) % 65536 }

/-- A host access of the group in focus, for the flight that the word is about to launch. -/
def groupHostAcc (s : State) (kind : Nat) (a : LaneAccess) (reg etype len : Nat) (scope : Nat := 5) : HostAcc :=
  { scope := scope, tag := 0, strm := 0, gang := s.cur.gang, blk := s.cur.blk, grp := s.cur.grp, flight := s.nextFlight, kind := kind, lane := a.lane,
    reg := reg, etype := etype, addr := a.pa, len := len, got := none }

/-- The group's own host accesses that await a response. -/
def groupHostWaits (s : State) : List HostAcc :=
  s.hostAccs.filter fun a => a.strm == 0 && a.gang == s.cur.gang && a.blk == s.cur.blk && a.grp == s.cur.grp

/-- Whether a FENCE in flight waits for a host access of its group (R271, R273): an earlier acquire, and at system scope every earlier one but an
`STNT`. -/
def fenceBehind (f : Flight) (a : HostAcc) : Bool := match f.fence with
  | none => false
  | some sc => decide (a.flight < f.id) && a.kind != 5 && a.kind != 6 && ((sc == 5 && !a.nt) || (decide (2 ≤ a.kind) && decide (a.kind ≤ 4)))
/-- An acquire of the group whose own access is not yet performed, and a FENCE whose release is not complete, hold its later global accesses; one at a
scope narrower than `.dev` does not hold the device-class ones (R271, R273). -/
def acquireHeld (s : State) (device : Bool) : Bool :=
  ((groupHostWaits s).any fun a => decide (2 ≤ a.kind) && decide (a.kind ≤ 4) && (!device || decide (4 ≤ a.scope)))
    || (curGroup s).flights.any fun f => (!device || f.fence.any fun sc => decide (4 ≤ sc)) && (groupHostWaits s).any (fenceBehind f)

/-! ## The shared frame -/

/-- A release at a scope, before its own access (R271): cluster scope and wider commit the store buffer. -/
def releaseAt (s : State) (scope : Nat) : State := if 3 ≤ scope then commitGang s s.cur.gang else s
/-- A release at system scope waits for the group's host accesses, but not for an `STNT` (R271). -/
def releaseHeld (s : State) (scope : Nat) : Bool := scope == 5 && (groupHostWaits s).any fun a => !a.nt

/-- A consumed error (R419): the word writes nothing and its gang is killed. -/
def consumedError (s : State) (f : FaultInfo) : State :=
  let g := curGroup s
  killGang s s.cur.gang 0x31 (faultWords s s.cur.gang 0 s.cur.blk s.cur.grp g.pc (guardMask g) { f with code := 0x31 })

/-- A consumed error in an element of the C-buffer or in its spill record, which the core counts (R432). -/
def consumedElement (s : State) (f : FaultInfo) : State := consumedError (countAt s 1 (curCore s) 0) f

/-- The first lane that reads a poisoned line (R74). -/
def poisonedLane (s : State) (ls : List LaneAccess) : Option LaneAccess := ls.find? fun a => !a.host && poisoned s a.pa

/-! ## Loads (R270) -/

/-- Where a load is performed. -/
inductive LoadPath where
  | ld | ldf | ldd
deriving DecidableEq, Repr

/-- One lane's loaded number, with the caches filled as the path fills them. -/
def loadLane (p : LoadPath) (s : State) (z : Nat) (a : LaneAccess) : Nat × State :=
  let core := curCore s
  let line := lineOf a.pa
  match p with
  | .ldd => (memNat s a.pa z, s)
  | .ldf => (gangNat s s.cur.gang a.pa z, clusterFill s (core / 16) line)
  | .ld =>
    let x := gangNat s s.cur.gang a.pa z
    match rcacheNat s core a.pa z with
    | some c =>
      if c = x then (x, s)
      else
        let r := takeFresh s
        (if Config.readCachePick r.1 then c else x, r.2)
    | none => (x, rcacheFill s core (curGang s).cluster line)

/-- The lanes of a load: register writes, with a place held for a lane whose value comes from the host; `acq` is the scope of an acquire. -/
def loadLanes (p : LoadPath) (acq : Option Nat) (e z v : Nat) : List LaneAccess → List RegWrite → State → List RegWrite × State
  | [], ws, s => (ws, s)
  | a :: r, ws, s =>
    if a.host then
      let s := closeWindow s s.cur.gang
      loadLanes p acq e z v r (ws ++ loadWrites e v a.lane 0)
        (hostRequest s 0xA0 z [] (groupHostAcc s (if acq.isSome then 4 else 0) a v e z (acq.getD 5)))
    else
      let x := loadLane p s z a
      loadLanes p acq e z v r (ws ++ loadWrites e v a.lane x.1) x.2

/-- The shared meaning of the loads. -/
def loadWord (i : Instr) (p : LoadPath) (cls : AccessClass) (acq : Option Nat) (v va : BitVec 8) (n : BitVec 5) (s : State) : Out :=
  issue (wordOf s i)
    (fun s =>
      let e := modeEtype (curGroup s)
      match elemSize e with
      | none => .flt (FaultInfo.plain 0x04)
      | some z =>
        if acquireHeld s (cls == .device) then .wait s
        else
          match checkLanes s cls .read false n.toNat va.toNat z with
          | .error f => .flt f
          | .ok (ls, s2) =>
            match poisonedLane s2 ls with
            | some a => .halted (consumedError s2 (accessFault 0x31 cls a.lane a.va))
            | none =>
              let r := loadLanes p acq e z v.toNat ls [] s2
              .ok (launchFlight r.2 r.1 0 .vmc false)) s

/-- LD (R270): through the read cache. -/
def execLd (v va : BitVec 8) (n : BitVec 5) (scope : BitVec 3) (s : State) : Out :=
  loadWord (.ld v va n scope) .ld .read none v va n s

/-- LDF (R270): at the cluster cache, under the gang's store buffer. -/
def execLdf (v va : BitVec 8) (n : BitVec 5) (scope : BitVec 3) (s : State) : Out :=
  loadWord (.ldf v va n scope) .ldf .read none v va n s

/-- LDD (R270): at the memory side. -/
def execLdd (v va : BitVec 8) (n : BitVec 5) (scope : BitVec 3) (s : State) : Out :=
  loadWord (.ldd v va n scope) .ldd .device none v va n s

/-- LDA (R270, R271): as LDF to cluster scope, as LDD beyond; an acquire. -/
def execLda (v va : BitVec 8) (n : BitVec 5) (scope : BitVec 3) (s : State) : Out :=
  loadWord (.lda v va n scope) (if scope.toNat ≤ 3 then .ldf else .ldd) (if scope.toNat ≤ 3 then .read else .device)
    (some scope.toNat) v va n s

/-! ## Stores (R270) -/

/-- Where a store is performed. -/
inductive StorePath where
  | buffer | direct
deriving DecidableEq, Repr

/-- The lanes of a store, in increasing order, so that the highest lane's value stands (R268). -/
def storeLanes (p : StorePath) (nt : Bool) (z v : Nat) (wide : Bool) (g : Group) : List LaneAccess → State → State
  | [], s => s
  | a :: r, s =>
    let x := laneBits g v a.lane wide % 2 ^ (8 * z)
    if a.host then
      let s := closeWindow s s.cur.gang
      storeLanes p nt z v wide g r (hostRequest s 0xA1 z (linePayload a.pa (bytesOf z x)) { groupHostAcc s 1 a 0 0 z with nt := nt })
    else
      match p with
      | .buffer => storeLanes p nt z v wide g r (storeBytes s s.cur.gang s.cur.blk s.cur.grp g.pc a.pa (bytesOf z x))
      | .direct =>
        let s := closeWindow s s.cur.gang
        storeLanes p nt z v wide g r (deviceWrite s (curCore s / 16) a.pa z x)

/-- The shared meaning of the stores. `rel` is the scope of a release, none for a plain store; `nt` marks STNT. -/
def storeWord (i : Instr) (p : StorePath) (nt : Bool) (cls : AccessClass) (rel : Option Nat) (v va : BitVec 8) (n : BitVec 5) (s : State) : Out :=
  issue (wordOf s i)
    (fun s =>
      let e := modeEtype (curGroup s)
      match elemSize e with
      | none => .flt (FaultInfo.plain 0x04)
      | some z =>
        if acquireHeld s (cls == .device) || (rel.map (releaseHeld s)).getD false then .wait s
        else
          match checkLanes s cls .write false n.toNat va.toNat z with
          | .error f => .flt f
          | .ok (ls, s2) =>
            let g := curGroup s2
            -- a release beyond cluster scope commits before its store, STL.clu commits its store with the rest
            let s3 := match rel with
              | some sc => if 4 ≤ sc then releaseAt s2 sc else s2
              | none => s2
            let s4 := storeLanes p nt z v.toNat (etypeWide e) g ls s3
            let s5 := match rel with
              | some 3 => releaseAt s4 3
              | _ => s4
            .ok (launchFlight s5 [] 0 .vmc false)) s

/-- ST (R270). -/
def execSt (v va : BitVec 8) (n : BitVec 5) (scope : BitVec 3) (s : State) : Out :=
  storeWord (.st v va n scope) .buffer false .write none v va n s

/-- STNT (R261). -/
def execStnt (v va : BitVec 8) (n : BitVec 5) (scope : BitVec 3) (s : State) : Out :=
  storeWord (.stnt v va n scope) .direct true .write none v va n s

/-- STD (R270). -/
def execStd (v va : BitVec 8) (n : BitVec 5) (scope : BitVec 3) (s : State) : Out :=
  storeWord (.std v va n scope) .direct false .device none v va n s

/-- STL (R270, R271): a release at its scope. -/
def execStl (v va : BitVec 8) (n : BitVec 5) (scope : BitVec 3) (s : State) : Out :=
  storeWord (.stl v va n scope) (if scope.toNat ≤ 3 then .buffer else .direct) false (if scope.toNat ≤ 3 then .write else .device)
    (some scope.toNat) v va n s

/-! ## PREF, FENCE, DRAINNT -/

/-- The lines that a prefetch brings in: lanes that fail a check or lie in host memory are discarded (R272). DESIGN CHOICE (log entry 142): the region
check of a lane is made for the one byte at its address. -/
def prefLanes (g : Group) (n va : Nat) : List Nat → State → State
  | [], s => s
  | l :: r, s =>
    let a := laneAddr g n va l
    let bad := (lanesAllowed s .read 1 [(l, a)]).isSome
    if bad then prefLanes g n va r s
    else
      match translate s (curCore s) (curLpb s).asid a .read g.handler with
      | .error _ => prefLanes g n va r s
      | .ok (t, s2) =>
        if t.mt = 1 || poisoned s2 (t.paOf a) then prefLanes g n va r s2
        else prefLanes g n va r (rcacheFill s2 (curCore s2) (curGang s2).cluster (lineOf (t.paOf a)))

/-- PREF (R272). -/
def execPref (va : BitVec 8) (n : BitVec 5) (scope : BitVec 3) (s : State) : Out :=
  issue (wordOf s (.pref va n scope))
    (fun s =>
      if acquireHeld s false then .wait s
      else
        let g := curGroup s
        .ok (launchFlight (prefLanes g n.toNat va.toNat (lanesOn g) s) [] 0 .vmc false)) s

/-- FENCE (R273): the commit is made at issue; its flight ends when its release is complete, and holds later accesses until then. -/
def execFence (scope : BitVec 3) (s : State) : Out :=
  issue (wordOf s (.fence scope))
    (fun s => .ok (noteFlight (launchFlight (releaseAt s scope.toNat) [] 0 .vmc false) s.nextFlight fun f =>
      { f with fence := some scope.toNat })) s

/-- DRAINNT (R274): raises VMC at issue; its flight ends when the group's earlier non-temporal stores are written. It waits for no other store
and is no release. -/
def execDrainnt (s : State) : Out :=
  issue (wordOf s .drainnt)
    (fun s =>
      .ok (noteFlight (launchFlight s [] 0 .vmc false) s.nextFlight fun f => { f with drains := true })) s

/-! ## Atomics (R275 to R280) -/

/-- The element types an atomic accepts (R276). -/
def AtomicOp.accepts (o : AtomicOp) (e : Nat) : Bool :=
  let ints := e == 2 || e == 6 || e == 3 || e == 7
  let floats := e == 10 || e == 11
  match o with
  | .add => ints
  | .fadd => floats
  | _ => ints || floats

/-- e + x in one rounding with NaNPick(e, x), by the rules of R278. -/
def floatAddTo (f : Fmt) (m : Rnd) (l e x : Nat) : Rounded :=
  arith2 f m l (addE m) (f.decode e) (f.decode x)

/-- The new element and the flags (R276 to R278): e the old element, x the operand, c the compare value. -/
def atomicNew (o : AtomicOp) (etype : Nat) (m : Rnd) (l e x c : Nat) : Nat × FlagSet :=
  let f := (etypeFmt etype).getD .f32
  let w := f.width
  match o with
  | .add => ((e + x) % 2 ^ w, 0)
  | .fadd => let r := floatAddTo f m l e x; (r.code, r.flags)
  | .and => (e &&& x, 0)
  | .or => (e ||| x, 0)
  | .xor => (e ^^^ x, 0)
  | .xchg => (x, 0)
  | .cas => (if e = c then x else e, 0)
  | .min =>
    match f with
    | .int sg _ => (if elemInt sg w x < elemInt sg w e then x else e, 0)
    | _ => let r := minMax f false (f.decode e) (f.decode x) e x; (r.code, r.flags)
  | .max =>
    match f with
    | .int sg _ => (if elemInt sg w e < elemInt sg w x then x else e, 0)
    | _ => let r := minMax f true (f.decode e) (f.decode x) e x; (r.code, r.flags)

/-- Moves the gang's own buffered bytes of an element out of its store buffer into the cluster cache (R275). -/
def spillElement (s : State) (gang pa z : Nat) : State :=
  let gg := gangAt s gang
  match gg.store.get none (lineOf pa) with
  | none => s
  | some l =>
    let mine (o : Nat) : Bool := decide (pa % 128 ≤ o) && decide (o < pa % 128 + z)
    let s := (l.bytes.filter fun e => mine e.1).foldl (fun s e => clusterPut s gg.cluster (128 * lineOf pa + e.1) (BitVec.ofNat 8 e.2)) s
    let rest := l.bytes.keep fun o => !mine o
    setGangAt s gang { gangAt s gang with store := gg.store.set none (lineOf pa) (if rest.isEmpty then none else some { l with bytes := rest }) }

/-- Writes a number's bytes at the cluster cache. -/
def clusterPutNat (s : State) (cl pa z x : Nat) : State :=
  (List.range z).foldl (fun s k => clusterPut s cl (pa + k) (BitVec.ofNat 8 (x / 2 ^ (8 * k)))) s

/-- A compare that fails writes nothing (R277). -/
def casFails (o : AtomicOp) (e c : Nat) : Bool := o == .cas && e != c

/-- One lane's atomic on device memory: the old element, the flags, and the state after. -/
def atomicLane (o : AtomicOp) (etype z scope : Nat) (m : Rnd) (a : LaneAccess) (x c : Nat) (s : State) : Nat × FlagSet × State :=
  let cl := curCore s / 16
  if scope ≤ 3 then
    let s := spillElement s s.cur.gang a.pa z
    let e := natOf ((List.range z).map fun k => clusterByte s cl (a.pa + k))
    let r := atomicNew o etype m a.lane e x c
    (e, r.2, if casFails o e c then s else clusterPutNat s cl a.pa z r.1)
  else
    let e := memNat s a.pa z
    let r := atomicNew o etype m a.lane e x c
    (e, r.2, if casFails o e c then s else deviceWrite s cl a.pa z r.1)

/-- The operand and compare value of a lane (R275, R277). -/
def atomicOperands (o : AtomicOp) (g : Group) (v l : Nat) (wide : Bool) : Nat × Nat :=
  let w := if wide then 2 else 1
  match o with
  | .cas => (laneBits g (v + w) l wide, laneBits g v l wide)
  | _ => (laneBits g v l wide, 0)

/-- SATOM's FLEN: operation in [1:0], width in [3:2] (R440). -/
def satomLen (o : AtomicOp) (wide : Bool) : Nat :=
  (match o with | .add => 0 | .xchg => 1 | _ => 2) + if wide then 4 else 0
/-- SATOM's operands: the addend, the swap value, or the compare value and the swap value (log entry 30). -/
def satomData (o : AtomicOp) (x c : Nat) : List Byte :=
  match o with
  | .cas => bytesOf 8 c ++ bytesOf 8 x
  | _ => bytesOf 8 x ++ bytesOf 8 0

/-- The lanes of an atomic performed at once, in increasing order. -/
def atomicLanes (o : AtomicOp) (etype z scope v : Nat) (wide : Bool) (g : Group) :
    List LaneAccess → List RegWrite → FlagSet → State → List RegWrite × FlagSet × State
  | [], ws, f, s => (ws, f, s)
  | a :: r, ws, f, s =>
    let p := atomicOperands o g v a.lane wide
    if a.host then
      let s := hostRequest s 0xA2 (satomLen o wide) (satomData o p.1 p.2) (groupHostAcc s (if v = 0 then 3 else 2) a v etype z scope)
      atomicLanes o etype z scope v wide g r (if v = 0 then ws else ws ++ loadWrites etype v a.lane 0) f s
    else
      let x := atomicLane o etype z scope (modeRnd g) a p.1 p.2 s
      atomicLanes o etype z scope v wide g r (if v = 0 then ws else ws ++ loadWrites etype v a.lane x.1) (f ||| x.2.1) x.2.2

/-- The order key of R61: gang, block (16 for the handler group), group, lane, issue order. -/
def contribKey (gangIx blk grp lane : Nat) (clk : Nat) : Nat :=
  (((gangIx * 32 + blk) * 64 + grp) * 32 + lane) * 2 ^ 64 + clk

/-- The base die of a physical address (R263). -/
def dieOf (pa : Nat) : Nat := pa / 128 % 48 / 12
/-- The contributions in a base die's buffer, which holds 262,144 records of 16 bytes, as (task, contribution). -/
def inBuffer (s : State) (die : Nat) : List (Nat × Contrib) :=
  s.tasks.flatMap fun t => (t.2.contribs.filter fun c => dieOf c.pa == die && c.log.isNone).map fun c => (t.1, c)
def bufferRecords : Nat := 262144
/-- The lowest free record of the reduction overflow log (R265). -/
def freeLogRecord (s : State) : Option Nat :=
  (List.range (s.mgmt.orsize / 16)).find? fun k => !s.tasks.any fun t => t.2.contribs.any fun c => c.log == some k
/-- The oldest contribution of a list. -/
def oldestOf : List (Nat × Contrib) → Option (Nat × Contrib)
  | [] => none
  | x :: r => match oldestOf r with
    | none => some x
    | some y => if y.2.num < x.2.num then some y else some x

/-- A die's oldest record moves to the overflow log in device memory; none when the log is full. The spec gives the record's 16 bytes no
layout, and they are free values (log entry 123). -/
def moveOldest (s : State) (die : Nat) : Option State :=
  match freeLogRecord s, oldestOf (inBuffer s die) with
  | some k, some (t, c) =>
    let x := taskAt s t
    let s1 := setTaskAt s t { x with contribs := x.contribs.map fun y => if y.num = c.num then { y with log := some k } else y }
    let r := takeFresh s1
    let r2 := takeFresh r.2
    let bs := bytesOf 8 (Config.freeWord r.1).toNat ++ bytesOf 8 (Config.freeWord r2.1).toNat
    some (memPut r2.2 (s.mgmt.orlog + 16 * k) bs)
  | _, _ => none
/-- Room for one more record in a die's buffer (R265). -/
def dieRoom (s : State) (die : Nat) : Option State := if (inBuffer s die).length < bufferRecords then some s else moveOldest s die

/-- Holds contributions; none when a die's buffer and the log are both full (R265). -/
def holdLanes (o : AtomicOp) (etype v : Nat) (wide : Bool) (g : Group) : List LaneAccess → State → Option State
  | [], s => some s
  | a :: r, s0 =>
    match dieRoom s0 (dieOf a.pa) with
    | none => none
    | some s1 =>
      let f := takeFresh s1
      let s := f.2
      let p := atomicOperands o g v a.lane wide
      let ix := gangIndexOf s s.cur.gang
      let c : Contrib :=
        { key := contribKey ix s.cur.blk s.cur.grp a.lane g.lclk.toNat, gang := ix, pa := a.pa, host := a.host, op := o.code, etype := etype,
          rnd := modeRnd g, lane := a.lane, val := BitVec.ofNat 64 p.1, val2 := BitVec.ofNat 64 p.2, num := f.1, log := none }
      let t := curTask s
      holdLanes o etype v wide g r (setTaskAt s (curGang s).task { t with contribs := t.contribs ++ [c] })

/-- The determinism check of an atomic (R60, R279). -/
def atomicNondet (o : AtomicOp) (v scope : Nat) : Bool := v != 0 && (o == .fadd || 3 ≤ scope)

/-- The shared meaning of the atomics. -/
def atomicWord (i : Instr) (o : AtomicOp) (v va : BitVec 8) (n : BitVec 5) (scope : BitVec 3) (s : State) : Out :=
  issue (wordOf s i)
    (fun s =>
      let e := modeEtype (curGroup s)
      let wide := etypeWide e
      let held := (curLpb s).repro && isHeld (o == .fadd) v.toNat scope.toNat
      let cls : AccessClass := if scope.toNat ≤ 3 then .atomic else .device
      if !o.accepts e then .flt (FaultInfo.plain 0x04)
      else if (curLpb s).repro && atomicNondet o v.toNat scope.toNat then .flt (FaultInfo.plain 0x11)
      else
        let z := if wide then 8 else 4
        if !held && (acquireHeld s (cls == .device) || releaseHeld s scope.toNat) then .wait s
        else
          match checkLanes s cls .write (!(o == .add || o == .xchg || o == .cas)) n.toNat va.toNat z with
          | .error f => .flt f
          | .ok (ls, s2) =>
            let g := curGroup s2
            if held then
              match holdLanes o e v.toNat wide g ls s2 with
              | none => .halted (failTask s2 (curGang s2).task 5 0 [])
              | some s3 => .ok (launchFlight s3 [] 0 .vmc false)
            else
              match poisonedLane s2 ls with
              | some a => .halted (consumedError s2 (accessFault 0x31 cls a.lane a.va))
              | none =>
                let s3 := closeWindow (releaseAt s2 scope.toNat) s2.cur.gang
                let r := atomicLanes o e z scope.toNat v.toNat wide g ls [] 0 s3
                .ok (launchFlight r.2.2 r.1 r.2.1 .vmc false)) s

/-- AADD (R276). -/
def execAadd (v va : BitVec 8) (n : BitVec 5) (scope : BitVec 3) (s : State) : Out := atomicWord (.aadd v va n scope) .add v va n scope s
/-- AFADD (R278). -/
def execAfadd (v va : BitVec 8) (n : BitVec 5) (scope : BitVec 3) (s : State) : Out := atomicWord (.afadd v va n scope) .fadd v va n scope s
/-- AMIN (R276). -/
def execAmin (v va : BitVec 8) (n : BitVec 5) (scope : BitVec 3) (s : State) : Out := atomicWord (.amin v va n scope) .min v va n scope s
/-- AMAX (R276). -/
def execAmax (v va : BitVec 8) (n : BitVec 5) (scope : BitVec 3) (s : State) : Out := atomicWord (.amax v va n scope) .max v va n scope s
/-- AAND (R276). -/
def execAand (v va : BitVec 8) (n : BitVec 5) (scope : BitVec 3) (s : State) : Out := atomicWord (.aand v va n scope) .and v va n scope s
/-- AOR (R276). -/
def execAor (v va : BitVec 8) (n : BitVec 5) (scope : BitVec 3) (s : State) : Out := atomicWord (.aor v va n scope) .or v va n scope s
/-- AXOR (R276). -/
def execAxor (v va : BitVec 8) (n : BitVec 5) (scope : BitVec 3) (s : State) : Out := atomicWord (.axor v va n scope) .xor v va n scope s
/-- AXCHG (R276). -/
def execAxchg (v va : BitVec 8) (n : BitVec 5) (scope : BitVec 3) (s : State) : Out := atomicWord (.axchg v va n scope) .xchg v va n scope s
/-- ACAS (R277). -/
def execAcas (v va : BitVec 8) (n : BitVec 5) (scope : BitVec 3) (s : State) : Out := atomicWord (.acas v va n scope) .cas v va n scope s

end Sys2Proof.Machine
end

