-- ==== Sys2Proof/Machine/Handles.lean ====
section
/-!
DEFINITION. Handle entries, their tests, transitions and swizzles, and the bytes of the A-buffer and W-buffer (R243 to R252).
-/

namespace Sys2Proof.Machine

/-! ## Fields (R247) -/

/-- Bits [lo + n − 1 : lo] of an entry. -/
def bitsOf {w : Nat} (x : BitVec w) (lo n : Nat) : Nat := x.toNat / 2 ^ lo % 2 ^ n
/-- An entry with bits [lo + n − 1 : lo] replaced. -/
def putBits {w : Nat} (x : BitVec w) (lo n v : Nat) : BitVec w :=
  BitVec.ofNat w (x.toNat - x.toNat / 2 ^ lo % 2 ^ n * 2 ^ lo + v % 2 ^ n * 2 ^ lo)

abbrev HEntry := BitVec 128

def hBuf (e : HEntry) : Nat := bitsOf e 126 2
def hState (e : HEntry) : Nat := bitsOf e 124 2
def hPhase (e : HEntry) : Nat := bitsOf e 123 1
def hFswz (e : HEntry) : Nat := bitsOf e 119 4
def hFv (e : HEntry) : Nat := bitsOf e 118 1
def hBase (e : HEntry) : Nat := bitsOf e 96 20
def hExt (e : HEntry) : Nat := bitsOf e 64 20
def hDesc (e : HEntry) : Nat := bitsOf e 60 4
def hDv (e : HEntry) : Nat := bitsOf e 59 1
def hFmt (e : HEntry) : Nat := bitsOf e 55 4
def hSwz (e : HEntry) : Nat := bitsOf e 51 4
def hProd (e : HEntry) : Nat := bitsOf e 40 8
def hCons (e : HEntry) : Nat := bitsOf e 32 8

/-- The states of an entry, as coded. -/
def hsFree : Nat := 0
def hsFilling : Nat := 1
def hsFull : Nat := 2
def hsDraining : Nat := 3

def handleAt (b : Block) (h : Nat) : HEntry := b.handles.get 0 h
def setHandle (b : Block) (h : Nat) (e : HEntry) : Block := { b with handles := b.handles.set 0 h e }

/-- The engines of a mask (R25). -/
inductive Engine where
  | groups | matrix | tender | remote
deriving DecidableEq, Repr
def Engine.bit : Engine → Nat
  | .groups => 0 | .matrix => 1 | .tender => 2 | .remote => 3
def inMask (m : Nat) (e : Engine) : Bool := m / 2 ^ e.bit % 2 == 1

/-- What an access does. -/
inductive HAccess where
  | read | write | atomic
deriving DecidableEq, Repr

/-! ## Tests 2 to 6 of R248 -/

/-- Test 2. -/
def maskOk (e : HEntry) (g : Engine) : HAccess → Bool
  | .read => inMask (hCons e) g
  | .write => inMask (hProd e) g
  | .atomic => inMask (hProd e) g && inMask (hCons e) g
/-- Test 3, for one range. -/
def inExt (e : HEntry) (o n : Nat) : Bool := decide (o + n ≤ hExt e)
/-- Test 4. -/
def swzLegal (e : HEntry) : Bool := decide (hSwz e < 5) && (hSwz e == 0 || hExt e % 128 == 0)
/-- Test 5. -/
def swzMatch (e : HEntry) : HAccess → Bool
  | .read => hFv e == 0 || hFswz e == hSwz e
  | _ => true
/-- Test 6. -/
def stateOk (e : HEntry) : HAccess → Bool
  | .read => hState e == hsFull || hState e == hsDraining
  | _ => hState e == hsFilling

/-! ## Transitions (R249) -/

/-- The entry after a legal transition; none for an illegal one. -/
def transition (e : HEntry) (goal : Nat) (g : Engine) : Option HEntry :=
  let st := hState e
  if st == 0 && goal == 1 && inMask (hProd e) g then some (putBits (putBits e 124 2 1) 118 1 0)
  else if st == 1 && goal == 2 && inMask (hProd e) g then some (putBits (putBits e 124 2 2) 123 1 (1 - hPhase e))
  else if st == 2 && goal == 3 && inMask (hCons e) g then some (putBits e 124 2 3)
  else if (st == 2 || st == 3) && goal == 0 && inMask (hCons e) g then some (putBits e 124 2 0)
  else none

/-! ## Swizzles (R251, R252) -/

/-- The stored offset o′ of a handle-relative offset. -/
def swizzle (id o : Nat) : Nat :=
  match id with
  | 1 => o ^^^ (o / 128 % 8 * 16)
  | 2 => o ^^^ (o / 256 % 8 * 16)
  | 3 => o ^^^ (o / 512 % 8 * 16)
  | 4 => o ^^^ (o / 128 % 4 * 16)
  | _ => o

/-- A write in the current fill records its swizzle (R252). -/
def noteSwz (e : HEntry) (id : Nat) : HEntry :=
  if hFv e = 0 then putBits (putBits e 119 4 id) 118 1 1
  else if hFswz e = id then e
  else putBits e 119 4 15

/-! ## Buffer bytes -/

/-- A byte of the A-buffer (0) or W-buffer (1) of a block, by allocation offset. -/
def bufByte (b : Block) (buf o : Nat) : Byte := if buf = 0 then b.abuf.get 0 o else b.wbuf.get 0 o
def setBufByte (b : Block) (buf o : Nat) (x : Byte) : Block :=
  if buf = 0 then { b with abuf := b.abuf.set 0 o x } else { b with wbuf := b.wbuf.set 0 o x }

/-- The byte at a handle-relative offset stored under swizzle `swz`. -/
def handleByte (b : Block) (e : HEntry) (swz o : Nat) : Byte := bufByte b (hBuf e) (hBase e + swizzle swz o)
def setHandleByte (b : Block) (e : HEntry) (swz o : Nat) (x : Byte) : Block := setBufByte b (hBuf e) (hBase e + swizzle swz o) x

/-- The little-endian number of n bytes at an offset. -/
def handleNat (b : Block) (e : HEntry) (swz o n : Nat) : Nat := natOf ((List.range n).map fun k => handleByte b e swz (o + k))
/-- Bytes written from an offset on. -/
def setHandleBytes (b : Block) (e : HEntry) (swz : Nat) : Nat → List Byte → Block
  | _, [] => b
  | o, x :: r => setHandleBytes (setHandleByte b e swz o x) e swz (o + 1) r

end Sys2Proof.Machine
end

