-- ==== Sys2Proof/Machine/Accum.lean ====
section
/-!
DEFINITION. Long accumulators: the elements of the C-buffer, contributions, escalation to spill records, round-out (R136 to R140, R332, R334).
-/

namespace Sys2Proof.Machine

/-! ## Elements (R136) -/

abbrev LaElem := BitVec 128

def laCls (e : LaElem) : Nat := bitsOf e 124 4
def laAnch (e : LaElem) : Int := ((BitVec.ofNat 16 (bitsOf e 108 16)).toInt)
def laSpix (e : LaElem) : Nat := bitsOf e 96 12
def laWin (e : LaElem) : Int := ((BitVec.ofNat 96 (bitsOf e 0 96)).toInt)

/-- An element from its fields. -/
def laMake (cls : Nat) (anch : Int) (spix : Nat) (win : Int) : LaElem :=
  BitVec.ofNat 128 (cls * 2 ^ 124 + (BitVec.ofInt 16 anch).toNat * 2 ^ 108 + spix % 4096 * 2 ^ 96 + (BitVec.ofInt 96 win).toNat)

/-- The zero of a kind: 0 cancelled, 1 all +0, 2 all −0. DESIGN CHOICE (log entry 140): `ANCH` of a zero, an infinity and a NaN is 0, and so is `WIN` of
an infinity, which a raw LDC shows. -/
def laZero (kind : Nat) : LaElem := laMake 0 0 kind 0
def laInf (neg : Bool) : LaElem := laMake (if neg then 4 else 3) 0 0 0
/-- A NaN, kept as a quiet binary64 NaN. -/
def laNan (code : Nat) : LaElem := BitVec.ofNat 128 (2 * 2 ^ 124 + code)

/-- The value of an element. A spill record stands for an escalated one. -/
inductive LaVal where
  | fin (q : Q)
  | zero (kind : Nat)
  | inf (neg : Bool)
  | nan (code : Nat)
  /-- classes 5 to 15 (R139) -/
  | bad
deriving DecidableEq, Repr

/-- The value of an element, `spill` being the exact value of its record when its class is 1. -/
def laValue (e : LaElem) (spill : Q) : LaVal :=
  match laCls e with
  | 0 => if laWin e = 0 then .zero (bitsOf e 96 2) else .fin ((Q.ofInt (laWin e)).scale2 (laAnch e))
  | 1 => if spill.isZero then .zero 0 else .fin spill
  | 2 => .nan (bitsOf e 0 64)
  | 3 => .inf false
  | 4 => .inf true
  | _ => .bad

/-- How often 2 divides a positive number; the fuel is the number's length. -/
def twosIn : Nat → Nat → Nat
  | 0, _ => 0
  | f + 1, n => if n % 2 = 0 then twosIn f (n / 2) + 1 else 0
def twos (n : Nat) : Nat := twosIn (Nat.log2 n) n
/-- W odd and a with q = W × 2^a (R137), for a finite non-zero dyadic value. -/
def canonical (q : Q) : Int × Int :=
  let k := twos q.num.natAbs
  (q.num / 2 ^ k, (k : Int) - Nat.log2 q.den)
/-- Whether a canonical form fits class 0. -/
def fitsWindow (w a : Int) : Bool :=
  decide (-(2 ^ 95) ≤ w) && decide (w < 2 ^ 95) && decide (-32768 ≤ a) && decide (a ≤ 32767)

/-- The class 1 element of an exact value (R332): W × 2^a is the value rounded towards −∞ to 96 bits. -/
def laEscalated (q : Q) (idx : Nat) : LaElem :=
  if q.isZero then laMake 1 0 idx 0
  else
    let a := q.abs.log2 - 94
    let w := (q.scale2 (-a)).floor
    laMake 1 a idx w

/-- The windows that carry a finite value into park entries (R332): one where its canonical form fits, else its parts of 95 bits. -/
def partWindows (neg : Bool) : Nat → Nat → Int → List (Int × Int)
  | 0, _, _ => []
  | f + 1, m, a =>
    let w : Int := (m % 2 ^ 95 : Nat)
    if m = 0 then [] else (if neg then -w else w, a) :: partWindows neg f (m / 2 ^ 95) (a + 95)
def valueWindows (q : Q) : List (Int × Int) :=
  if q.isZero then []
  else
    let c := canonical q
    if fitsWindow c.1 c.2 then [c] else partWindows (decide (c.1 < 0)) (Nat.log2 c.1.natAbs / 95 + 1) c.1.natAbs c.2
/-- The windows of values in their order: those whose aligned sum fits one window share it. -/
def packWindows : List Q → List (Int × Int)
  | [] => []
  | q :: r =>
    match packWindows r with
    | [] => valueWindows q
    | (w, a) :: ws =>
      let x := q.add ((Q.ofInt w).scale2 a)
      let c := if x.isZero then (0, 0) else canonical x
      if fitsWindow c.1 c.2 then c :: ws else valueWindows q ++ (w, a) :: ws

/-- The approximation interval of a class 1 element (R332). -/
def laInterval (e : LaElem) : Q × Q := ((Q.ofInt (laWin e)).scale2 (laAnch e), (Q.ofInt (laWin e + 1)).scale2 (laAnch e))

/-! ## Contributions (R138) -/

/-- The result of one contribution on the value: the new value, the flags. `neverZero` kinds follow R132. -/
def laAdd (v : LaVal) (c : FVal) : LaVal × FlagSet :=
  match v, c with
  | .nan k, _ => (.nan k, 0)
  | .bad, _ => (.bad, 0)
  | .inf neg, .inf n2 => if neg = n2 then (.inf neg, 0) else (.nan (invalidNan .f64 .rne).code, fNV)
  | .inf _, .nan .. => (.nan (nanPick .f64 [c]).code, 0)
  | .inf neg, _ => (.inf neg, 0)
  | _, .nan .. => (.nan (nanPick .f64 [c]).code, 0)
  | _, .inf neg => (.inf neg, 0)
  | .zero k, .zero neg => (.zero (if k = (if neg then 2 else 1) then k else 0), 0)
  | .zero _, .fin q => (.fin q, 0)
  | .fin q, .zero _ => (.fin q, 0)
  | .fin q, .fin r => let t := q.add r; (if t.isZero then .zero 0 else .fin t, 0)

/-- What contributions make of an element (R138, R332). -/
inductive LaStep where
  /-- nothing but flags: no contribution changes the value -/
  | same (f : FlagSet)
  /-- the engine writes the element -/
  | store (e : LaElem) (f : FlagSet)
  /-- the element is escalated: the windows to be parked, the first of which initialises its record or not -/
  | park (first : Bool) (ws : List (Int × Int)) (f : FlagSet)

/-- The value after contributions in their order, the flags, and whether every finite value on the way has a canonical form that fits. -/
def laFold (v : LaVal) (cs : List FVal) : LaVal × FlagSet × Bool :=
  cs.foldl (fun (a : LaVal × FlagSet × Bool) c =>
    let x := laAdd a.1 c
    let ok : Bool := match x.1 with
      | .fin q => let k := canonical q; fitsWindow k.1 k.2
      | _ => true
    (x.1, a.2.1 ||| x.2, a.2.2 && ok)) (v, 0, true)

/-- Contributions to a value: `stays` says that the element is class 1, or that the value itself does not fit, `prev` are the windows that come
before those of the contributions. -/
def laApply (stays first : Bool) (v : LaVal) (prev : List (Int × Int)) (cs : List FVal) : LaStep :=
  let r := laFold v cs
  match r.1 with
  | .inf n => .store (laInf n) r.2.1
  | .nan k => .store (laNan k) r.2.1
  | .bad => .same r.2.1
  | x =>
    if stays || !r.2.2 then
      match prev ++ packWindows ((cs.filter fun c => !c.isZero).map FVal.q) with
      | [] => if first then .park true [(0, 0)] r.2.1 else .same r.2.1
      | ws => .park first ws r.2.1
    else match x with
      | .fin q => let c := canonical q; .store (laMake 0 c.2 0 c.1) r.2.1
      | .zero k => .store (laZero k) r.2.1
      | _ => .same r.2.1

/-- Whether the element is class 1. -/
def laIsEscalated (e : LaElem) : Bool := laCls e == 1
/-- The contributions of one K-step to an element, `Q.one` standing for the finite value of a class 1 element, which no outcome but a finite one
depends on. A class from 5 to 15 is read as the canonical NaN, with `NV` (R139). -/
def laStep (old : LaElem) (cs : List FVal) : LaStep :=
  if cs.isEmpty then .same 0
  else match laValue old Q.one with
    | .bad => .store (laNan (invalidNan .f64 .rne).code) fNV
    | v => laApply (laIsEscalated old) (!laIsEscalated old) v (if laIsEscalated old || laCls old != 0 then [] else [(laWin old, laAnch old)]) cs

/-! ## Spill records (R20, R334) -/

/-- The size of a spill slot: one record for every C-buffer element of the gang. -/
def spillSlotSize (l : Lpb) : Nat := l.blocks * l.cbuf * 256 * 96
/-- The virtual address of the record of element e of a block. -/
def spillAddr (l : Lpb) (slot blk e : Nat) : Nat := l.spill + slot * spillSlotSize l + (blk * l.cbuf * 256 + e) * 96

/-- The physical address of a virtual one for the device's own accesses. -/
def devicePa (s : State) (asid va : Nat) (k : AccessKind) : Option Nat :=
  match translateBare s asid va k false with
  | .ok pa => some pa
  | .error _ => none

/-- The most blocks that a chain of the exact-sum pool can have. -/
def chainFuel (s : State) : Nat := s.lxUsed.length + 1
/-- The value held in a chain of extension blocks (R334), each an anchor and a 1,920-bit magnitude. -/
def chainValue (s : State) (base : Nat) : Nat → Nat → Q
  | 0, _ => Q.zero
  | fuel + 1, i =>
    if i = 0 then Q.zero
    else
      let a := base + 256 * (i - 1)
      let anch := (BitVec.ofNat 16 (memNat s (a + 8) 2)).toInt
      ((Q.ofInt (memNat s (a + 16) 240)).scale2 anch).add (chainValue s base fuel (memNat s a 8))

/-- The exact value of a spill record; none when its index disagrees (R137). Extension blocks are numbered from 1, 0 ending a chain
(log entry 32). -/
def spillRead (s : State) (gang blk e : Nat) (el : LaElem) : Option Q :=
  let gg := gangAt s gang
  let l := (taskAt s gg.task).lpb
  match devicePa s l.asid (spillAddr l gg.slot blk e) .read with
  | none => none
  | some pa =>
    let idx := memNat s pa 2
    if idx % 4096 ≠ laSpix el || idx / 4096 % 4 ≠ e / 4096 % 4 then none
    else
      let sgn := memNat s (pa + 4) 1
      let m := (Q.ofInt (memNat s (pa + 16) 80)).scale2 (BitVec.ofNat 16 (memNat s (pa + 2) 2)).toInt
      let x := if sgn / 2 % 2 = 1 then m.add (chainValue s s.mgmt.lxbase (chainFuel s) (memNat s (pa + 8) 8)) else m
      some (if sgn % 2 = 1 then x.neg else x)

/-- Frees the extension chain of a record. -/
def freeChain (s : State) : Nat → Nat → State
  | 0, _ => s
  | fuel + 1, i =>
    if i = 0 then s
    else freeChain { s with lxUsed := s.lxUsed.set 0 (i - 1) 0 } fuel (memNat s (s.mgmt.lxbase + 256 * (i - 1)) 8)

/-- The lowest free block of the exact-sum pool, as its index plus 1. -/
def poolBlock (s : State) : Option Nat :=
  ((List.range (min (s.mgmt.lxsize / 256) (s.lxUsed.length + 1))).find? fun i => s.lxUsed.get 0 i == 0).map (· + 1)

/-- A magnitude m × 2^a with its anchor as a record holds it, signed 16 bits: the anchor of the lowest set bit, or 32,767 below it. None where the
lowest set bit lies below every anchor. -/
def anchored (m : Nat) (a : Int) : Option (Nat × Int) :=
  let k := twos m
  let b := min (a + k) 32767
  if b < -32768 then none else some (m / 2 ^ k * 2 ^ (a + k - b).toNat, b)

/-- Writes the magnitude m × 2^a above the record's 640 bits into extension blocks: the first block's number, none when the pool is empty. -/
def writeChain (gang : Nat) (s : State) : Nat → Nat → Int → Option (Nat × State)
  | 0, m, _ => if m = 0 then some (0, s) else none
  | fuel + 1, m, a =>
    if m = 0 then some (0, s)
    else match anchored m a, poolBlock s with
      | some (n, b), some i =>
        let s := { s with lxUsed := s.lxUsed.set 0 (i - 1) (gang + 1) }
        match writeChain gang s fuel (n / 2 ^ 1920) (b + 1920) with
        | none => none
        | some (nx, s) =>
          let p := s.mgmt.lxbase + 256 * (i - 1)
          some (i, memPut s p (bytesOf 8 nx ++ bytesOf 2 (BitVec.ofInt 16 b).toNat ++ bytesOf 6 0 ++ bytesOf 240 (n % 2 ^ 1920)))
      | _, _ => none

/-- Whether a record's chain is in use. -/
def recordChain (s : State) (pa : Nat) : Nat := if memNat s (pa + 4) 1 / 2 % 2 = 1 then memNat s (pa + 8) 8 else 0

/-- Writes the exact value of an escalated element to its record (R334); `fresh` says that no record of the element is in use. None when the
exact-sum pool is empty, or when the value reaches below every anchor (log entry 125). -/
def spillWrite (s : State) (gang blk e : Nat) (fresh : Bool) (q : Q) : Option State :=
  let gg := gangAt s gang
  let l := (taskAt s gg.task).lpb
  match devicePa s l.asid (spillAddr l gg.slot blk e) .write with
  | none => some s
  | some pa =>
    let s := if fresh then s else freeChain s (chainFuel s) (recordChain s pa)
    let c := if q.isZero then (0, 0) else canonical q
    match if q.isZero then some (0, 0) else anchored c.1.natAbs c.2 with
    | none => none
    | some (m, a) =>
      match writeChain gang s (Nat.log2 (m / 2 ^ 640) / 1920 + 2) (m / 2 ^ 640) (a + 640) with
      | none => none
      | some (x, s) =>
        some (memPut s pa
          (bytesOf 2 (e % 2 ^ 14) ++ bytesOf 2 (BitVec.ofInt 16 a).toNat ++ bytesOf 1 ((if c.1 < 0 then 1 else 0) + if x = 0 then 0 else 2)
            ++ bytesOf 3 0 ++ bytesOf 8 x ++ bytesOf 80 (m % 2 ^ 640)))

/-- Frees the pool blocks of an element that stops being class 1 (R137). -/
def spillFree (s : State) (gang blk e : Nat) (old : LaElem) : State :=
  if laCls old ≠ 1 then s
  else
    let gg := gangAt s gang
    let l := (taskAt s gg.task).lpb
    match devicePa s l.asid (spillAddr l gg.slot blk e) .read with
    | none => s
    | some pa => freeChain s (chainFuel s) (recordChain s pa)

/-! ## Reading and writing elements of a block -/

def laAt (s : State) (gang blk e : Nat) : LaElem := (blockAt s gang blk).cbuf.get 0 e
def setLa (s : State) (gang blk e : Nat) (x : LaElem) : State :=
  let b := blockAt s gang blk
  setBlockAt s gang blk { b with cbuf := b.cbuf.set 0 e x }

/-- The value of an element of a block; none when the spill-index check fails, a consumed error (R137, R419). -/
def laRead (s : State) (gang blk e : Nat) : Option LaVal :=
  let el := laAt s gang blk e
  if laCls el = 1 then (spillRead s gang blk e el).map fun q => laValue el q
  else some (laValue el Q.zero)

/-- Writes a value whole: the element stops being class 1. -/
def laWrite (s : State) (gang blk e : Nat) (v : LaVal) : State :=
  let s := spillFree s gang blk e (laAt s gang blk e)
  match v with
  | .fin q => let c := canonical q; setLa s gang blk e (laMake 0 c.2 0 c.1)
  | .zero k => setLa s gang blk e (laZero k)
  | .inf n => setLa s gang blk e (laInf n)
  | .nan k => setLa s gang blk e (laNan k)
  | .bad => s

/-! ## Park entries of kind 2 (R332, R333) -/

/-- A park entry of a block's engine for element e. -/
def elemEntry (s : State) (gang blk : Nat) (w : EngWord) (op2 e : Nat) (first : Bool) (win : Int × Int) (rnd etype nfs di : Nat) : ParkEntry :=
  { fn := w.op, kind := 2, part := 0, slot := 0, lane := 0, rnd := rnd, etype := etype, nfs := nfs, di := di % 32, vd := 0, va := 0, vb := 0,
    stage := .waiting, ptime := 0, opa := 0, opb := 0, gang := gang, blk := blk, grp := engineGrp, flight := w.seq, op2 := op2,
    bslt := (blockAt s gang blk).ctx, eidx := e, first := first, panch := win.2, pwin := win.1 }
/-- The entries of an escalation, in the order of their windows. -/
def windowEntries (s : State) (gang blk : Nat) (w : EngWord) (e : Nat) : Bool → List (Int × Int) → List ParkEntry
  | _, [] => []
  | first, x :: r => elemEntry s gang blk w 0 e first x 0 0 0 0 :: windowEntries s gang blk w e false r

/-- Whether a park entry is a contribution to element e of a block. -/
def ParkEntry.contributes (p : ParkEntry) (gang blk e : Nat) : Bool :=
  p.kind == 2 && p.op2 == 0 && p.gang == gang && p.blk == blk && p.eidx == e
/-- Whether an element is pending: it has contributions that are not applied (R332). -/
def elemPending (s : State) (gang blk e : Nat) : Bool :=
  ((blockAt s gang blk).mat.queue.any fun w => w.toPark.any fun p => p.contributes gang blk e)
    || (coreAt s (coreOf s gang blk)).park.any fun x => x.2.any fun p => p.contributes gang blk e

/-- Whether an element waits for its round-out (R339): the words after an epilogue may start (R321), but they neither read nor write it before. -/
def elemRounding (s : State) (gang blk e : Nat) : Bool :=
  (coreAt s (coreOf s gang blk)).park.any fun x => x.2.any fun p => p.kind == 2 && p.op2 == 1 && p.gang == gang && p.blk == blk && p.eidx == e
/-- Whether an engine word that starts waits for an element. -/
def elemBusy (s : State) (gang blk e : Nat) : Bool := elemPending s gang blk e || elemRounding s gang blk e

/-- The entries of an engine word that are parked. -/
def wordEntries (s : State) (gang blk : Nat) (w : EngWord) : List (Nat × ParkEntry) :=
  (coreAt s (coreOf s gang blk)).park.filterMap fun e => e.2.bind fun p =>
    if p.grp = engineGrp ∧ p.gang = gang ∧ p.blk = blk ∧ p.flight = w.seq then some (e.1, p) else none
/-- Whether an engine word has entries that are not resolved. -/
def entriesLeft (s : State) (gang blk : Nat) (w : EngWord) : Bool := !w.toPark.isEmpty || !(wordEntries s gang blk w).isEmpty

/-- An engine word that may park takes its reservation, when 32 entries are free of reservation (R333). -/
def reserveEntries (s : State) (gang blk : Nat) (w : EngWord) : Option (State × EngWord) :=
  let core := coreOf s gang blk
  if w.resv then some (s, w)
  else if 512 < parkUsed s core + 32 then none
  else
    let c := coreAt s core
    some (setCoreAt s core { c with reserved := c.reserved + 32 }, { w with resv := true, held := 32 })
/-- It gives back the entries that it has not filled. -/
def releaseEntries (s : State) (gang blk : Nat) (w : EngWord) : State × EngWord :=
  let core := coreOf s gang blk
  let c := coreAt s core
  (if w.held = 0 then s else setCoreAt s core { c with reserved := c.reserved - w.held }, { w with resv := false, held := 0 })

/-- The entries to be parked go into the queue: into the reserved ones, then into free unreserved ones while there are any (R333). Those of one
clock take rising numbers (log entry 126). -/
def placeEntries (s : State) (gang blk : Nat) (w : EngWord) : State × EngWord :=
  let core := coreOf s gang blk
  let c := coreAt s core
  let own := (wordEntries s gang blk w).filter fun e => e.2.ptime == s.now
  let low := own.foldl (fun n e => max n (e.1 + 1)) 0
  let at_ := (freeEntries c 512).filter (low ≤ ·)
  let n := min (min w.toPark.length at_.length) (w.held + (512 - parkUsed s core))
  let park := ((at_.zip w.toPark).take n).foldl (fun m e => m.set none e.1 (some { e.2 with ptime := s.now })) c.park
  (setCoreAt s core { c with park := park, reserved := c.reserved - min n w.held }, { w with toPark := w.toPark.drop n, held := w.held - n })

/-- Takes entries of a core's queue away, wherever they stand. -/
def removeEntries (s : State) (core : Nat) (ns : List Nat) : State :=
  let c := coreAt s core
  let own (r : Nat) : Bool := decide (r / 512 = core) && ns.contains (r % 512)
  let s1 := setCoreAt s core { c with park := ns.foldl (fun m n => m.set none n none) c.park }
  { s1 with clusters := s1.clusters.mapVals Cluster.vacant fun k => { k with
      beacon := k.beacon.filter fun r => !own r
      lantern := k.lantern.filter fun r => !own r
      inStage := if k.inStage.any own then none else k.inStage } }

/-- An element that a non-finite contribution turns into class 2, 3 or 4: its pending entries are discarded (R332). -/
def discardPending (s : State) (gang blk e : Nat) : State :=
  let core := coreOf s gang blk
  let ns := (coreAt s core).park.filterMap fun x => x.2.bind fun p => if p.contributes gang blk e then some x.1 else none
  let s1 := if ns.isEmpty then s else removeEntries s core ns
  let b := blockAt s1 gang blk
  setBlockAt s1 gang blk { b with mat := { b.mat with queue := b.mat.queue.map fun w =>
    { w with toPark := w.toPark.filter fun p => !p.contributes gang blk e } } }

/-- What the Beacon unit or the Lantern stage makes of an element's entry (R332): the element rewritten as class 1; none when the record fails its
check; `full` when the exact-sum pool is empty. -/
inductive ApplyOut where
  | ok (s : State)
  | full
  | bad

/-- The exact value of a record with an entry's window applied, or of the window alone where it initialises the record. -/
def applyWindow (s : State) (p : ParkEntry) : ApplyOut :=
  let old := laAt s p.gang p.blk p.eidx
  let x := (Q.ofInt p.pwin).scale2 p.panch
  match if p.first then some Q.zero else spillRead s p.gang p.blk p.eidx old with
  | none => .bad
  | some q =>
    let y := q.add x
    match spillWrite s p.gang p.blk p.eidx (!laIsEscalated old) y with
    | none => .full
    | some s1 => .ok (setLa s1 p.gang p.blk p.eidx (laEscalated y p.eidx))

/-! ## Round-out (R140) -/

/-- D of an element's value. -/
def laRoundOut (f : Fmt) (m : Rnd) (dth : Nat) : LaVal → Rounded
  | .fin q => roundOut f m dth (.fin q)
  | .zero k => roundOut f m dth (.zero (if k = 1 then false else if k = 2 then true else m == .rdn))
  | .inf n => roundOut f m dth (.inf n)
  | .nan c => nanPick f [Fmt.f64.decode c]
  | .bad => invalidNan f m

/-- The value that STC writes exactly (R285), with its flag. -/
def laOfValue (v : FVal) : LaVal × FlagSet :=
  match v with
  | .fin q => (.fin q, 0)
  | .zero n => (.zero (if n then 2 else 1), 0)
  | .inf n => (.inf n, 0)
  | .nan .. => let r := nanPick .f64 [v]; (.nan r.code, r.flags)

end Sys2Proof.Machine
end

