-- ==== Sys2Proof/Machine/Buffer.lean ====
section
/-!
DEFINITION. Typed-buffer words of the groups: LDB, STB, ABADD, ABCAS, LDC and STC (spec/10 R281 to R285).
-/

namespace Sys2Proof.Machine

/-! ## Checks -/

/-- A handle fault of a lane. -/
def handleFault (lane : Nat) : FaultInfo := { FaultInfo.plain 0x0B with lane := lane }

/-- The outcome of the checks of a typed-buffer word (R248, R281). -/
inductive HCheck where
  | ok | wait | flt (f : FaultInfo)

/-- Tests 1 to 6 of R248 with the alignment check after test 3. `bufOk` is test 1. A word that has waited in test 6 (`again`) is tested there
alone, and by test 5 when the wait ends. -/
def checkHandle (again : Bool) (e : HEntry) (g : Engine) (a : HAccess) (bufOk : Bool) (align n : Nat) (ls : List (Nat × Nat)) : HCheck :=
  if again then (if !stateOk e a then .wait else if !swzMatch e a then .flt (FaultInfo.plain 0x0C) else .ok)
  else if !bufOk || !maskOk e g a then .flt (handleFault 0)
  else match ls.find? fun l => !inExt e l.2 n with
    | some l => .flt (handleFault l.1)
    | none =>
      match ls.find? fun l => l.2 % align != 0 with
      | some l => .flt { FaultInfo.plain 0x0D with lane := l.1 }
      | none =>
        if !swzLegal e then .flt (handleFault 0)
        else if !swzMatch e a then .flt (FaultInfo.plain 0x0C)
        else if !stateOk e a then .wait
        else .ok

/-- A group's word waits in test 6. -/
def waitTested (s : State) : Res := .wait (setCurGroup s { curGroup s with tested := true })

/-- The enabled lanes with their handle-relative offsets. -/
def laneOffsets (g : Group) (va : Nat) : List (Nat × Nat) := (lanesOn g).map fun l => (l, (readV g va l).toNat)

/-- A typed-buffer word in flight, which reads or writes handle h (R394). -/
def bufferResult (s : State) (h : Nat) (reads writes : Bool) (ws : List RegWrite) (f : FlagSet) : Res :=
  .ok (noteFlight (launchFlight s ws f .bfc false) s.nextFlight fun x => { x with hnd := some (h, reads, writes) })

/-! ## LDB and STB (R282) -/

/-- LDB: z bytes from an A-buffer or W-buffer handle. -/
def execLdb (v va : BitVec 8) (h : BitVec 6) (s : State) : Out :=
  issue (wordOf s (.ldb v va h))
    (fun s =>
      let et := modeEtype (curGroup s)
      match elemSize et with
      | none => .flt (FaultInfo.plain 0x04)
      | some z =>
        let g := curGroup s
        let b := curBlock s
        let e := handleAt b h.toNat
        let ls := laneOffsets g va.toNat
        match checkHandle g.tested e .groups .read (decide (hBuf e < 2)) z z ls with
        | .flt f => .flt f
        | .wait => waitTested s
        | .ok => bufferResult s h.toNat true false (ls.flatMap fun l => loadWrites et v.toNat l.1 (handleNat b e (hSwz e) l.2 z)) 0) s

/-- The lanes of STB in increasing order (R282). -/
def stbLanes (g : Group) (b : Block) (e : HEntry) (v z : Nat) (wide : Bool) : List (Nat × Nat) → Block
  | [] => b
  | l :: r => stbLanes g (setHandleBytes b e (hSwz e) l.2 (bytesOf z (laneBits g v l.1 wide % 2 ^ (8 * z)))) e v z wide r

/-- STB: the low z bytes into an A-buffer handle; the write records the handle's swizzle (R252). -/
def execStb (v va : BitVec 8) (h : BitVec 6) (s : State) : Out :=
  issue (wordOf s (.stb v va h))
    (fun s =>
      let et := modeEtype (curGroup s)
      match elemSize et with
      | none => .flt (FaultInfo.plain 0x04)
      | some z =>
        let g := curGroup s
        let b := curBlock s
        let e := handleAt b h.toNat
        let ls := laneOffsets g va.toNat
        match checkHandle g.tested e .groups .write (hBuf e == 0) z z ls with
        | .flt f => .flt f
        | .wait => waitTested s
        | .ok =>
          let b := stbLanes g b e v.toNat z (etypeWide et) ls
          let b := if ls.isEmpty then b else setHandle b h.toNat (noteSwz e (hSwz e))
          bufferResult (setCurBlock s b) h.toNat false true [] 0) s

/-! ## ABADD and ABCAS (R283) -/

/-- The lanes of a buffer atomic, in increasing order; a compare that fails writes nothing (R277, R283). -/
def bufAtomicLanes (o : AtomicOp) (et z v h : Nat) (wide : Bool) (g : Group) (e : HEntry) :
    List (Nat × Nat) → List RegWrite → FlagSet → Block → List RegWrite × FlagSet × Block
  | [], ws, f, b => (ws, f, b)
  | l :: r, ws, f, b =>
    let p := atomicOperands (if o = .fadd then .add else o) g v l.1 wide
    let old := handleNat b e (hSwz e) l.2 z
    let x := atomicNew o et (modeRnd g) l.1 old p.1 p.2
    bufAtomicLanes o et z v h wide g e r (if v = 0 then ws else ws ++ loadWrites et v l.1 old) (f ||| x.2)
      (if casFails o old p.2 then b else setHandleBytes (setHandle b h (noteSwz (handleAt b h) (hSwz e))) e (hSwz e) l.2 (bytesOf z x.1))

/-- The shared meaning of the buffer atomics. -/
def bufAtomicWord (i : Instr) (cas : Bool) (v va : BitVec 8) (h : BitVec 6) (s : State) : Out :=
  issue (wordOf s i)
    (fun s =>
      let et := modeEtype (curGroup s)
      let wide := etypeWide et
      let o : AtomicOp := if cas then .cas else if et = 10 then .fadd else .add
      if !o.accepts et then .flt (FaultInfo.plain 0x04)
      else
        let z := if wide then 8 else 4
        let g := curGroup s
        let b := curBlock s
        let e := handleAt b h.toNat
        let ls := laneOffsets g va.toNat
        match checkHandle g.tested e .groups .atomic (hBuf e == 0) z z ls with
        | .flt f => .flt f
        | .wait => waitTested s
        | .ok =>
          let r := bufAtomicLanes o et z v.toNat h.toNat wide g e ls [] 0 b
          bufferResult (setCurBlock s r.2.2) h.toNat true true r.1 r.2.1) s

/-- ABADD: integers, or f32 as AFADD. -/
def execAbadd (v va : BitVec 8) (h : BitVec 6) (s : State) : Out := bufAtomicWord (.abadd v va h) false v va h s
/-- ABCAS: as ACAS. -/
def execAbcas (v va : BitVec 8) (h : BitVec 6) (s : State) : Out := bufAtomicWord (.abcas v va h) true v va h s

/-! ## LDC and STC (R284, R285, R408) -/

/-- The format of LDC and STC: any type from 0x00 to 0x0B, or an nf slot that is valid and not blocked. -/
def accumFmt (t : Task) (g : Group) : Option Fmt :=
  let e := modeEtype g
  if e = 12 then floatFmt t g else etypeFmt e

/-- The stored element index of a handle-relative offset. -/
def laIndex (e : HEntry) (swz o : Nat) : Nat := (hBase e + swizzle swz o) / 16

/-- The block that a handler group's selection names (R182, R408). -/
def selectedBlk (g : Group) : Option Nat := g.sel.map Prod.fst

/-- The writes of a raw element, bits [31:0] into v. -/
def rawElemWrites (v l : Nat) (x : LaElem) : List RegWrite :=
  (List.range 4).map fun k => .v (v + k) l (BitVec.ofNat 32 (bitsOf x (32 * k) 32))
/-- The raw element that v to v + 3 hold in a lane. -/
def rawElemOf (g : Group) (v l : Nat) : LaElem :=
  BitVec.ofNat 128 ((List.range 4).foldl (fun n k => n + (readV g (v + k) l).toNat * 2 ^ (32 * k)) 0)

/-- The checks of a raw LDC or STC (R408): a selection, a C-buffer handle, and test 3 alone. -/
def rawCheck (s : State) (g : Group) (h va : Nat) : Except FaultInfo (Nat × HEntry × List (Nat × Nat)) :=
  match selectedBlk g with
  | none => .error (FaultInfo.plain 0x09)
  | some blk =>
    let e := handleAt (blockAt s s.cur.gang blk) h
    let ls := laneOffsets g va
    if hBuf e ≠ 2 then .error (handleFault 0)
    else match ls.find? fun l => !inExt e l.2 16 with
      | some l => .error (handleFault l.1)
      | none => .ok (blk, e, ls)

/-- Whether the element of some lane is pending, which a read or a write waits for (R332). -/
def lanesPending (s : State) (blk swz : Nat) (e : HEntry) (ls : List (Nat × Nat)) : Bool :=
  ls.any fun l => elemPending s s.cur.gang blk (laIndex e swz l.2)

/-- The lanes of LDC; none when a spill record fails its check (R137). -/
def ldcLanes (s : State) (f : Fmt) (e : HEntry) (v : Nat) (g : Group) : List (Nat × Nat) → Option (List RegWrite × FlagSet)
  | [] => some ([], 0)
  | l :: r =>
    match laRead s s.cur.gang s.cur.blk (laIndex e (hSwz e) l.2), ldcLanes s f e v g r with
    | some x, some rest =>
      let d := laRoundOut f (modeRnd g) l.1 x
      some (laneWrites f v l.1 d.code ++ rest.1, d.flags ||| rest.2)
    | _, _ => none

/-- LDC (R284): round-out of elements; raw in a handler group. -/
def execLdc (v va : BitVec 8) (h : BitVec 6) (s : State) : Out :=
  issue (wordOf s (.ldc v va h))
    (fun s =>
      let g := curGroup s
      if g.handler then
        match rawCheck s g h.toNat va.toNat with
        | .error f => .flt f
        | .ok (blk, e, ls) =>
          if lanesPending s blk 0 e ls then .wait s
          else variableResult s (ls.flatMap fun l => rawElemWrites v.toNat l.1 (laAt s s.cur.gang blk (laIndex e 0 l.2))) 0 .bfc
      else
        match accumFmt (curTask s) g with
        | none => .flt (FaultInfo.plain 0x04)
        | some f =>
          let e := handleAt (curBlock s) h.toNat
          let ls := laneOffsets g va.toNat
          match checkHandle g.tested e .groups .read (hBuf e == 2) 16 16 ls with
          | .flt f => .flt f
          | .wait => waitTested s
          | .ok =>
            if lanesPending s s.cur.blk (hSwz e) e ls then waitTested s
            else match ldcLanes s f e v.toNat g ls with
            | some r => bufferResult s h.toNat true false r.1 r.2
            | none => .halted (consumedElement s (FaultInfo.plain 0x31))) s

/-- The lanes of STC in increasing order. -/
def stcLanes (f : Fmt) (e : HEntry) (v : Nat) (g : Group) : List (Nat × Nat) → FlagSet → State → FlagSet × State
  | [], fl, s => (fl, s)
  | l :: r, fl, s =>
    let x := laOfValue (laneVal g f v l.1)
    stcLanes f e v g r (fl ||| x.2) (laWrite s s.cur.gang s.cur.blk (laIndex e (hSwz e) l.2) x.1)

/-- Raw elements written by a handler group. -/
def stcRaw (gang blk v : Nat) (e : HEntry) (g : Group) : List (Nat × Nat) → State → State
  | [], s => s
  | l :: r, s => stcRaw gang blk v e g r (setLa s gang blk (laIndex e 0 l.2) (rawElemOf g v l.1))

/-- STC (R285): elements written exactly; raw in a handler group. -/
def execStc (v va : BitVec 8) (h : BitVec 6) (s : State) : Out :=
  issue (wordOf s (.stc v va h))
    (fun s =>
      let g := curGroup s
      if g.handler then
        match rawCheck s g h.toNat va.toNat with
        | .error f => .flt f
        | .ok (blk, e, ls) =>
          if lanesPending s blk 0 e ls then .wait s else variableResult (stcRaw s.cur.gang blk v.toNat e g ls s) [] 0 .bfc
      else
        match accumFmt (curTask s) g with
        | none => .flt (FaultInfo.plain 0x04)
        | some f =>
          let e := handleAt (curBlock s) h.toNat
          let ls := laneOffsets g va.toNat
          match checkHandle g.tested e .groups .write (hBuf e == 2) 16 16 ls with
          | .flt f => .flt f
          | .wait => waitTested s
          | .ok =>
            if lanesPending s s.cur.blk (hSwz e) e ls then waitTested s
            else
            let r := stcLanes f e v.toNat g ls 0 s
            let b := curBlock r.2
            let s := if ls.isEmpty then r.2 else setCurBlock r.2 (setHandle b h.toNat (noteSwz (handleAt b h.toNat) (hSwz e)))
            bufferResult s h.toNat false true [] r.1) s

end Sys2Proof.Machine
end

