-- ==== Sys2Proof/Machine/Sides.lean ====
section
/-!
DEFINITION. The Tender's registers and copy records, tensor descriptors, the buffer sides of copy words with their transitions, and the rings of
looping copies (spec/11 R288, R299 to R309, spec/09 R249, R250).
-/

namespace Sys2Proof.Machine

/-! ## Registers and records (R288) -/

/-- t0 reads as 0. -/
def readT (t : Tender) (n : Nat) : W64 := if n = 0 then 0 else t.t.get 0 n
/-- A write to t0 is discarded. -/
def writeT (t : Tender) (n : Nat) (x : W64) : Tender := if n = 0 then t else { t with t := t.t.set 0 n x }
def readD (t : Tender) (n : Nat) : BitVec 256 := t.d.get 0 n

/-- The active copy records, with their numbers. -/
def Tender.active (t : Tender) : List (Nat × CopyRec) := t.recs.filterMap fun e => e.2.map fun r => (e.1, r)
/-- No copy word is in flight. -/
def Tender.quiet (t : Tender) : Bool := t.active.isEmpty

/-! ## Tensor descriptors (R299 to R301) -/

abbrev TDescr := BitVec 256

def dNdim (d : TDescr) : Nat := bitsOf d 242 3
def dDswz (d : TDescr) : Nat := bitsOf d 238 4
def dHnd (d : TDescr) : Nat := bitsOf d 232 6
def dBox (d : TDescr) (i : Nat) : Nat := if i < dNdim d then bitsOf d (192 + 8 * i) 8 + 1 else 1
def dStride (d : TDescr) (i : Nat) : Int := (BitVec.ofNat 32 (bitsOf d (64 + 32 * (i - 1)) 32)).toInt
def dNfs (d : TDescr) : Nat := bitsOf d 57 4
def dEtype (d : TDescr) : Nat := bitsOf d 52 5
def dBase (d : TDescr) : Nat := bitsOf d 0 52

/-- The elements of the box. -/
def dElems (d : TDescr) : Nat := (List.range 5).foldl (fun n i => n * dBox d i) 1

/-- Reserved bits, dimensions or a swizzle that make a descriptor invalid (R301). -/
def descrBad (d : TDescr) : Bool := bitsOf d 245 11 != 0 || bitsOf d 61 3 != 0 || dNdim d == 0 || decide (5 < dNdim d) || decide (4 < dDswz d)

/-- The element format and size; none for an illegal type (R300, R301). -/
def descrType (t : Task) (d : TDescr) : Option (Fmt × Nat) :=
  if dEtype d = 12 then
    let n := nfSlot t (dNfs d)
    if nfSlotOk t (dNfs d) && n.blk == 0 && n.cmp == 0 then some (.nar n, 1) else none
  else match etypeFmt (dEtype d), elemSize (dEtype d) with
    | some f, some z => some (f, z)
    | _, _ => none

/-- Steps 1 of R301's checks in order: the descriptor, then the type. -/
def descrFault (t : Task) (d : TDescr) (shape : Bool) : Option FaultInfo :=
  if descrBad d || shape then some (FaultInfo.plain 0x13)
  else if (descrType t d).isNone then some (FaultInfo.plain 0x04)
  else none
/-- The element size of a checked descriptor. -/
def descrSize (t : Task) (d : TDescr) : Nat := ((descrType t d).map Prod.snd).getD 1
def descrFmt (t : Task) (d : TDescr) : Fmt := ((descrType t d).map Prod.fst).getD .f32
def descrBytes (t : Task) (d : TDescr) : Nat := descrSize t d * dElems d

/-- The index of dimension k of the element with linear index e. -/
def boxIndex (d : TDescr) (e k : Nat) : Nat := e / ((List.range k).foldl (fun n i => n * dBox d i) 1) % dBox d k

/-- An exact sum as an address: a negative one keeps its low bits above 2^64, where it lies in no region, as one of 2^52 or more does (R234,
R296, R300). -/
def exactAddr (a : Int) : Nat := if 0 ≤ a then a.toNat else 2 ^ 64 + (a % 2 ^ 64).toNat

/-- A(e), exactly. -/
def elemAddr (d : TDescr) (z : Nat) (cs : List W64) (e : Nat) : Nat :=
  let at_ (k : Nat) : Int := ((cs[k]?).getD 0).toInt + boxIndex d e k
  exactAddr ((dBase d : Int) + at_ 0 * z + ((List.range (dNdim d - 1)).foldl (fun s k => s + at_ (k + 1) * dStride d (k + 1)) 0))

/-! ## Checks on a buffer side (R303) -/

/-- The first fault of a list of checks. -/
def firstFault (l : List (Option FaultInfo)) : Option FaultInfo := l.findSome? id

def failIf (b : Bool) (code : Nat) : Option FaultInfo := if b then some (FaultInfo.plain code) else none

/-- Step 4 on a buffer side: tests 1 to 3 of R248 for `len` bytes at `off`, then the descriptor's number, where a descriptor names the handle. -/
def sideTests (e : HEntry) (a : HAccess) (dn : Option Nat) (off len : Nat) : Option FaultInfo :=
  firstFault
    [failIf (!decide (hBuf e < 2) || !maskOk e .tender a || !inExt e off len) 0x0B,
     failIf (hDv e == 1 && dn.any fun n => hDesc e != n) 0x0B]
/-- Step 5: the alignment of the offset. -/
def sideAlign (off align : Nat) : Option FaultInfo := failIf (off % align != 0) 0x0D
/-- Step 6: tests 4 and 5. -/
def sideSwizzle (e : HEntry) (a : HAccess) (dswz : Nat) : Option FaultInfo :=
  firstFault [failIf (!swzLegal e) 0x0B, failIf (a == .read && hFv e == 1 && hFswz e != dswz) 0x0C]
/-- Steps 4 to 6 on one buffer side. -/
def bufferFault (e : HEntry) (a : HAccess) (dn off len align dswz : Nat) : Option FaultInfo :=
  firstFault [sideTests e a (some dn) off len, sideAlign off align, sideSwizzle e a dswz]

/-- A buffer side to be checked. -/
structure SideCheck where
  e : HEntry
  acc : HAccess
  dn : Option Nat
  off : Nat
  len : Nat
  align : Nat
  dswz : Nat
/-- Steps 4 to 6 on the sides of a word: each step is made on every side before the next (R303). -/
def sidesFault (l : List SideCheck) : Option FaultInfo :=
  firstFault (l.map (fun x => sideTests x.e x.acc x.dn x.off x.len) ++ l.map (fun x => sideAlign x.off x.align)
    ++ l.map fun x => sideSwizzle x.e x.acc x.dswz)

/-! ## Transitions (R249, R250, R304) -/

/-- Whether a handle has made no transition in this clock: one is applied per clock. -/
def canMove (s : State) (gang blk h : Nat) : Bool := (blockAt s gang blk).moved.get 0 h != s.now + 1
/-- A handle's entry after a transition. -/
def moveHandle (s : State) (gang blk h : Nat) (e : HEntry) : State :=
  let b := blockAt s gang blk
  setBlockAt s gang blk { setHandle b h e with moved := b.moved.set 0 h (s.now + 1) }

def CopySide.acc (x : CopySide) : HAccess := if x.read then .read else .write

/-- Begin transitions and state waits of the sides in order (R304): whether all are ready, how many sides have begun, and the state. -/
def beginSides (gang : Nat) : List CopySide → Nat → Nat → State → Bool × Nat × State
  | [], _, held, s => (true, held, s)
  | x :: r, i, held, s =>
    let e := handleAt (blockAt s gang x.blk) x.h
    if x.beg && decide (held ≤ i) then
      match transition e (if x.read then hsDraining else hsFilling) .tender with
      | some e' => if canMove s gang x.blk x.h then beginSides gang r (i + 1) (i + 1) (moveHandle s gang x.blk x.h e') else (false, held, s)
      | none => (false, held, s)
    else if stateOk e x.acc then beginSides gang r (i + 1) held s
    else (false, held, s)

/-- Test 5 made again when the wait of a side that is read ends (R248). -/
def sidesMatch (s : State) (gang : Nat) (l : List CopySide) : Bool :=
  l.all fun x =>
    let e := handleAt (blockAt s gang x.blk) x.h
    !x.read || hFv e == 0 || hFswz e == x.swz

/-! ## Copy records -/

/-- Whether a copy word of a block writes through a handle of the block `blk` of its gang: a multicast does so as that block's own Tender (R313). -/
def CopyRec.writesHandle (own blk : Nat) (r : CopyRec) (h : Nat) : Bool :=
  if r.op = 0x1E then bitsOf r.desc 232 6 == h && ((r.args[0]?).getD 0).getLsbD blk
  else own == blk && (match r.loop with
    | some l => l.live.any fun j => bitsOf r.desc 232 6 + j.1 % l.ring == h
    | none => (r.op == 0x15 || r.op == 0x18 || r.op == 0x1A || r.op == 0x1C) && bitsOf r.desc 232 6 == h)
/-- Whether a copy word has elements that have not been performed. -/
def CopyRec.moving (r : CopyRec) : Bool := match r.loop with
  | some l => l.live.any fun j => decide (j.2 < r.count)
  | none => decide (r.prog < r.count)
/-- Whether a looping copy has iterations that have not begun. -/
def CopyRec.unbegun (r : CopyRec) : Bool := match r.loop with
  | some l => decide (l.next < l.n)
  | none => false
/-- Whether a Tender write through a handle of a block, of a copy word older than `seq`, has not landed (R250). -/
def writesLeft (s : State) (gang blk h seq : Nat) : Bool :=
  s.blocks.any fun e => e.1 / 32 == gang && e.2.tnd.active.any fun x =>
    decide (x.2.seq < seq) && x.2.moving && x.2.writesHandle (e.1 % 32) blk h

/-! ## Rings (R307) -/

/-- Whether a handle belongs to an active ring (R307). -/
def inRing (t : Tender) (h : Nat) : Bool :=
  t.active.any fun e => match e.2.loop with
    | some l => decide (bitsOf e.2.desc 232 6 ≤ h) && decide (h < bitsOf e.2.desc 232 6 + l.ring)
    | none => false

/-- The active looping copies. -/
def loopsOf (t : Tender) : List (Nat × CopyRec × LoopRec) := t.active.filterMap fun e => e.2.loop.map fun l => (e.1, e.2, l)

/-- Whether an earlier looping copy of the same ring has iterations to begin. -/
def ringBehind (t : Tender) (r : CopyRec) (l : LoopRec) : Bool :=
  (loopsOf t).any fun e => dHnd e.2.1.desc == dHnd r.desc && e.2.2.ring == l.ring && decide (e.2.1.seq < r.seq) && decide (e.2.2.next < e.2.2.n)

/-- Replaces a copy record of a block's Tender. -/
def putRec (s : State) (gang blk k : Nat) (r : Option CopyRec) : State :=
  let b := blockAt s gang blk
  setBlockAt s gang blk { b with tnd := { b.tnd with recs := b.tnd.recs.set none k r } }

/-- What the next iteration of a looping copy meets: nothing to do yet, a fault, or its begin transition. -/
inductive IterStart where
  | wait
  | flt (f : FaultInfo)
  | go (e : HEntry)

/-- The next iteration's checks, and its stage's begin transition once that is FREE. -/
def iterStart (s : State) (gang blk : Nat) (r : CopyRec) (l : LoopRec) : IterStart :=
  let b := blockAt s gang blk
  let h := dHnd r.desc + l.next % l.ring
  if l.n ≤ l.next || ringBehind b.tnd r l then .wait
  else match bufferFault (handleAt b h) .write r.dn 0 (descrBytes (taskAt s (gangAt s gang).task) r.desc) 1 (dDswz r.desc) with
    | some f => .flt { f with prog := l.next }
    | none =>
      match transition (handleAt b h) hsFilling .tender with
      | some e => if canMove s gang blk h then .go e else .wait
      | none => .wait
/-- The next iteration begins. -/
def beginIteration (s : State) (gang blk k : Nat) (r : CopyRec) (l : LoopRec) (e : HEntry) : State :=
  putRec (moveHandle s gang blk (dHnd r.desc + l.next % l.ring) e) gang blk k
    (some { r with loop := some { l with next := l.next + 1, live := l.live ++ [(l.next, 0)] } })

/-- Each looping copy begins its next iteration if that can begin. -/
def beginEach (s : State) (gang blk : Nat) : State :=
  (blockAt s gang blk).tnd.active.foldl (fun s e => match e.2.loop with
    | some l => if e.2.stuck then s else match iterStart s gang blk e.2 l with
        | .go h => beginIteration s gang blk e.1 e.2 l h
        | _ => s
    | none => s) s
/-- The transitions of a Tender that is being stopped whose conditions are met already (R318 step 5): those that its waiting word still has to
begin with, and the next iterations of its looping copies, until no stage is FREE: a ring has at most 8. -/
def beginAtStop (s : State) (gang blk : Nat) : State :=
  let t := (blockAt s gang blk).tnd
  let x := beginSides gang t.sides 0 t.held s
  let s1 := setBlockAt x.2.2 gang blk { blockAt x.2.2 gang blk with tnd := { (blockAt x.2.2 gang blk).tnd with held := x.2.1 } }
  (List.range 8).foldl (fun s _ => beginEach s gang blk) s1

end Sys2Proof.Machine
end

