-- ==== Sys2Proof/Machine/Stop.lean ====
section
/-!
DEFINITION. Barriers (R26, R390), event posts (R253, R254), interrupts (R443), notifies of the task queues (R42, R43), and the stop and release of
a gang's streams (R318, R349, R413, R416, R424).
-/

namespace Sys2Proof.Machine

/-! ## Barriers: 0 to 15 are b0 to b15 of the block, 16 to 19 are g0 to g3 of the gang -/

/-- The participant count (R26). -/
def barNeed (l : Lpb) (b : Nat) : Nat := if b < 16 then (l.barcnt[b]?).getD 0 else (l.gbarcnt[b - 16]?).getD 0
def setBarAt (s : State) (gang blk b : Nat) (x : Bar) : State :=
  if b < 16 then
    let k := blockAt s gang blk
    setBlockAt s gang blk { k with bars := k.bars.set Bar.zero b x }
  else
    let k := gangAt s gang
    setGangAt s gang { k with bars := k.bars.set Bar.zero (b - 16) x }

/-- Forgets every agent's arrival at a barrier whose phase completes. -/
def clearArrivals (s : State) (gang blk b : Nat) : State :=
  let inGroup (k : Nat) : Bool := k / 2048 == gang && (16 ≤ b || k % 2048 / 64 == blk)
  let inBlock (k : Nat) : Bool := k / 32 == gang && (16 ≤ b || k % 32 == blk)
  { s with
    groups := s.groups.map fun e => if inGroup e.1 then (e.1, { e.2 with arr := e.2.arr.erase b }) else e
    blocks := s.blocks.map fun e =>
      if inBlock e.1 then (e.1, { e.2 with tnd := { e.2.tnd with arr := e.2.tnd.arr.erase b }, mat := { e.2.mat with arr := e.2.mat.arr.erase b } })
      else e }

/-- One arrival is counted; the last one completes the phase (R390). -/
def countArrival (s : State) (gang blk b : Nat) : State :=
  let x := barAt s gang blk b
  if barNeed (taskAt s (gangAt s gang).task).lpb b ≤ x.count + 1 then
    clearArrivals (setBarAt s gang blk b { x with count := 0, gen := x.gen + 1 }) gang blk b
  else setBarAt s gang blk b { x with count := x.count + 1 }

/-- What a barrier word of an agent does next. -/
inductive BarStep where
  | done | wait | fault
deriving DecidableEq, Repr

/-- What an agent knows of its arrivals. -/
structure Arrivals where
  arr : SMap Nat
  ever : SMap Nat
  wait : Option (Nat × Nat × Bool)

/-- A barrier word (R391, R392, R315, R344): mode 0 arrives and waits, 1 arrives, 2 waits. It gives what happens next, whether an arrival
is counted, and the agent's arrivals before a completing count clears them. -/
def barrierWord (s : State) (gang blk b mode : Nat) (a : Arrivals) : BarStep × Bool × Arrivals :=
  let x := barAt s gang blk b
  if barNeed (taskAt s (gangAt s gang).task).lpb b = 0 then (.fault, false, a)
  else match a.wait with
    | some (_, p, _) => if p < x.rel then (.done, false, { a with wait := none }) else (.wait, false, a)
    | none =>
      let has := a.arr.get 0 b == 1
      match mode with
      | 1 =>
        if has then (.fault, false, a)
        else (.done, true, { a with arr := a.arr.set 0 b 1, ever := a.ever.set 0 b 1 })
      | 0 =>
        if has then (.wait, false, { a with wait := some (b, x.gen, true) })
        else (.wait, true, { arr := a.arr.set 0 b 1, ever := a.ever.set 0 b 1, wait := some (b, x.gen, true) })
      | _ =>
        if has then (.wait, false, { a with wait := some (b, x.gen, true) })
        else if a.ever.get 0 b = 0 then (.wait, false, { a with wait := some (b, x.gen, false) })
        else (.done, false, a)

/-- Whether a wait's phase is complete. -/
def phaseOver (s : State) (gang blk : Nat) : Option (Nat × Nat × Bool) → Bool
  | some (b, p, _) => decide (p < (barAt s gang blk b).gen)
  | none => false

/-! ## Task queues (R40 to R44) -/

/-- A task queue's descriptor as the dispatcher reads it. -/
structure QueueDesc where
  base : Nat
  head : Nat
  tail : Nat
  log : Nat
  ctl : Nat
  rsv : Nat

def queueDescAt (s : State) (q : Nat) : Nat := s.mgmt.tqbase + 64 * q
def readQueue (s : State) (q : Nat) : QueueDesc :=
  let a := queueDescAt s q
  { base := memNat s a 8, head := memNat s (a + 8) 4, tail := memNat s (a + 12) 4, log := memNat s (a + 16) 1, ctl := memNat s (a + 17) 1,
    rsv := memNat s (a + 18) 46 }
/-- Tasks waiting in a queue, modulo 2^32. -/
def QueueDesc.held (d : QueueDesc) : Nat := (d.tail + 2 ^ 32 - d.head) % 2 ^ 32
def QueueDesc.full (d : QueueDesc) : Bool := d.held == 2 ^ d.log
def QueueDesc.enabled (d : QueueDesc) : Bool := d.ctl % 2 == 1
def QueueDesc.devl (d : QueueDesc) : Bool := d.ctl / 2 % 2 == 1
/-- The errors of R42, for a queue that holds `held` tasks. -/
def QueueDesc.badFor (d : QueueDesc) (held : Nat) : Bool :=
  decide (2 ^ d.log < held) || decide (12 < d.log) || d.base % 256 != 0 || d.ctl / 4 != 0 || d.rsv != 0
def QueueDesc.bad (d : QueueDesc) : Bool := d.badFor d.held
def QueueDesc.slot (d : QueueDesc) (n : Nat) : Nat := d.base + 256 * (n % 2 ^ d.log)

/-- A queue in error is disabled, and the host is told. -/
def disableQueue (s : State) (q : Nat) (d : QueueDesc) : State :=
  sendIntr (memPut s (queueDescAt s q + 17) (bytesOf 1 (d.ctl - d.ctl % 2))) 4 q 0

def queueView (s : State) (q : Nat) : QueueView := s.queues.get QueueView.vacant q
def setQueueView (s : State) (q : Nat) (v : QueueView) : State := { s with queues := s.queues.set QueueView.vacant q v }

/-- A notify (R43): the dispatcher reads the tail; every task it now covers waits from this clock on, unless an earlier notify found it. -/
def notifyQueue (s : State) (q : Nat) : State :=
  let d := readQueue s q
  if d.bad then disableQueue s q d
  else
    let v := queueView s q
    let counts := (List.range d.held).map fun k => (d.head + k) % 2 ^ 32
    setQueueView s q
      { v with seen := counts.map fun n => (n, ((v.seen.find? fun e => e.1 == n).map Prod.snd).getD s.now) }

/-! ## Event records (R253, R254) -/

/-- A record: SRC, KIND, TAG, the posting block, the code index and the data. -/
def eventRec (src kind tag blk : Nat) (cidx : W32) (data : Nat) : BitVec 128 :=
  BitVec.ofNat 128 (src * 2 ^ 124 + kind * 2 ^ 120 + tag % 2 ^ 16 * 2 ^ 104 + blk % 16 * 2 ^ 100 + cidx.toNat * 2 ^ 64 + data % 2 ^ 64)

/-- Posts a record into a block's queue, or leaves it with its poster's number until there is room. -/
def postEvent (s : State) (gang blk poster : Nat) (r : BitVec 128) : State :=
  let b := blockAt s gang blk
  if b.events.length < 64 && b.posts.isEmpty then setBlockAt s gang blk { b with events := b.events ++ [r] }
  else setBlockAt s gang blk { b with posts := b.posts ++ [(poster, r)] }
/-- Whether a poster's record still waits for room. -/
def postWaits (s : State) (gang blk poster : Nat) : Bool := (blockAt s gang blk).posts.any fun e => e.1 == poster

/-- The numbers of the posters: the Tender's and the sequencer's words, suspension records, and copy records and engine words of a
block. -/
def posterTender : Nat := 1
def posterMatrix : Nat := 2
def posterSuspend : Nat := 3
def posterCopy (blk k : Nat) : Nat := 64 + blk * 16 + k
def posterEngine (blk : Nat) : Nat := 32 + blk

/-! ## Stopping and releasing streams -/

/-- A running group stops before its next unissued word (R413, R424 step 1). A word whose wait is already over has been performed; a call
whose record is not yet in the ring is withdrawn. `save` discards the watch (R399). -/
def stopGroup (save : Bool) (s : State) (gang blk grp : Nat) : State :=
  let g := landAt s.now (groupAt s gang blk grp)
  let w := s.waiters.find? fun w => w.gang == gang && w.blk == blk && w.grp == grp
  let s := dropWaiters s fun w => w.gang == gang && w.blk == blk && w.grp == grp
  let s := { s with steals := s.steals.filter fun x => !(x.gang == gang && x.blk == blk && x.grp == grp) }
  let s := { s with calls := if g.called then s.calls.filter fun c => !(c.gang == gang && c.strm == 0 && c.blk == blk && c.grp == grp && c.num.isNone)
                             else s.calls }
  let g := if save then { g with watch := none } else g
  match g.st with
  | .running =>
    let g1 := if phaseOver s gang blk g.barWait then retire g s.now 0 else g
    let g2 := match w with
      | some ⟨_, _, _, _, n, some ws⟩ => retire (applyWrites g1 ((ws.mapIdx fun i x => RegWrite.s (n + i) x) ++ [RegWrite.s (n + 16) 0])) s.now 0
      | _ => g1
    setGroupAt s gang blk grp { g2 with st := .savePoint, resume := g2.pc, barWait := none, tested := false, called := false }
  | _ => setGroupAt s gang blk grp g

/-- A Tender stops (R318): a waiting word whose wait is over has been performed, and transitions whose conditions are met are made. It keeps the
state that it held, SUSPENDED among them (R289). -/
def stopTender (s0 : State) (gang blk : Nat) : State :=
  let st0 := (blockAt s0 gang blk).tnd.st
  if st0 = .running ∨ st0 = .waiting ∨ st0 = .suspended then
    let s := beginAtStop s0 gang blk
    let b := blockAt s gang blk
    let t := b.tnd
    let t1 := if phaseOver s gang blk t.barWait then { t with tpc := t.tpc + 1, st := if st0 = .suspended then .suspended else .running } else t
    setBlockAt s gang blk { b with tnd := { t1 with st := .stopped, back := t1.st, barWait := none } }
  else s0

/-- Whether an engine word uses the A slot, or the B slot. -/
def EngWord.usesA (w : EngWord) : Bool := w.op == 0x0B || w.op == 0x0C || w.op == 0x0F
def EngWord.usesB (w : EngWord) : Bool := w.op == 0x0B || w.op == 0x0C
/-- Whether it releases its A handle, or its B handle (R329). -/
def EngWord.ra (w : EngWord) : Bool := w.usesB && w.x % 2 == 1
def EngWord.rb (w : EngWord) : Bool := w.usesB && w.x / 2 % 2 == 1
/-- Whether an engine word in progress stands between two patches, or two KV blocks, where a stop leaves it; an epilogue in progress has no such
point (R349). -/
def EngWord.atRest (w : EngWord) : Bool :=
  w.stage != 3 || ((w.op == 0x0B || w.op == 0x0C || w.op == 0x0F) && w.kstep == 0 && w.toPark.isEmpty)
/-- An engine word at rest while its stream is stopped: it gives its reservation back, and one that waits for its budget order runs again from its
start. -/
def restWord (s : State) (gang blk : Nat) (w : EngWord) : State × EngWord :=
  if w.atRest then
    let r := releaseEntries s gang blk w
    (r.1, if w.stage = 2 then { r.2 with stage := 0 } else r.2)
  else (s, w)
/-- Those of a queue. -/
def restWords (gang blk : Nat) : List EngWord → State → List EngWord × State
  | [], s => ([], s)
  | w :: r, s =>
    let x := restWord s gang blk w
    let y := restWords gang blk r x.1
    (x.2 :: y.1, y.2)

/-- A matrix sequencer stops (R349). -/
def stopMatrix (s : State) (gang blk : Nat) : State :=
  let b := blockAt s gang blk
  let m := b.mat
  match m.st with
  | .running | .waiting | .suspended =>
    let m1 := if phaseOver s gang blk m.barWait then { m with mpc := m.mpc + 1, st := if m.st = .suspended then .suspended else .running } else m
    let q := restWords gang blk m1.queue s
    setBlockAt q.2 gang blk { b with mat := { m1 with st := .stopped, back := m1.st, barWait := none, queue := q.1 } }
  | _ => s

/-- The keys of a gang's groups, its handler group left out, and of its blocks. -/
def groupIds (s : State) (gang : Nat) : List (Nat × Nat) := (gangGroups s gang).map fun e => (e.1, e.2.1)
def blockIds (s : State) (gang : Nat) : List Nat := (s.blocks.filter fun e => e.1 / 32 == gang).map fun e => e.1 % 32

/-- Steps 1 and 2 of R424 without the dumps. -/
def stopStreams (save : Bool) (s : State) (gang : Nat) : State :=
  let s := (groupIds s gang).foldl (fun s e => stopGroup save s gang e.1 e.2) s
  (blockIds s gang).foldl (fun s b => stopMatrix (stopTender s gang b) gang b) s

/-- The fault of a stream that goes on with a restored record that failed its check (R429): a KIND 2 record is posted and the report routed (R317,
R348). `strm`: 1 a Tender, 2 a matrix sequencer. -/
def checkFault (s : State) (gang blk strm : Nat) (idx : W32) (code : Nat) : State :=
  routeRecord (postEvent s gang blk posterSuspend (eventRec strm 2 0 blk idx (code * 2 ^ 56))) gang strm blk 0 code
    (faultWords s gang strm blk 0 idx 0 (FaultInfo.plain code))
/-- A block's Tender and sequencer go on, unless they hold such a record. -/
def checkRecords (s : State) (gang blk : Nat) : State :=
  let b := blockAt s gang blk
  let s1 := if b.tnd.bad ∧ (b.tnd.st = .running ∨ b.tnd.st = .waiting) then
      checkFault (setBlockAt s gang blk { b with tnd := { b.tnd with st := .suspended, bad := false } }) gang blk 1 b.tnd.tpc 0x14
    else s
  let b1 := blockAt s1 gang blk
  if b1.mat.bad ∧ (b1.mat.st = .running ∨ b1.mat.st = .waiting) then
    checkFault (setBlockAt s1 gang blk { b1 with mat := { b1.mat with st := .suspended, bad := false } }) gang blk 2 b1.mat.mpc 0x15
  else s1
/-- A stopped Tender or sequencer goes back to the state it held (R289). -/
def resumeEngines (s : State) (gang blk : Nat) : State :=
  let b := blockAt s gang blk
  let t := if b.tnd.st = .stopped then { b.tnd with st := b.tnd.back } else b.tnd
  let m := if b.mat.st = .stopped then { b.mat with st := b.mat.back } else b.mat
  checkRecords (setBlockAt s gang blk { b with tnd := t, mat := m }) gang blk

/-- Releases every stream that an all-stop stopped (R416). -/
def releaseStreams (s : State) (gang : Nat) : State :=
  let s := (groupIds s gang).foldl (fun s e =>
    if (groupAt s gang e.1 e.2).st = .savePoint then releaseGroup s gang e.1 e.2 else s) s
  let s := (blockIds s gang).foldl (fun s b => resumeEngines s gang b) s
  setGangAt s gang { gangAt s gang with allStop := false }

end Sys2Proof.Machine
end

