-- ==== Sys2Proof/Machine/Sync.lean ====
section
/-!
DEFINITION. Synchronisation words of the groups: barriers, handles, events, counters, device queues, watches, LAUNCH, SIGNAL, DEAL, TKICK, CKPT
and the clock words (spec/14 R390 to R405, spec/02 R44, R55 to R57).
-/

namespace Sys2Proof.Machine

/-! ## Barriers (R391, R392) -/

def groupArrivals (g : Group) : Arrivals := ⟨g.arr, g.ever, g.barWait⟩
def setArrivals (g : Group) (a : Arrivals) : Group := { g with arr := a.arr, ever := a.ever, barWait := a.wait }

/-- The shared meaning of the barrier words; a word that already waits needs no turn (R59). -/
def barrierGroup (i : Instr) (b mode : Nat) (s : State) : Out :=
  issue (wordOf s i)
    (fun s =>
      let g := curGroup s
      let r := barrierWord s s.cur.gang s.cur.blk b mode (groupArrivals g)
      let s := setCurGroup s (setArrivals g r.2.2)
      let s := if r.2.1 then countArrival s s.cur.gang s.cur.blk b else s
      match r.1 with
      | .fault => .flt (FaultInfo.plain 0x0A)
      | .wait => .wait s
      | .done => .ok s) s

/-- BAR: arrives and waits, or only waits when its arrival stands. -/
def execBar (b : BitVec 4) (s : State) : Out := barrierGroup (.bar b) b.toNat 0 s
/-- BARA: arrives. -/
def execBara (b : BitVec 4) (s : State) : Out := barrierGroup (.bara b) b.toNat 1 s
/-- BARW: waits. -/
def execBarw (b : BitVec 4) (s : State) : Out := barrierGroup (.barw b) b.toNat 2 s
/-- GBAR (R392). -/
def execGbar (g mode : BitVec 2) (s : State) : Out := barrierGroup (.gbar g mode) (16 + g.toNat) mode.toNat s

/-! ## Handles (R393, R394) -/

/-- HWAIT. -/
def execHwait (h : BitVec 6) (st : BitVec 2) (ph : BitVec 1) (s : State) : Out :=
  issue (wordOf s (.hwait h st ph))
    (fun s =>
      let e := handleAt (curBlock s) h.toNat
      if hState e = st.toNat ∧ hPhase e = ph.toNat then .ok s else .wait s) s

/-- Whether a typed-buffer word of the group that accesses a handle is in flight whose landing a transition waits for: its writes to FULL, its reads to
FREE and DRAINING (R394). -/
def handleBusy (g : Group) (h st : Nat) : Bool :=
  g.flights.any fun f => match f.hnd with
    | some (n, reads, writes) => n == h && (if st = hsFull then writes else st != hsFilling && reads)
    | none => false
/-- HSET: one transition with the groups as the engine (R250, R394). -/
def execHset (h : BitVec 6) (st : BitVec 2) (s : State) : Out :=
  issue (wordOf s (.hset h st))
    (fun s =>
      if handleBusy (curGroup s) h.toNat st.toNat || !canMove s s.cur.gang s.cur.blk h.toNat then .wait s
      else match transition (handleAt (curBlock s) h.toNat) st.toNat .groups with
        | none => .flt (FaultInfo.plain 0x0B)
        | some e => .ok (moveHandle s s.cur.gang s.cur.blk h.toNat e)) s

/-! ## WAIT and EVPOP (R395, R396) -/

/-- WAIT. -/
def execWait (vmc bfc sfc : BitVec 6) (s : State) : Out :=
  issue (wordOf s (.wait vmc bfc sfc))
    (fun s =>
      let g := curGroup s
      if g.vmc ≤ vmc.toNat ∧ g.bfc ≤ bfc.toNat ∧ g.sfc ≤ sfc.toNat then .ok s else .wait s) s

/-- The writes of k words from s[n]. -/
def sWrites (n : Nat) (ws : List W32) : List RegWrite := ws.mapIdx fun j x => .s (n + j) x

/-- Whether a group still stands at the EVPOP that it waits at. -/
def popWaits (s : State) (e : PopWait) : Bool :=
  (groupAt s s.cur.gang s.cur.blk e.grp).st == .running && (groupAt s s.cur.gang s.cur.blk e.grp).lclk == e.lclk
/-- Issue order: by the clock, then by partition, then by slot (R395). -/
def popBefore (s : State) (a b : PopWait) : Bool :=
  let place (e : PopWait) : Nat := partOf s s.cur.gang s.cur.blk e.grp * 8 + slotOf s s.cur.gang s.cur.blk e.grp
  decide (a.at_ < b.at_ ∨ (a.at_ = b.at_ ∧ place a < place b))
/-- The waiting EVPOPs of the block in focus, the group in focus among them. -/
def popQueue (s : State) : List PopWait :=
  let l := (curBlock s).pops.filter (popWaits s)
  if l.any fun e => e.grp == s.cur.grp then l
  else
    let me : PopWait := ⟨s.now, s.cur.grp, (curGroup s).lclk⟩
    l.filter (fun e => !popBefore s me e) ++ me :: l.filter (popBefore s me)
/-- Whether the group in focus is served now: it is the first, and none was served in this clock. -/
def popTurn (s : State) : Bool := (popQueue s).head?.any (fun e => e.grp == s.cur.grp) && (curBlock s).popped != s.now + 1

/-- EVPOP: the oldest record, one word of the block a clock, in issue order; or zeros when polling an empty queue. -/
def execEvpop (sd : BitVec 9) (poll : Bool) (s : State) : Out :=
  issue (wordOf s (.evpop sd poll))
    (fun s =>
      let b := curBlock s
      match b.events with
      | r :: rest =>
        if popTurn s then
          variableResult (setCurBlock s { b with events := rest, pops := (popQueue s).tail, popped := s.now + 1 })
            (sWrites sd.toNat ((List.range 4).map fun k => BitVec.ofNat 32 (bitsOf r (32 * k) 32))) 0 .none
        else .wait (setCurBlock s { b with pops := popQueue s })
      | [] =>
        if poll then variableResult s (sWrites sd.toNat [0, 0, 0, 0]) 0 .none
        else .wait (setCurBlock s { b with pops := popQueue s })) s

/-! ## Checked single accesses -/

/-- The checks of one access of n bytes in the order of R269, lane 0 standing for it. -/
def checkOne (s : State) (cls : AccessClass) (k : AccessKind) (hostBad : Bool) (va n align : Nat) : Except FaultInfo (LaneAccess × State) :=
  let g := curGroup s
  match alignFault cls align [(0, va)] with
  | some f => .error f
  | none =>
    match lanesAllowed s cls n [(0, va)] with
    | some f => .error f
    | none =>
      match translateLanes (curCore s) (curLpb s).asid k g.handler hostBad cls [(0, va)] [] s with
      | .ok (a :: _, s2) => .ok (a, s2)
      | .ok ([], s2) => .ok (⟨0, va, 0, false⟩, s2)
      | .error f => .error f

/-! ## Device queues (R397, R398) -/

/-- A device queue's descriptor. -/
structure DevQueue where
  base : Nat
  head : Nat
  tail : Nat
  log : Nat
  esz : Nat
  mode : Nat
  rsv : Nat

def readDevQueue (s : State) (pa : Nat) : DevQueue :=
  { base := memNat s pa 8, head := memNat s (pa + 8) 4, tail := memNat s (pa + 12) 4, log := memNat s (pa + 16) 1,
    esz := memNat s (pa + 17) 1, mode := memNat s (pa + 18) 1, rsv := memNat s (pa + 19) 1 + memNat s (pa + 24) 40 }
def DevQueue.words (d : DevQueue) : Nat := d.esz % 16 + 1
def DevQueue.held (d : DevQueue) : Nat := (d.tail + 2 ^ 32 - d.head) % 2 ^ 32
def DevQueue.slot (d : DevQueue) (n : Nat) : Nat := d.base + 64 * (n % 2 ^ d.log)
def DevQueue.handoff (d : DevQueue) : Bool := d.mode % 2 == 0
def DevQueue.invalid (d : DevQueue) : Bool :=
  d.esz / 16 != 0 || d.mode / 2 != 0 || d.rsv != 0 || decide (20 < d.log) || d.base % 64 != 0
    || decide (2 ^ 48 < d.base + 64 * 2 ^ (min d.log 20)) || decide (2 ^ (min d.log 20) < d.held)

/-- The slice of a physical address (R263). -/
def sliceOf (pa : Nat) : Nat := pa / 128 % 48

/-- QPUSH at the queue engine: the status, and the state after. -/
def queuePush (s : State) (pa : Nat) (ws : List W32) : Nat × State :=
  let d := readDevQueue s pa
  let entry := ws.take d.words
  if d.invalid then (3, s)
  else match s.waiters.find? fun w => w.desc == pa && w.got.isNone with
    | some w =>
      if d.handoff then
        (0, { lowerWait s pa with waiters := s.waiters.map fun x => if x = w then { x with got := some entry } else x })
      else if d.held = 2 ^ d.log then (2, s)
      else (0, memWriteNat (memWrite s (d.slot d.tail) (entry.flatMap fun x => bytesOf 4 x.toNat)) (pa + 12) 4 (d.tail + 1))
    | none =>
      if d.held = 2 ^ d.log then (2, s)
      else (0, memWriteNat (memWrite s (d.slot d.tail) (entry.flatMap fun x => bytesOf 4 x.toNat)) (pa + 12) 4 (d.tail + 1))

/-- QPOP at the queue engine: the entry and status, or none when the group joins the waiter list with the
first register of its word. -/
def queuePop (s : State) (pa reg : Nat) : Option (List W32 × Nat) × State :=
  let d := readDevQueue s pa
  if d.invalid then (some ([], 3), s)
  else if d.held ≠ 0 then
    (some ((List.range d.words).map fun k => BitVec.ofNat 32 (memNat s (d.slot d.head + 4 * k) 4), 0),
      memWriteNat s (pa + 8) 4 (d.head + 1))
  else if d.handoff && decide ((s.waiters.filter fun w => sliceOf w.desc == sliceOf pa && w.got.isNone).length < 1024) then
    (none, { memWriteNat s (pa + 0x14) 4 (memNat s (pa + 0x14) 4 + 1) with
               waiters := s.waiters ++ [⟨pa, s.cur.gang, s.cur.blk, s.cur.grp, reg, none⟩] })
  else (some ([], 1), s)

/-- QPUSH (R398): a release at device scope, then the operation. -/
def execQpush (sd sa : BitVec 9) (s : State) : Out :=
  issue (wordOf s (.qpush sd sa))
    (fun s =>
      let g := curGroup s
      if (curLpb s).repro then .flt (FaultInfo.plain 0x11)
      else if acquireHeld s true then .wait s
      else
        match checkOne s .device .write true (readPair g sa.toNat).toNat 64 64 with
        | .error f => .flt f
        | .ok (a, s2) =>
          if poisoned s2 a.pa then .halted (consumedError s2 (accessFault 0x31 .device 0 a.va)) else
          let r := queuePush (releaseAt s2 4) a.pa ((List.range 16).map fun k => readS g (sd.toNat + k))
          variableResult (closeWindow r.2 s.cur.gang) [.s (sd.toNat + 16) (BitVec.ofNat 32 r.1)] 0 .none) s

/-- The waiter record of the group in focus. -/
def ownWaiter (s : State) : Option Waiter := s.waiters.find? fun w => w.gang == s.cur.gang && w.blk == s.cur.blk && w.grp == s.cur.grp

/-- Whether a QPOP reads a poisoned line (R74): the descriptor's, or that of the entry which it takes. -/
def popPoisoned (s : State) (pa : Nat) : Bool :=
  let d := readDevQueue s pa
  poisoned s pa || (!d.invalid && d.held != 0 && anyPoisoned s (d.slot d.head) (4 * d.words))

/-- The result of a QPOP, whose flight locks s[sd] to s[sd + 16]. -/
def popResult (s : State) (sd : Nat) (ws : List W32) (st : W32) : Res :=
  .ok (noteFlight (launchFlight s (sWrites sd ws ++ [.s (sd + 16) st]) 0 .none false) s.nextFlight fun f =>
    { f with lockS := (List.range 17).map (sd + ·) })

/-- QPOP (R398). A group on a waiter list waits for its delivery. -/
def execQpop (sd sa : BitVec 9) (s : State) : Out :=
  issue (wordOf s (.qpop sd sa))
    (fun s =>
      let g := curGroup s
      if (curLpb s).repro then .flt (FaultInfo.plain 0x11)
      else
        match ownWaiter s with
        | some w =>
          match w.got with
          | some ws =>
            popResult { s with waiters := s.waiters.filter fun x => x != w } sd.toNat ws 0
          | none => .wait s
        | none =>
          if acquireHeld s true then .wait s
          else match checkOne s .device .write true (readPair g sa.toNat).toNat 64 64 with
          | .error f => .flt f
          | .ok (a, s2) =>
            if popPoisoned s2 a.pa then .halted (consumedError s2 (accessFault 0x31 .device 0 a.va)) else
            let r := queuePop (closeWindow s2 s.cur.gang) a.pa sd.toNat
            match r.1 with
            | some (ws, st) => popResult r.2 sd.toNat ws (BitVec.ofNat 32 st)
            | none => .wait r.2) s

/-! ## Watches (R399) -/

/-- MWATCH: arms the watch on the line. -/
def execMwatch (sa : BitVec 9) (s : State) : Out :=
  issue (wordOf s (.mwatch sa))
    (fun s =>
      let va := (readPair (curGroup s) sa.toNat).toNat
      if (curLpb s).repro then .flt (FaultInfo.plain 0x11)
      else if acquireHeld s true then .wait s
      else
        match checkOne s .device .read true (va - va % 128) 128 1 with
        | .error f => .flt f
        | .ok (a, s2) => .ok (setCurGroup s2 { curGroup s2 with watch := some (lineOf a.pa, false) })) s

/-- MWAIT: returns at once with no watch armed, else when a write to the line has been seen. -/
def execMwait (s : State) : Out :=
  issue (wordOf s .mwait)
    (fun s =>
      let g := curGroup s
      if (curLpb s).repro then .flt (FaultInfo.plain 0x11)
      else match g.watch with
        | some (_, false) => .wait s
        | _ => .ok (setCurGroup s { g with watch := none })) s

/-! ## LAUNCH and SIGNAL (R400, R401) -/

/-- Bytes of host memory for the group's word, line by line: the bytes once they have all come, and the state. -/
def hostFetch (s : State) (pa lines : Nat) : Option (List Byte) × State :=
  let mine := (groupHostWaits s).filter fun a => a.kind == 5
  if mine.isEmpty then
    (none, (List.range lines).foldl (fun s k =>
      hostRequest s 0xA0 128 [] { groupHostAcc s 5 ⟨0, 0, pa + 128 * k, true⟩ 0 0 128 with flight := 0 }) s)
  else if mine.all fun a => a.got.isSome then
    (some (mine.flatMap fun a => a.got.getD []),
      { s with hostAccs := s.hostAccs.filter fun a =>
          !(a.kind == 5 && a.strm == 0 && a.gang == s.cur.gang && a.blk == s.cur.blk && a.grp == s.cur.grp) })
  else (none, s)

/-- The queue engine's enqueue of an LPB (R44, R400): its result, and the state after. -/
def enqueueLpb (s : State) (q : Nat) (lpb : List Byte) : Nat × State :=
  let d := readQueue s q
  if !d.enabled || !d.devl then (2, s)
  else if d.full then (1, s)
  else
    let s := memWrite s (d.slot d.tail) lpb
    let s := memWriteNat s (queueDescAt s q + 12) 4 (d.tail + 1)
    (0, notifyQueue s q)

/-- LAUNCH. -/
def execLaunch (sd sa : BitVec 9) (s : State) : Out :=
  issue (wordOf s (.launch sd sa))
    (fun s =>
      let g := curGroup s
      let q := (readS g sd.toNat).toNat
      let finish (s : State) (x : Nat × State) : Res := variableResult (closeWindow x.2 s.cur.gang) [.s sd.toNat (BitVec.ofNat 32 x.1)] 0 .none
      match if acquireHeld s true then .ok none else (checkOne s .device .read false (readPair g sa.toNat).toNat 256 256).map some with
      | .error f => .flt f
      | .ok none => .wait s
      | .ok (some (a, s2)) =>
        let s3 := closeWindow (releaseAt s2 4) s.cur.gang
        if 64 ≤ q then finish s3 (3, s3)
        else if a.host then
          match hostFetch s3 a.pa 2 with
          | (some bs, s4) => finish s4 (enqueueLpb s4 q bs)
          | (none, s4) => .wait s4
        else if anyPoisoned s3 a.pa 256 then .halted (consumedError s3 (accessFault 0x31 .device 0 a.va))
        else finish s3 (enqueueLpb s3 q ((List.range 256).map fun k => memByte s3 (a.pa + k)))) s

/-- SIGNAL: a release at system scope, then the interrupt. -/
def execSignal (sd sa : BitVec 9) (s : State) : Out :=
  issue (wordOf s (.signal sd sa))
    (fun s =>
      let g := curGroup s
      let v := (readS g sd.toNat).toNat
      if 64 ≤ v then .flt (FaultInfo.plain 0x02)
      else if releaseHeld s 5 then .wait s
      else .ok (sendIntr (closeWindow (releaseAt s 5) s.cur.gang) 0 v (readPair g sa.toNat).toNat)) s

/-! ## DEAL (R55 to R57, R402) -/

/-- Records in a list of chunks. -/
def chunkRecords (l : List (Nat × Nat)) : Nat := l.foldl (fun n c => n + c.2) 0

/-- The cores that hold a block of a task (R55). -/
def coresOfTask (s : State) (task : Nat) : Nat :=
  ((s.blocks.filter fun e => e.2.used && (gangAt s (e.1 / 32)).task == task).map fun e => e.2.core).eraseDups.length

/-- Cuts up to n chunks from the front of the central range: JMIN records each in a reproducible card (R32, R57). -/
def cutChunks (l : Lpb) (cores : Nat) : Nat → Nat → List (Nat × Nat) × Nat
  | 0, next => ([], next)
  | n + 1, next =>
    let rem := l.jcount - next
    if rem = 0 then ([], next)
    else
      let a := max cores 1
      let len := min rem (if l.repro then l.jmin else max l.jmin ((rem + 2 * a - 1) / (2 * a)))
      let r := cutChunks l cores n (next + len)
      ((next, len) :: r.1, r.2)

/-- Refills a cluster's local queue that holds fewer than 2 chunks up to 4. -/
def refillLocal (s : State) (task cl : Nat) : State :=
  let t := taskAt s task
  let q := t.locals.get [] cl
  if 2 ≤ q.length then s
  else
    let r := cutChunks t.lpb (coresOfTask s task) (4 - q.length) t.dealNext
    setTaskAt s task { t with dealNext := r.2, locals := t.locals.set [] cl (q ++ r.1) }

/-- The victim of a steal: the local queue with the most records, ties to the lower cluster (R57). -/
def victimOf (locals : SMap (List (Nat × Nat))) : Option (Nat × List (Nat × Nat)) :=
  locals.foldl (fun b e =>
    match b with
    | none => if e.2.isEmpty then none else some e
    | some x => if chunkRecords x.2 < chunkRecords e.2 then some e else b) none

/-- Steals the last ceil(q ÷ 2) chunks of the victim into an empty local queue. DESIGN CHOICE (log entry 138): they keep the victim's order, so that the
earliest of them is the thief's next chunk. -/
def stealLocal (s : State) (task cl : Nat) : State :=
  let t := taskAt s task
  if !(t.locals.get [] cl).isEmpty then s
  else match victimOf t.locals with
    | none => s
    | some (v, q) =>
      let keep := q.length - (q.length + 1) / 2
      setTaskAt s task { t with locals := (t.locals.set [] v (q.take keep)).set [] cl (q.drop keep) }

/-- The order in which steals are served: by the clock of the request, then by logical clock, then by cluster (R57, log entry 131). -/
def stealBefore (a b : Steal) : Bool := decide (a.at_ < b.at_ ∨ (a.at_ = b.at_ ∧ (a.lclk < b.lclk ∨ (a.lclk = b.lclk ∧ a.cl < b.cl))))
/-- The group's own request. -/
def ownSteal (s : State) : Option Steal := s.steals.find? fun x => x.gang == s.cur.gang && x.blk == s.cur.blk && x.grp == s.cur.grp
/-- Whether a request is served now: it was made in an earlier clock, no request of its card comes before it, and the victim has served none in this
clock. -/
def stealServed (s : State) (victim : Nat) (x : Steal) : Bool :=
  decide (x.at_ < s.now) && (s.steals.all fun y => y.task != x.task || !stealBefore y x) && (taskAt s x.task).stolen.get 0 victim != s.now + 1

/-- Takes the head chunk of a cluster's queue: the chunk, (0, 0) where there is none. -/
def takeChunk (s : State) (task cl : Nat) : (Nat × Nat) × State :=
  let t := taskAt s task
  match t.locals.get [] cl with
  | [] => ((0, 0), s)
  | c :: r => (c, refillLocal (setTaskAt s task { t with locals := t.locals.set [] cl r }) task cl)

/-- A DEAL request of a cluster: none while it waits for a steal; else the chunk, (0, 0) when no records remain. DESIGN CHOICE (log entry 108): a
cluster's local queue of a card is first filled at the cluster's first DEAL, before it takes or steals a chunk. -/
def dealChunk (s0 : State) (task cl : Nat) : Option (Nat × Nat) × State :=
  let s := refillLocal s0 task cl
  let t := taskAt s task
  let own (x : Steal) : Bool := x.gang == s.cur.gang && x.blk == s.cur.blk && x.grp == s.cur.grp
  let done (s : State) : Option (Nat × Nat) × State :=
    let r := takeChunk { s with steals := s.steals.filter fun x => !own x } task cl
    (some r.1, r.2)
  if !(t.locals.get [] cl).isEmpty then done s
  else match victimOf t.locals, ownSteal s with
    | none, _ => done s
    | some _, none =>
      (none, { s with steals := s.steals ++ [⟨task, s.cur.gang, s.cur.blk, s.cur.grp, cl, (curGroup s).lclk.toNat, s.now⟩] })
    | some (v, _), some x =>
      if stealServed s v x then
        let s1 := stealLocal s task cl
        done (setTaskAt s1 task { taskAt s1 task with stolen := t.stolen.set 0 v (s.now + 1) })
      else (none, s)

/-- DEAL. -/
def execDeal (sd : BitVec 9) (s : State) : Out :=
  issue (wordOf s (.deal sd))
    (fun s =>
      if !(curLpb s).job then .flt (FaultInfo.plain 0x02)
      else
        match dealChunk s (curGang s).task (curGang s).cluster with
        | (some c, s1) => variableResult s1 (sWrites sd.toNat [BitVec.ofNat 32 c.1, BitVec.ofNat 32 c.2]) 0 .none
        | (none, s1) => .wait s1) s

/-! ## TKICK, CKPT and the clock words (R403 to R405) -/

/-- TKICK. -/
def execTkick (sa : BitVec 9) (s : State) : Out :=
  issue (wordOf s (.tkick sa))
    (fun s =>
      let b := curBlock s
      match b.tnd.st with
      | .idle => .flt (FaultInfo.plain 0x02)
      | .ended => .ok (setCurBlock s { b with tnd := { b.tnd with tpc := readS (curGroup s) sa.toNat, st := .running, tflags := 0 } })
      | _ => .wait s) s

/-- CKPT: commits the gang store buffer. -/
def execCkpt (s : State) : Out :=
  issue (wordOf s .ckpt) (fun s => .ok (commitGang s s.cur.gang)) s

/-- CLOCK. -/
def execClock (sd : BitVec 9) (s : State) : Out :=
  issue (wordOf s (.clock sd))
    (fun s => fixedResult s 2 (scalarWrites sd.toNat true (curGroup s).lclk.toNat) 0) s

/-- CLKSYNC: waits until the group is the least of its gang, in every task. -/
def execClksync (s : State) : Out :=
  issue (wordOf s .clksync) (fun s => if leastGroup s then .ok s else .wait s) s

end Sys2Proof.Machine
end

