-- ==== Sys2Proof/Machine/Kv.lean ====
section
/-!
DEFINITION. KV space: the descriptor, the map, the block array, lookups and map operations, and the groups' KV words (spec/13 R350 to R370).
-/

namespace Sys2Proof.Machine

/-! ## Faults (R363) -/

/-- What a KV operation can meet, with the cause and address of a page fault. -/
structure KvFault where
  code : Nat
  cause : Nat := 0
  va : Nat := 0
deriving DecidableEq, Repr

def kvDescFault : KvFault := { code := 0x1A }
def kvRangeFault : KvFault := { code := 0x1B }
def kvMissFault : KvFault := { code := 0x1C }
def kvCowFault : KvFault := { code := 0x1D }
def kvOverflowFault : KvFault := { code := 0x1E }

/-- The record of a KV fault: class 5 for a read, 6 for a write; key, position, head and K or V (R412). -/
def kvInfo (f : KvFault) (write : Bool) (lane key pos head kv : Nat) : FaultInfo :=
  { FaultInfo.plain f.code with cause := f.cause, va := f.va, fclass := if write then 6 else 5, lane := lane, key := key, pos := pos,
                                head := head % 256 + kv % 2 * 256 }

/-- Translation for the walker and the KV data paths, which no region filter checks (R360). -/
def kvPa (s : State) (asid va : Nat) (write : Bool) : Except KvFault Nat :=
  match translateBare s asid va (if write then .write else .read) false with
  | .ok pa => .ok pa
  | .error c => .error { code := 0x10, cause := c.code, va := va }

/-- A poisoned line that is read is a consumed error: the reader's gang is killed (R419). -/
def kvPoison : KvFault := { code := 0x31 }
/-- Translation of n bytes that are read. -/
def kvReadPa (s : State) (asid va n : Nat) (write : Bool) : Except KvFault Nat :=
  match kvPa s asid va write with
  | .error f => .error f
  | .ok pa => if anyPoisoned s pa n then .error kvPoison else .ok pa

/-! ## The descriptor (R351, R352) -/

/-- A KV-space descriptor, with its physical address and the address space it was reached in. -/
structure KvDesc where
  pa : Nat
  asid : Nat
  map : Nat
  nbkt : Nat
  novf : Nat
  bda : Nat
  pool : Nat
  nblk : Nat
  layers : Nat
  heads : Nat
  tb : Nat
  dim : Nat
  kfmt : Nat
  nfd : W32
  freq : Nat
  hkey : Nat
  free : Nat
  nfree : Nat
  ofree : Nat

/-- Reads and checks the descriptor at a virtual address; `nfdt` gives the task's slots, which the narrow descriptor may name. -/
def kvDesc (s : State) (t : Task) (va : Nat) : Except KvFault KvDesc :=
  if va % 128 ≠ 0 then .error kvDescFault
  else match kvReadPa s t.lpb.asid va 128 false with
    | .error f => .error f
    | .ok pa =>
      let f (o n : Nat) : Nat := memNat s (pa + o) n
      let ktb := f 0x27 1
      let nfd : W32 := BitVec.ofNat 32 (f 0x2C 4)
      let nf := NFmt.ofBits nfd []
      let d : KvDesc :=
        { pa := pa, asid := t.lpb.asid, map := f 0 8, nbkt := f 8 4, novf := f 0x0C 4, bda := f 0x10 8, pool := f 0x18 8, nblk := f 0x20 4,
          layers := f 0x24 2, heads := f 0x26 1 + 1, tb := 16 * 2 ^ (ktb % 4), dim := f 0x28 2, kfmt := f 0x2A 1, nfd := nfd,
          freq := f 0x30 8, hkey := f 0x38 8, free := f 0x40 4, nfree := f 0x44 4, ofree := f 0x48 4 }
      let bad := ktb / 4 != 0 || f 0x2B 1 != 0 || f 0x4C 52 != 0
        || d.nbkt == 0 || decide (2 ^ 24 < d.nbkt) || decide (2 ^ 24 < d.novf) || d.nblk == 0 || decide (2 ^ 31 ≤ d.nblk)
        || d.layers == 0 || decide (1024 < d.layers) || d.dim % 8 != 0 || d.dim == 0 || decide (512 < d.dim) || decide (d.novf < d.ofree)
        || d.map % 256 != 0 || d.bda % 16 != 0 || d.pool % 256 != 0 || decide (3 ≤ d.kfmt)
        || (d.kfmt == 2 && (!nfdOk (nfdAt t) (tableAt t) nfd || nf.blk != 0 || nf.cmp != 0 || nf.outl != 0))
        || (d.free != 0xFFFFFFFF && decide (d.nblk ≤ d.free))
      if bad then .error kvDescFault else .ok d

/-- The element format of a space, and its width in bits. -/
def KvDesc.fmt (d : KvDesc) : Fmt :=
  match d.kfmt with
  | 0 => .bf16
  | 1 => .f16
  | _ => .nar (NFmt.ofBits d.nfd [])
def KvDesc.width (d : KvDesc) : Nat := d.fmt.width
/-- Row bytes, rows of the block, the block size (R353). -/
def KvDesc.rb (d : KvDesc) : Nat := d.dim * d.width / 8
def KvDesc.row (d : KvDesc) (kv head t : Nat) : Nat := (kv * d.heads + head) * d.tb + t
def KvDesc.sb (d : KvDesc) : Nat := (2 * d.heads * d.tb * (d.rb + 1) + 255) / 256 * 256
/-- The virtual addresses of a row and of its scale code in a block. -/
def KvDesc.rowVa (d : KvDesc) (blk r : Nat) : Nat := d.pool + blk * d.sb + r * d.rb
def KvDesc.scaleVa (d : KvDesc) (blk r : Nat) : Nat := d.pool + blk * d.sb + 2 * d.heads * d.tb * d.rb + r

/-- key64 of a token (R350). -/
def KvDesc.keyOf (d : KvDesc) (seq layer pos : Nat) : Nat := seq * 2 ^ 32 + layer * 2 ^ 22 + pos / d.tb
/-- Whether a key is in range. -/
def KvDesc.keyOk (d : KvDesc) (key : Nat) : Bool := decide (key % 2 ^ 22 < 2 ^ 26 / d.tb) && decide (key / 2 ^ 22 % 1024 < d.layers)

/-! ## The map (R355 to R357) -/

/-- One entry of a bucket, with its physical address. -/
structure MapEntry where
  pa : Nat
  key : Nat
  blk : Nat
  st : Nat
deriving DecidableEq, Repr

/-- The eight entries of bucket b. -/
def readBucket (s : State) (d : KvDesc) (b : Nat) (write : Bool) : Except KvFault (List MapEntry) :=
  match kvReadPa s d.asid (d.map + 256 * b) 256 write with
  | .error f => .error f
  | .ok pa => .ok ((List.range 8).map fun i =>
      let a := pa + 32 * i
      { pa := a, key := memNat s a 8, blk := memNat s (a + 8) 4, st := memNat s (a + 12) 4 % 4 })

/-- The buckets of a chain, at most 4 of them linked; corruption of the links is found on the way (R356). -/
def readChain (s : State) (d : KvDesc) (write : Bool) : Nat → Nat → Except KvFault (List (List MapEntry))
  | fuel, b =>
    match readBucket s d b write with
    | .error f => .error f
    | .ok es =>
      let last := (es[7]?).getD ⟨0, 0, 0, 0⟩
      if (es.any fun e => e.st == 3 || (e.st == 1 && decide (d.nblk ≤ e.blk))) || ((es.take 7).any fun e => e.st == 2) then .error kvDescFault
      else if last.st = 2 then
        if d.novf ≤ last.blk then .error kvDescFault
        else match fuel with
          | 0 => .error kvDescFault
          | n + 1 => match readChain s d write n (d.nbkt + last.blk) with
            | .error f => .error f
            | .ok r => .ok (es :: r)
      else .ok [es]

/-- The home bucket of a key (R356). -/
def KvDesc.home (d : KvDesc) (key : Nat) : Nat := (spar (BitVec.ofNat 64 d.hkey) (BitVec.ofNat 64 key)).toNat % d.nbkt

/-- A chain and the entry that maps the key; two mappings are corruption. -/
def findKey (s : State) (d : KvDesc) (key : Nat) (write : Bool) : Except KvFault (List (List MapEntry) × Option MapEntry) :=
  match readChain s d write 4 (d.home key) with
  | .error f => .error f
  | .ok ch =>
    match ch.flatten.filter fun e => e.st == 1 && e.key == key with
    | [] => .ok (ch, none)
    | [e] => .ok (ch, some e)
    | _ => .error kvDescFault

/-! ## The block array and the free list (R358, R359) -/

/-- A block descriptor. -/
structure BlkDesc where
  pa : Nat
  ref : Nat
  fill : Nat
  flg : Nat
  next : Nat

def readBlk (s : State) (d : KvDesc) (k : Nat) (write : Bool) : Except KvFault BlkDesc :=
  match kvReadPa s d.asid (d.bda + 16 * k) 16 write with
  | .error f => .error f
  | .ok pa => .ok { pa := pa, ref := memNat s pa 4, fill := memNat s (pa + 4) 2, flg := memNat s (pa + 6) 1, next := memNat s (pa + 8) 4 }

/-- Invalidates KV TLB entries in every cluster (R361). -/
def kvInvalidate (s : State) (f : KvEntry → Bool) : State :=
  { s with clusters := s.clusters.mapVals Cluster.vacant fun c => { c with kvtlb := c.kvtlb.filter fun e => !f e } }

/-- Sets REF with SHARED kept to REF > 1, and invalidates the block's entries. -/
def setRef (s : State) (d : KvDesc) (k : Nat) (b : BlkDesc) (ref : Nat) : State :=
  let flg := b.flg - b.flg / 4 % 2 * 4 + (if 1 < ref then 4 else 0)
  kvInvalidate (memWriteNat (memWriteNat s b.pa 4 ref) (b.pa + 6) 1 flg) fun e => e.desc == d.pa && e.blk == k

/-- Adds one map entry to a block's count. -/
def refUp (s : State) (d : KvDesc) (k : Nat) : Except KvFault State :=
  match readBlk s d k true with
  | .error f => .error f
  | .ok b => .ok (setRef s d k b (b.ref + 1))

/-- Takes one map entry from a block's count; at 0 an unpinned block is freed. It says whether it was. -/
def refDown (s : State) (d : KvDesc) (k : Nat) : Except KvFault (Bool × State) :=
  match readBlk s d k true with
  | .error f => .error f
  | .ok b =>
    let s1 := setRef s d k b (b.ref - 1)
    if b.ref - 1 = 0 ∧ b.flg / 2 % 2 = 0 then
      let free := memNat s1 (d.pa + 0x40) 4
      let s2 := memWriteNat (memWriteNat (memWriteNat s1 (b.pa + 4) 2 0) (b.pa + 6) 1 1) (b.pa + 8) 4 free
      .ok (true, memWriteNat (memWriteNat s2 (d.pa + 0x40) 4 k) (d.pa + 0x44) 4 (memNat s1 (d.pa + 0x44) 4 + 1))
    else .ok (false, s1)

/-- Takes the block at the head of the free list; none when the list is empty. -/
def allocBlk (s : State) (d : KvDesc) : Except KvFault (Option Nat × State) :=
  let k := memNat s (d.pa + 0x40) 4
  if k = 0xFFFFFFFF then .ok (none, s)
  else if d.nblk ≤ k then .error kvDescFault
  else match readBlk s d k true with
    | .error f => .error f
    | .ok b =>
      let s1 := memWriteNat (memWriteNat s (d.pa + 0x40) 4 b.next) (d.pa + 0x44) 4 (memNat s (d.pa + 0x44) 4 + 2 ^ 32 - 1)
      .ok (some k, memWriteNat (memWriteNat (memWriteNat s1 b.pa 4 0) (b.pa + 4) 2 0) (b.pa + 6) 1 0)

/-! ## Insertion and removal (R357) -/

/-- Writes a mapping into an entry. -/
def putMapping (s : State) (pa key blk : Nat) : State := memWriteNat (memWriteNat (memWriteNat s pa 8 key) (pa + 8) 4 blk) (pa + 12) 4 1

/-- Where a new mapping goes: an empty entry, or a new overflow bucket; none on overflow. -/
inductive MapRoom where
  | entry (pa : Nat)
  | grow (last : MapEntry) (j : Nat)
  | none
deriving DecidableEq, Repr

def mapRoom (s : State) (d : KvDesc) (ch : List (List MapEntry)) : MapRoom :=
  match ch.flatten.find? fun e => e.st == 0 with
  | some e => .entry e.pa
  | none =>
    let j := memNat s (d.pa + 0x48) 4
    if 5 ≤ ch.length || decide (d.novf ≤ j) then .none
    else .grow (((ch.getLast?.getD [])[7]?).getD ⟨0, 0, 0, 0⟩) j

/-- Inserts key → k. A remap moves a count from the old block to the new; one to the same block changes nothing. -/
def kvInsert (s : State) (d : KvDesc) (key k : Nat) : Except KvFault State :=
  match findKey s d key true with
  | .error f => .error f
  | .ok (_, some e) =>
    if e.blk = k then .ok s
    else match refDown s d e.blk with
      | .error f => .error f
      | .ok (_, s1) => match refUp (memWriteNat s1 (e.pa + 8) 4 k) d k with
        | .error f => .error f
        | .ok s2 => .ok (kvInvalidate s2 fun x => x.desc == d.pa && x.key == key)
  | .ok (ch, none) =>
    let done (s : State) : Except KvFault State :=
      match refUp s d k with
      | .error f => .error f
      | .ok s2 => .ok (kvInvalidate s2 fun x => x.desc == d.pa && x.key == key)
    match mapRoom s d ch with
    | .entry pa => done (putMapping s pa key k)
    | .none => .error kvOverflowFault
    | .grow last j =>
      match kvPa s d.asid (d.map + 256 * (d.nbkt + j)) true with
      | .error f => .error f
      | .ok pa =>
        let s1 := memWriteNat (memWrite s pa (bytesOf 256 0)) (d.pa + 0x48) 4 (j + 1)
        -- entry 7 of the last bucket holds a mapping here: every entry is taken
        let s2 := memWrite s1 pa ((List.range 32).map fun i => memByte s1 (last.pa + i))
        let s3 := memWrite s2 last.pa (bytesOf 8 0 ++ bytesOf 4 j ++ bytesOf 4 2 ++ bytesOf 16 0)
        done (putMapping s3 (pa + 32) key k)

/-- Removes a key: whether its block was freed; an unmapped key is skipped. -/
def kvRemove (s : State) (d : KvDesc) (key : Nat) : Except KvFault (Bool × State) :=
  match findKey s d key true with
  | .error f => .error f
  | .ok (_, none) => .ok (false, s)
  | .ok (_, some e) =>
    match refDown (memWriteNat s (e.pa + 12) 4 0) d e.blk with
    | .error f => .error f
    | .ok (freed, s1) => .ok (freed, kvInvalidate s1 fun x => x.desc == d.pa && x.key == key)

/-! ## Lookups through the KV TLB (R360) -/

/-- The block of a key and whether it is shared; a mapped result fills the cluster's KV TLB. -/
def kvLookup (s : State) (cl : Nat) (d : KvDesc) (key : Nat) : Except KvFault (Option (Nat × Bool) × State) :=
  let c := clusterAt s cl
  match c.kvtlb.find? fun e => e.desc == d.pa && e.key == key with
  | some e => .ok (some (e.blk, e.shared), s)
  | none =>
    match findKey s d key false with
    | .error f => .error f
    | .ok (_, none) => .ok (none, s)
    | .ok (_, some e) =>
      match readBlk s d e.blk false with
      | .error f => .error f
      | .ok b =>
        let sh := decide (1 < b.ref)
        .ok (some (e.blk, sh), setClusterAt s cl { c with kvtlb := (⟨d.pa, key, e.blk, sh⟩ :: c.kvtlb).take 1024 })

/-- The block of a token for a read or a write: an unmapped key is a miss, a write to a shared block copy-on-write (R363). -/
def kvBlock (s : State) (cl : Nat) (d : KvDesc) (key : Nat) (write : Bool) : Except KvFault (Nat × State) :=
  match kvLookup s cl d key with
  | .error f => .error f
  | .ok (none, _) => .error kvMissFault
  | .ok (some (k, sh), s2) =>
    if !write then .ok (k, s2)
    else if sh then .error kvCowFault
    -- the write raises FILL: its page fault is the word's (R359, R360)
    else (readBlk s2 d k true).map fun _ => (k, s2)

/-! ## Data -/

/-- The physical addresses of bytes at a virtual address of the pool, each translated; the first fault. -/
def kvPas (s : State) (asid : Nat) (write : Bool) : Nat → Nat → Except KvFault (List Nat)
  | _, 0 => .ok []
  | va, n + 1 =>
    match kvPa s asid va write, kvPas s asid write (va + 1) n with
    | .ok pa, .ok r => .ok (pa :: r)
    | .error f, _ => .error f
    | _, .error f => .error f
/-- The bytes at a virtual address of the pool. -/
def kvBytes (s : State) (asid va n : Nat) : Except KvFault (List Byte) :=
  match kvPas s asid false va n with
  | .error f => .error f
  | .ok ps => if ps.any (poisoned s) then .error kvPoison else .ok (ps.map (memByte s))
/-- Whether n bytes at an address may be written; the first fault. -/
def kvWritable (s : State) (asid va n : Nat) : Except KvFault Unit := (kvPas s asid true va n).map fun _ => ()
/-- Writes bytes at physical addresses; a KV data write wakes no watch (R399). -/
def putBytes (s : State) (ps : List Nat) (bs : List Byte) : State := (ps.zip bs).foldl (fun s e => memPut s e.1 [e.2]) s
/-- Writes bytes at a virtual address of the pool. -/
def kvPut (s : State) (asid va : Nat) (bs : List Byte) : State :=
  match kvPas s asid true va bs.length with
  | .ok ps => putBytes s ps bs
  | .error _ => s

/-- The address of a block's FILL, and its rise to n. -/
def fillAt (s : State) (d : KvDesc) (k : Nat) : Option Nat :=
  match kvPa s d.asid (d.bda + 16 * k) true with
  | .ok pa => some (pa + 4)
  | .error _ => none
def raiseFill (s : State) (pa n : Nat) : State := if memNat s pa 2 < n then memPut s pa (bytesOf 2 n) else s
/-- FILL rises to t + 1 on a write to token index t (R359). -/
def kvFill (s : State) (d : KvDesc) (k t : Nat) : State :=
  match fillAt s d k with
  | some pa => raiseFill s pa (t + 1)
  | none => s

/-- A cell of a row: its first byte's address, its first bit there and its width; element d is the scale code (R350, R364). -/
def KvDesc.cell (d : KvDesc) (blk r e : Nat) : Nat × Nat × Nat :=
  if e < d.dim then (d.rowVa blk r + e * d.width / 8, e * d.width % 8, d.width) else (d.scaleVa blk r, 0, 8)
/-- The bytes a cell touches. -/
def cellBytes (c : Nat × Nat × Nat) : Nat := (c.2.1 + c.2.2 + 7) / 8
/-- A cell's value, and its write, which touches only its own bits (R362). -/
def KvAcc.read (a : KvAcc) (s : State) : Nat := natOf (a.pas.map (memByte s)) / 2 ^ a.bit % 2 ^ a.width
def KvAcc.write (a : KvAcc) (x : Nat) (s : State) : State :=
  let n := natOf (a.pas.map (memByte s))
  putBytes s a.pas (bytesOf a.pas.length (n - n / 2 ^ a.bit % 2 ^ a.width * 2 ^ a.bit + x % 2 ^ a.width * 2 ^ a.bit))

/-! ## LDKV and STKV (R364) -/

/-- The KV address of a lane. -/
structure KvLane where
  lane : Nat
  pos : Nat
  elem : Nat
deriving DecidableEq, Repr

/-- The registers of an address: sequence, layer, head, K or V, and whether the unused bits are 0. -/
structure KvSel where
  seq : Nat
  layer : Nat
  head : Nat
  kv : Nat
  clean : Bool

def kvSel (seq w : W32) : KvSel :=
  { seq := seq.toNat, layer := w.toNat % 1024, head := w.toNat / 1024 % 256, kv := w.toNat / 2 ^ 18 % 2, clean := w.toNat / 2 ^ 19 == 0 }

def kvLanes (g : Group) (va : Nat) : List KvLane := (lanesOn g).map fun l => ⟨l, (readV g va l).toNat, (readV g (va + 1) l).toNat⟩

/-- Whether a lane's address breaks R350. -/
def kvLaneBad (d : KvDesc) (q : KvSel) (l : KvLane) : Bool :=
  !q.clean || decide (d.layers ≤ q.layer) || decide (d.heads ≤ q.head) || decide (2 ^ 26 ≤ l.pos) || decide (d.dim < l.elem)

/-- Translates the lanes in order: their accesses. `reg` is the vector register of the word, whose values a write takes. -/
def kvTranslateLanes (d : KvDesc) (q : KvSel) (cl : Nat) (write : Bool) (g : Group) (reg : Nat) :
    List KvLane → State → Except (KvLane × KvFault) (List KvAcc × State)
  | [], s => .ok ([], s)
  | l :: r, s =>
    match kvBlock s cl d (d.keyOf q.seq q.layer l.pos) write with
    | .error f => .error (l, f)
    | .ok (k, s2) =>
      let t := l.pos % d.tb
      let c := d.cell k (d.row q.kv q.head t) l.elem
      match kvPas s2 d.asid write c.1 (cellBytes c) with
      | .error f => .error (l, f)
      | .ok ps =>
        let a : KvAcc := { lane := l.lane, reg := reg, pas := ps, bit := c.2.1, width := c.2.2, space := d.pa,
                           val := if write then some (readV g reg l.lane).toNat else none,
                           fill := if write then (fillAt s2 d k).map fun pa => (pa, t + 1) else none }
        match kvTranslateLanes d q cl write g reg r s2 with
        | .error e => .error e
        | .ok (as, s3) => .ok (a :: as, s3)

/-- The checks of R364: descriptor, range over every lane, translation in lane order. -/
def kvCheckLanes (s : State) (write : Bool) (reg : Nat) (q : KvSel) (ls : List KvLane) : Except FaultInfo (List KvAcc × State) :=
  match kvDesc s (curTask s) (curLpb s).kvdesc with
  | .error f => .error (kvInfo f write 0 0 0 0 0)
  | .ok d =>
    let info (l : KvLane) (f : KvFault) : FaultInfo := kvInfo f write l.lane (d.keyOf q.seq q.layer l.pos) l.pos q.head q.kv
    match ls.find? (kvLaneBad d q) with
    | some l => .error (info l kvRangeFault)
    | none =>
      match kvTranslateLanes d q (curCore s / 16) write (curGroup s) reg ls s with
      | .error (l, f) => .error (info l f)
      | .ok r => .ok r

/-- A KV fault of a group's word; a poisoned line kills its gang. -/
def kvStop (s : State) (f : FaultInfo) : Res := if f.code = 0x31 then .halted (consumedError s f) else .flt f
/-- A KV word in flight: its accesses are performed when it lands, which is when BFC falls (R362). -/
def launchKv (s : State) (as : List KvAcc) : State :=
  noteFlight (launchFlight s [] 0 .bfc false) s.nextFlight fun f => { f with kv := as }

/-- LDKV. -/
def execLdkv (v va src : BitVec 8) (s : State) : Out :=
  issue (wordOf s (.ldkv v va src))
    (fun s =>
      let g := curGroup s
      if (curLpb s).kvdesc = 0 then .flt (FaultInfo.plain 0x02)
      else
        let q := kvSel (readS g src.toNat) (readS g (src.toNat + 1))
        match kvCheckLanes s false v.toNat q (kvLanes g va.toNat) with
        | .error f => kvStop s f
        | .ok (as, s2) => .ok (launchKv s2 as)) s

/-- STKV. -/
def execStkv (v va src : BitVec 8) (s : State) : Out :=
  issue (wordOf s (.stkv v va src))
    (fun s =>
      let g := curGroup s
      if (curLpb s).kvdesc = 0 then .flt (FaultInfo.plain 0x02)
      else
        let q := kvSel (readS g src.toNat) (readS g (src.toNat + 1))
        match kvCheckLanes s true v.toNat q (kvLanes g va.toNat) with
        | .error f => kvStop s f
        | .ok (as, s2) => .ok (launchKv (closeWindow s2 s.cur.gang) as)) s

/-! ## Map words (R365 to R369) -/

/-- The descriptor for a map word, or its fault. -/
def mapDesc (s : State) (write : Bool) : Except FaultInfo KvDesc :=
  if (curLpb s).kvdesc = 0 then .error (FaultInfo.plain 0x02)
  else match kvDesc s (curTask s) (curLpb s).kvdesc with
    | .error f => .error (kvInfo f write 0 0 0 0 0)
    | .ok d => .ok d

/-- Copies the contents and FILL of one block into another (R366). -/
def kvCopyBlock (s : State) (d : KvDesc) (src dst : Nat) : Except KvFault State :=
  match kvBytes s d.asid (d.pool + src * d.sb) d.sb with
  | .error f => .error f
  | .ok bs =>
    match kvWritable s d.asid (d.pool + dst * d.sb) d.sb, readBlk s d src false, readBlk s d dst true with
    | .ok _, .ok a, .ok b => .ok (memWriteNat (kvPut s d.asid (d.pool + dst * d.sb) bs) (b.pa + 4) 2 a.fill)
    | .error f, _, _ => .error f
    | _, .error f, _ => .error f
    | _, _, .error f => .error f

/-- Whether an access of a KV space is in flight: a map operation is performed after those that were translated before it (R361). -/
def kvInFlight (s : State) (d : KvDesc) : Bool := s.groups.any fun g => g.2.flights.any fun f => f.kv.any fun a => a.space == d.pa

/-- KVMAP's operation: the result and the state; a fault leaves everything unchanged. An empty free list is found before a full chain (R366). -/
def kvmapOp (s : State) (d : KvDesc) (key req : Nat) : Except KvFault (Nat × State) :=
  if req = 0xFFFFFFFF ∨ req = 0xFFFFFFFE then
    match findKey s d key true with
    | .error f => .error f
    | .ok (_, e) =>
      match allocBlk s d with
        | .error f => .error f
        | .ok (none, _) => .ok (0xFFFFFFFF, s)
        | .ok (some k, s1) =>
          let s2 := match e with
            | some m => if req = 0xFFFFFFFE then kvCopyBlock s1 d m.blk k else .ok s1
            | none => .ok s1
          match s2 with
          | .error f => .error f
          | .ok s2 => match kvInsert s2 d key k with
            | .error f => .error f
            | .ok s3 => .ok (k, s3)
  else if req < 0x7FFFFFFF ∧ req < d.nblk then
    match readBlk s d req false with
    | .error f => .error f
    | .ok b =>
      if b.flg % 2 = 1 then .ok (0xFFFFFFFE, s)
      else match kvInsert s d key req with
        | .error f => .error f
        | .ok s1 => .ok (req, s1)
  else .ok (0xFFFFFFFE, s)

/-- KVMAP. -/
def execKvmap (sd sa : BitVec 9) (s : State) : Out :=
  issue (wordOf s (.kvmap sd sa))
    (fun s =>
      let g := curGroup s
      let key := (readPair g sa.toNat).toNat
      match mapDesc s true with
      | .error f => kvStop s f
      | .ok d =>
        if !d.keyOk key then .flt (kvInfo kvRangeFault true 0 key 0 0 0)
        else if kvInFlight s d then .wait s
        else match kvmapOp s d key (readS g sd.toNat).toNat with
          | .error f => kvStop s (kvInfo f true 0 key 0 0 0)
          | .ok (r, s1) => variableResult (closeWindow s1 s.cur.gang) [.s sd.toNat (BitVec.ofNat 32 r)] 0 .bfc) s

/-- The (layer, lb) pairs of the first n tokens, in the order of R367. -/
def kvPairs (d : KvDesc) (n : Nat) : List (Nat × Nat) :=
  (List.range d.layers).flatMap fun l => (List.range ((n + d.tb - 1) / d.tb)).map fun b => (l, b)
/-- The key of a pair. -/
def pairKey (seq : Nat) (p : Nat × Nat) : Nat := seq * 2 ^ 32 + p.1 * 2 ^ 22 + p.2

/-- KVFORK's insertions in order; a fault comes with what is done and the key it stands at. -/
def forkLoop (d : KvDesc) (dst src : Nat) : List (Nat × Nat) → State → Option (KvFault × Nat) × State
  | [], s => (none, s)
  | p :: r, s =>
    match findKey s d (pairKey src p) false with
    | .error f => (some (f, pairKey src p), s)
    | .ok (_, none) => forkLoop d dst src r s
    | .ok (_, some e) =>
      match kvInsert s d (pairKey dst p) e.blk with
      | .error f => (some (f, pairKey dst p), s)
      | .ok s1 => forkLoop d dst src r s1

/-- KVFORK. -/
def execKvfork (sd sa : BitVec 9) (s : State) : Out :=
  issue (wordOf s (.kvfork sd sa))
    (fun s =>
      let g := curGroup s
      let n := (readS g (sa.toNat + 1)).toNat
      match mapDesc s true with
      | .error f => kvStop s f
      | .ok d =>
        if 2 ^ 26 < n then .flt (kvInfo kvRangeFault true 0 0 0 0 0)
        else if kvInFlight s d then .wait s
        else
          let r := forkLoop d (readS g sd.toNat).toNat (readS g sa.toNat).toNat (kvPairs d n) (closeWindow s s.cur.gang)
          match r.1 with
          | none => variableResult r.2 [] 0 .bfc
          | some (f, key) =>
            let i := kvInfo f true 0 key 0 0 0
            .halted (if f.code = 0x31 then consumedError r.2 i else takeFault r.2 i)) s

/-- KVDROP's removals in order: blocks freed. -/
def dropLoop (d : KvDesc) (seq : Nat) : List (Nat × Nat) → Nat → State → Option (KvFault × Nat) × Nat × State
  | [], n, s => (none, n, s)
  | p :: r, n, s =>
    match kvRemove s d (pairKey seq p) with
    | .error f => (some (f, pairKey seq p), n, s)
    | .ok (freed, s1) => dropLoop d seq r (if freed then n + 1 else n) s1

/-- KVDROP. A fault on the way leaves everything unchanged, so that the word when it runs again counts every block (R363, R368, log entry 128). -/
def execKvdrop (sd sa : BitVec 9) (s : State) : Out :=
  issue (wordOf s (.kvdrop sd sa))
    (fun s =>
      let g := curGroup s
      let n := (readS g (sa.toNat + 1)).toNat
      match mapDesc s true with
      | .error f => kvStop s f
      | .ok d =>
        if 2 ^ 26 < n then .flt (kvInfo kvRangeFault true 0 0 0 0 0)
        else if kvInFlight s d then .wait s
        else
          let r := dropLoop d (readS g sa.toNat).toNat (kvPairs d n) 0 (closeWindow s s.cur.gang)
          match r.1 with
          | none => variableResult r.2.2 [.s sd.toNat (BitVec.ofNat 32 r.2.1)] 0 .bfc
          | some (f, key) => kvStop s (kvInfo f true 0 key 0 0 0)) s

/-- KVINFO. -/
def execKvinfo (sd sa : BitVec 9) (s : State) : Out :=
  issue (wordOf s (.kvinfo sd sa))
    (fun s =>
      let g := curGroup s
      let key := (readPair g sa.toNat).toNat
      match mapDesc s false with
      | .error f => kvStop s f
      | .ok d =>
        if !d.keyOk key then .flt (kvInfo kvRangeFault false 0 key 0 0 0)
        else match kvLookup s (curCore s / 16) d key with
          | .error f => kvStop s (kvInfo f false 0 key 0 0 0)
          | .ok (none, s1) => variableResult s1 (sWrites sd.toNat [0xFFFFFFFF, 0, 0]) 0 .bfc
          | .ok (some (k, _), s1) =>
            match readBlk s1 d k false with
            | .error f => kvStop s (kvInfo f false 0 key 0 0 0)
            | .ok b =>
              variableResult s1 (sWrites sd.toNat [BitVec.ofNat 32 k, BitVec.ofNat 32 b.ref, BitVec.ofNat 32 (b.fill + b.flg % 256 * 65536)]) 0 .bfc) s

end Sys2Proof.Machine
end

