-- ==== Sys2Proof/Machine/Tender.lean ====
section
/-!
DEFINITION. The Tender: its word frame, faults, integer, branch, load and synchronisation words (spec/11 R288 to R301, R307, R315 to R318).
The Tender in focus is that of the block in focus.
-/

namespace Sys2Proof.Machine

/-! ## The Tender in focus and its registers (R288) -/

def curTnd (s : State) : Tender := (curBlock s).tnd
def setCurTnd (s : State) (t : Tender) : State := setCurBlock s { curBlock s with tnd := t }

/-! ## Faults (R317) -/

/-- Suspends a Tender at a fault of the word at `idx`: a KIND 2 record is posted and the report routed. -/
def suspendTender (s : State) (gang blk : Nat) (idx : W32) (f : FaultInfo) : State :=
  let words := faultWords s gang 1 blk 0 idx 0 f
  let b := blockAt s gang blk
  let s1 := setBlockAt s gang blk { b with tnd := { b.tnd with st := .suspended } }
  let s2 := postEvent s1 gang blk posterSuspend (eventRec 1 2 0 blk idx (f.va % 2 ^ 52 + f.code * 2 ^ 56))
  routeRecord s2 gang 1 blk 0 f.code words

/-- A fault of the word at the Tender's pc. While an older copy word stands at a fault that one is reported, and the word waits to be tried again
after the release (R317). -/
def tenderFault (s : State) (f : FaultInfo) : State :=
  if (curTnd s).active.any fun x => x.2.stuck then setCurTnd s { curTnd s with st := .waiting }
  else suspendTender s s.cur.gang s.cur.blk (curTnd s).tpc f

/-- A consumed error of a Tender word (R419). -/
def tenderConsumed (s : State) (idx : W32) (f : FaultInfo) : State :=
  killGang s s.cur.gang 0x31 (faultWords s s.cur.gang 1 s.cur.blk 0 idx 0 { f with code := 0x31 })

/-! ## The word frame (R289, R290) -/

/-- What a Tender word does. -/
inductive TRes where
  /-- performed; goes on at the next word -/
  | ok (s : State)
  /-- a taken transfer -/
  | jump (s : State) (target : W32)
  /-- waits at the word -/
  | wait (s : State)
  /-- performed as far as it goes; the state already says how the stream stands -/
  | stop (s : State)
  | flt (f : FaultInfo)

/-- Issues a word of the Tender in focus; `wf` says that its fields are legal. -/
def tenderIssue (wf : Bool) (body : State → TRes) (s : State) : Out :=
  let t := curTnd s
  if t.st ≠ .running ∧ t.st ≠ .waiting then .next s
  else if !wf then .next (tenderFault s (FaultInfo.plain 0x14))
  else
    match body s with
    | .ok s1 => .next (setCurTnd s1 { curTnd s1 with tpc := t.tpc + 1, st := .running, held := 0, got := none, tested := false, sides := [] })
    | .jump s1 target => .next (setCurTnd s1 { curTnd s1 with tpc := target, st := .running, held := 0, got := none, tested := false, sides := [] })
    | .wait s1 => .next (setCurTnd s1 { curTnd s1 with st := .waiting })
    | .stop s1 => .next s1
    | .flt f => .next (tenderFault (setCurTnd s { t with tested := false }) f)

/-- A word that only writes a t register. -/
def tenderWrite (td : BitVec 6) (f : Tender → W64) (s : State) : Out :=
  tenderIssue true (fun s => .ok (setCurTnd s (writeT (curTnd s) td.toNat (f (curTnd s))))) s

/-! ## Integer words (R293, R294) -/

/-- TNOP. -/
def execTnop (s : State) : Out := tenderIssue true (fun s => .ok s) s

/-- TENDER_ILLEGAL (R98). -/
def execTenderIllegal (_w : BitVec 32) (s : State) : Out := tenderIssue true (fun _ => .flt (FaultInfo.plain 0x14)) s

/-- The operations of R293 on a, b and the old t[td]. -/
inductive TOp where
  | add | sub | mul | mad | shl | shr | and | or | min | max
deriving DecidableEq, Repr

def TOp.eval (o : TOp) (d a b : W64) : W64 :=
  match o with
  | .add => a + b
  | .sub => a - b
  | .mul => a * b
  | .mad => d + a * b
  | .shl => if b.toNat < 64 then a <<< b.toNat else 0
  | .shr => if b.toNat < 64 then a >>> b.toNat else 0
  | .and => a &&& b
  | .or => a ||| b
  | .min => if a.toInt ≤ b.toInt then a else b
  | .max => if b.toInt ≤ a.toInt then a else b

/-- The register form. -/
def tenderReg (o : TOp) (td ta tb : BitVec 6) (s : State) : Out :=
  tenderWrite td (fun t => o.eval (readT t td.toNat) (readT t ta.toNat) (readT t tb.toNat)) s
/-- The immediate form. -/
def tenderImm (o : TOp) (td ta : BitVec 6) (imm : BitVec 11) (s : State) : Out :=
  tenderWrite td (fun t => o.eval (readT t td.toNat) (readT t ta.toNat) (imm.signExtend 64)) s

def execTadd (td ta tb : BitVec 6) (s : State) : Out := tenderReg .add td ta tb s
def execTaddImm (td ta : BitVec 6) (imm : BitVec 11) (s : State) : Out := tenderImm .add td ta imm s
def execTsub (td ta tb : BitVec 6) (s : State) : Out := tenderReg .sub td ta tb s
def execTsubImm (td ta : BitVec 6) (imm : BitVec 11) (s : State) : Out := tenderImm .sub td ta imm s
def execTmul (td ta tb : BitVec 6) (s : State) : Out := tenderReg .mul td ta tb s
def execTmulImm (td ta : BitVec 6) (imm : BitVec 11) (s : State) : Out := tenderImm .mul td ta imm s
def execTmad (td ta tb : BitVec 6) (s : State) : Out := tenderReg .mad td ta tb s
def execTmadImm (td ta : BitVec 6) (imm : BitVec 11) (s : State) : Out := tenderImm .mad td ta imm s
def execTshl (td ta tb : BitVec 6) (s : State) : Out := tenderReg .shl td ta tb s
def execTshlImm (td ta : BitVec 6) (imm : BitVec 11) (s : State) : Out := tenderImm .shl td ta imm s
def execTshr (td ta tb : BitVec 6) (s : State) : Out := tenderReg .shr td ta tb s
def execTshrImm (td ta : BitVec 6) (imm : BitVec 11) (s : State) : Out := tenderImm .shr td ta imm s
def execTand (td ta tb : BitVec 6) (s : State) : Out := tenderReg .and td ta tb s
def execTandImm (td ta : BitVec 6) (imm : BitVec 11) (s : State) : Out := tenderImm .and td ta imm s
def execTor (td ta tb : BitVec 6) (s : State) : Out := tenderReg .or td ta tb s
def execTorImm (td ta : BitVec 6) (imm : BitVec 11) (s : State) : Out := tenderImm .or td ta imm s
def execTmin (td ta tb : BitVec 6) (s : State) : Out := tenderReg .min td ta tb s
def execTminImm (td ta : BitVec 6) (imm : BitVec 11) (s : State) : Out := tenderImm .min td ta imm s
def execTmax (td ta tb : BitVec 6) (s : State) : Out := tenderReg .max td ta tb s
def execTmaxImm (td ta : BitVec 6) (imm : BitVec 11) (s : State) : Out := tenderImm .max td ta imm s

/-- TLI. -/
def execTli (td : BitVec 6) (imm : BitVec 18) (s : State) : Out := tenderWrite td (fun _ => imm.signExtend 64) s

/-- TLIH: bits [16sh + 15 : 16sh]. -/
def execTlih (td : BitVec 6) (sh : BitVec 2) (imm : BitVec 16) (s : State) : Out :=
  tenderWrite td (fun t => putBits (readT t td.toNat) (16 * sh.toNat) 16 imm.toNat) s

/-! ## Transfers (R295) -/

/-- The condition of TBC on t[ta] as signed. -/
def tenderCond (cond : Nat) (x : W64) : Bool :=
  match cond with
  | 0 => x == 0
  | 1 => x != 0
  | 2 => decide (x.toInt < 0)
  | 3 => decide (0 ≤ x.toInt)
  | 4 => decide (0 < x.toInt)
  | _ => decide (x.toInt ≤ 0)

/-- TBC. -/
def execTbc (ta : BitVec 6) (cond : BitVec 3) (off : BitVec 15) (s : State) : Out :=
  tenderIssue (decide (cond.toNat ≤ 5))
    (fun s =>
      let t := curTnd s
      if tenderCond cond.toNat (readT t ta.toNat) then .jump s (t.tpc + off.signExtend 32) else .ok s) s

/-- TBA: t[ta] is read before t[td] is written. -/
def execTba (td ta : BitVec 6) (off : BitVec 12) (s : State) : Out :=
  tenderIssue true
    (fun s =>
      let t := curTnd s
      let target : W32 := (if ta = 0 then t.tpc else (readT t ta.toNat).setWidth 32) + off.signExtend 32
      .jump (setCurTnd s (writeT t td.toNat ((t.tpc + 1).setWidth 64))) target) s

/-- TLOOP. -/
def execTloop (ta : BitVec 6) (off : BitVec 18) (s : State) : Out :=
  tenderIssue true
    (fun s =>
      let t := curTnd s
      let x := readT t ta.toNat
      if x = 0 then .ok s
      else
        let s1 := setCurTnd s (writeT t ta.toNat (x - 1))
        if x - 1 = 0 then .ok s1 else .jump s1 (t.tpc + off.signExtend 32)) s

/-! ## Host memory for the Tender (R262) -/

/-- A host access of the Tender in focus for the record k, 16 for a word of its own. -/
def tenderHostAcc (s : State) (kind k pa len : Nat) : HostAcc :=
  { tag := 0, strm := 1, gang := s.cur.gang, blk := s.cur.blk, grp := 0, flight := k, kind := kind, lane := 0, reg := 0, etype := 0,
    addr := pa, len := len, got := none }
/-- Whether a host access belongs to the Tender in focus and the record k. -/
def tenderOwns (s : State) (k : Nat) (a : HostAcc) : Bool := a.strm == 1 && a.gang == s.cur.gang && a.blk == s.cur.blk && a.flight == k && a.kind != 6

/-- Whether the Tender in focus and its core have request slots for n lines more (R3, R302). -/
def tenderRoom (s : State) (n : Nat) : Bool :=
  decide (tenderLines s (fun a => a.gang == s.cur.gang && a.blk == s.cur.blk) + n ≤ 128) && decide (coreRequests s (curCore s) + n ≤ 768)
/-- The request slots that accesses take: a line each in host memory, which holds its slot until the answer, and one for what the device performs
at once. -/
def slotsFor (as : List LaneAccess) : Nat := max 1 ((as.filter LaneAccess.host).map fun a => a.pa / 128).eraseDups.length

/-- Bytes of host memory: sent for at the first try, which closes the window (R259), used once they have come. -/
def tenderHostRead (s : State) (k pa n : Nat) : Option (List Byte) × State :=
  match s.hostAccs.find? fun a => tenderOwns s k a && a.kind == 5 && a.addr == pa with
  | some a =>
    match a.got with
    | some bs => (some (bs.take n), { s with hostAccs := s.hostAccs.filter fun x => x != a })
    | none => (none, s)
  | none => (none, if tenderRoom s 1 then hostRequest (closeWindow s s.cur.gang) 0xA0 n [] (tenderHostAcc s 5 k pa n) else s)
/-- A write to host memory. -/
def tenderHostWrite (s : State) (k pa : Nat) (bs : List Byte) : State :=
  hostRequest s 0xA1 bs.length (linePayload pa bs) (tenderHostAcc s 1 k pa bs.length)
/-- Writes of the Tender in focus, or of one record, that the host has not acknowledged. -/
def tenderHostWaits (s : State) (k : Nat) : Bool := s.hostAccs.any fun a => tenderOwns s k a && a.kind == 1

/-! ## Loads and stores of single values (R296 to R299) -/

/-- t[ta] + sext(imm10), exactly. -/
def tenderAddr (t : Tender) (ta : BitVec 6) (imm : BitVec 10) : Nat := exactAddr ((readT t ta.toNat).toNat + imm.toInt)

/-- Extends a loaded number (R296). -/
def tenderExtend (sz x : Nat) : W64 :=
  if sz = 1 then ((BitVec.ofNat 32 x).signExtend 64) else BitVec.ofNat 64 x
def tenderSize (sz : Nat) : Nat := if sz = 2 then 8 else 4

/-- The bytes at the cluster cache, which an ordinary read fills; under the read cache the free pick of R255 decides. -/
def tenderRead (s : State) (pa n : Nat) (cached : Bool) : Nat × State :=
  let core := curCore s
  let x := natOf ((List.range n).map fun k => clusterByte s (core / 16) (pa + k))
  if cached then
    match rcacheNat s core pa n with
    | some c =>
      if c = x then (x, s)
      else
        let r := takeFresh s
        (if Config.readCachePick r.1 then c else x, r.2)
    | none => (x, rcacheFill s core (core / 16) (lineOf pa))
  else (x, clusterFill s (core / 16) (lineOf pa))

/-- A checked read of n bytes at a word of the Tender, with what is done with the number. -/
def tenderLoad (s : State) (va n : Nat) (cached : Bool) (use : State → Nat → State) : TRes :=
  match checkOne s .read .read false va n n with
  | .error f => .flt f
  | .ok (a, s1) =>
    if a.host then
      match tenderHostRead s1 16 a.pa n with
      | (some bs, s2) => .ok (use s2 (natOf bs))
      | (none, s2) => .wait s2
    else if !tenderRoom s1 1 then .wait s1
    else if poisoned s1 a.pa then .stop (tenderConsumed s1 (curTnd s1).tpc (accessFault 0x31 .read 0 va))
    else
      let r := tenderRead s1 a.pa n cached
      .ok (use r.2 r.1)

/-- TLD. -/
def execTld (td ta : BitVec 6) (sz : BitVec 2) (imm : BitVec 10) (s : State) : Out :=
  tenderIssue (sz != 3)
    (fun s => tenderLoad s (tenderAddr (curTnd s) ta imm) (tenderSize sz.toNat) true
      fun s x => setCurTnd s (writeT (curTnd s) td.toNat (tenderExtend sz.toNat x))) s

/-- The environment values (R297). -/
def tenderEnv (s : State) (idx : Nat) : W64 :=
  let g := curGang s
  let l := curLpb s
  match idx with
  | 0 => BitVec.ofNat 64 l.argp
  | 1 => BitVec.ofNat 64 g.gx
  | 2 => BitVec.ofNat 64 g.gy
  | 3 => BitVec.ofNat 64 s.cur.blk
  | 4 => BitVec.ofNat 64 l.gridx
  | 5 => BitVec.ofNat 64 l.gridy
  | 6 => BitVec.ofNat 64 l.blocks
  | _ => l.seed

/-- TLD.env. -/
def execTldEnv (td : BitVec 6) (idx : BitVec 10) (s : State) : Out :=
  tenderIssue (decide (idx.toNat ≤ 7)) (fun s => .ok (setCurTnd s (writeT (curTnd s) td.toNat (tenderEnv s idx.toNat)))) s

/-- A Tender write of bytes at the cluster cache, which closes the gang's window (R259, R300). -/
def tenderPut (s : State) (pa : Nat) (bs : List Byte) : State :=
  let cl := curCore s / 16
  (List.range bs.length).foldl (fun s k => clusterPut s cl (pa + k) ((bs[k]?).getD 0)) (closeWindow s s.cur.gang)

/-! ## The order of Tender writes (R305) -/

/-- Runs of bytes that a Tender word writes: a space, the first byte's address there, the length. Space 0 is device memory and 1 host memory by
physical address, 2 the KV rows by their KV address (a row's bytes lie in space 0 as well), and 16 + 2 × block + buffer a typed buffer by offset. -/
abbrev Foot := List (Nat × Nat × Nat)
def Foot.meets (x y : Foot) : Bool :=
  x.any fun a => y.any fun b => a.1 == b.1 && decide (a.2.1 < b.2.1 + b.2.2) && decide (b.2.1 < a.2.1 + a.2.2)

/-- n bytes at a global address, none where it does not translate. -/
def globalFoot (s : State) (va n : Nat) : Foot :=
  match translate s (curCore s) (curLpb s).asid va .write false with
  | .ok (e, _) => [(if e.mt = 1 then 1 else 0, e.paOf va, n)]
  | .error _ => []
/-- n bytes of a handle of a block from an offset on, each by itself for its swizzle. -/
def handleFoot (s : State) (blk h dswz off n : Nat) : Foot :=
  let e := handleAt (blockAt s s.cur.gang blk) h
  (List.range n).map fun j => (16 + 2 * blk + hBuf e, hBase e + swizzle dswz (off + j), 1)

/-- The addresses of a row of TGATH or TSCAT. -/
def rowAddrs (s : State) (r : CopyRec) (z row : Nat) : List Nat :=
  let b := curBlock s
  let e := handleAt b r.h
  let ix := handleNat b e (hSwz e) (((r.args[0]?).getD 0).toNat + 4 * row) 4
  let a0 : Int := (dBase r.desc : Int) + (ix : Int) * dStride r.desc 1
  (List.range (dBox r.desc 0)).map fun (j : Nat) => exactAddr (a0 + (j : Int) * (z : Int))

/-- A Tender KV address: sequence, layer, head, K or V (R310). -/
structure KvRowSel where
  seq : Nat
  layer : Nat
  head : Nat
  kv : Nat
def kvRowSel (x : W64) : KvRowSel := ⟨x.toNat % 2 ^ 32, x.toNat / 2 ^ 32 % 1024, x.toNat / 2 ^ 42 % 256, x.toNat / 2 ^ 50 % 2⟩

/-- The KV checks before any row: the descriptor, then the range of every row (R363). -/
def kvRowsFault (s : State) (q : KvRowSel) (pos n : Nat) (write : Bool) : Option FaultInfo × Option KvDesc :=
  match kvDesc s (curTask s) (curLpb s).kvdesc with
  | .error f => (some (kvInfo f write 0 0 0 0 0), none)
  | .ok d =>
    let bad := decide (d.layers ≤ q.layer) || decide (d.heads ≤ q.head) || decide (2 ^ 26 < pos + n) || decide (2 ^ 26 ≤ pos)
    (if bad then some (kvInfo kvRangeFault write 0 (d.keyOf q.seq q.layer pos) pos q.head q.kv) else none, some d)

/-- The bytes in device memory of the row that a TKVW writes at a position, none where it does not translate. -/
def kvRowFoot (s : State) (q : KvRowSel) (pos : Nat) : Foot :=
  match kvDesc s (curTask s) (curLpb s).kvdesc with
  | .error _ => []
  | .ok d => match kvBlock s (curCore s / 16) d (d.keyOf q.seq q.layer pos) true with
    | .error _ => []
    | .ok (blk, s1) =>
      let row := d.row q.kv q.head (pos % d.tb)
      match kvPas s1 d.asid true (d.rowVa blk row) d.rb, kvPas s1 d.asid true (d.scaleVa blk row) 1 with
      | .ok ps, .ok qs => (ps ++ qs).map fun a => (0, a, 1)
      | _, _ => []

/-- The target blocks of a multicast mask. -/
def maskBlocks (m : W64) : List Nat := (List.range 16).filter fun i => m.getLsbD i

/-- The bytes that an element, or a row, of a copy word of the Tender in focus writes. A KV row is named by its KV address and by its
bytes. -/
def elemFoot (s : State) (r : CopyRec) (e : Nat) : Foot :=
  let z := descrSize (curTask s) r.desc
  let h := dHnd r.desc
  let sw := dDswz r.desc
  let row := z * dBox r.desc 0
  match r.op with
  | 0x15 => handleFoot s s.cur.blk h sw (((r.args[0]?).getD 0).toNat + e * z) z
  | 0x18 => handleFoot s s.cur.blk h sw (e * row) row
  | 0x1A => handleFoot s s.cur.blk h sw (e * (r.moved / r.count)) (r.moved / r.count)
  | 0x1B =>
    let pos := ((r.args[1]?).getD 0).toNat + e
    (2, ((r.args[0]?).getD 0).toNat * 2 ^ 27 + pos, 1) :: kvRowFoot s (kvRowSel ((r.args[0]?).getD 0)) pos
  | 0x1C => handleFoot s s.cur.blk h sw (e * z) z
  | 0x1E => (maskBlocks ((r.args[0]?).getD 0)).flatMap fun i => handleFoot s i h sw (e * z) z
  | 0x19 => (rowAddrs s r z e).flatMap fun a => globalFoot s a z
  | 0x16 => globalFoot s (elemAddr r.desc z (r.args.drop 1) e) z
  | 0x1D => globalFoot s (elemAddr r.desc z (r.args.drop 1) e) z
  | 0x24 => globalFoot s (elemAddr r.desc z (r.args.drop 1) e) z
  | _ => []

/-- Iteration j of a looping copy, at progress p, as the copy word that it is (R307). DESIGN CHOICE (log entry 144): its coordinate is taken modulo 2^64,
as every sum of t registers is. -/
def iterView (r : CopyRec) (l : LoopRec) (j p : Nat) : CopyRec :=
  { r with op := 0x15, desc := putBits r.desc 232 6 (dHnd r.desc + j % l.ring), prog := p, loop := none
           args := 0 :: r.args.mapIdx fun i x => if i = l.k then x + BitVec.ofNat 64 j * l.delta else x }

/-- The bytes that a copy word has still to write. The iterations of a looping copy that have not begun will write the stages that they are due in. -/
def leftFoot (s : State) (r : CopyRec) : Foot :=
  match r.loop with
  | some l => (l.live ++ (List.range (min (l.n - l.next) l.ring)).map fun i => (l.next + i, 0)).flatMap fun (x : Nat × Nat) =>
      (List.range (r.count - x.2)).flatMap fun i => elemFoot s (iterView r l x.1 x.2) (x.2 + i)
  | none => (List.range (r.count - r.prog)).flatMap fun i => elemFoot s r (r.prog + i)
/-- Two Tender writes to one byte land in program order: whether a word older than `seq` still has bytes of a write to make. -/
def writeBehind (s : State) (seq : Nat) (f : Foot) : Bool :=
  (curTnd s).active.any fun x => decide (x.2.seq < seq) && (x.2.moving || x.2.unbegun) && Foot.meets (leftFoot s x.2) f

/-- TST: waits for earlier writes to the same bytes. -/
def execTst (tv ta : BitVec 6) (sz : BitVec 2) (imm : BitVec 10) (s : State) : Out :=
  tenderIssue (sz == 0 || sz == 2)
    (fun s =>
      let t := curTnd s
      let n := tenderSize sz.toNat
      let va := tenderAddr t ta imm
      match checkOne s .write .write false va n n with
      | .error f => .flt f
      | .ok (a, s1) =>
        let bs := bytesOf n ((readT t tv.toNat).toNat % 2 ^ (8 * n))
        if writeBehind s1 s1.nextFlight [(if a.host then 1 else 0, a.pa, n)] || !tenderRoom s1 1 then .wait s1
        else if a.host then .ok (tenderHostWrite (closeWindow s1 s.cur.gang) 16 a.pa bs)
        else .ok (tenderPut s1 a.pa bs)) s

/-- TLDB (R298). -/
def execTldb (td h tb : BitVec 6) (sz : BitVec 2) (s : State) : Out :=
  tenderIssue (sz != 3)
    (fun s =>
      let t := curTnd s
      let b := curBlock s
      let n := tenderSize sz.toNat
      let o := (readT t tb.toNat).toNat
      let e := handleAt b h.toNat
      if inRing t h.toNat then .flt (FaultInfo.plain 0x0B)
      else match checkHandle t.tested e .tender .read (decide (hBuf e < 2)) n n [(0, o)] with
        | .flt f => .flt f
        | .wait => .wait (setCurTnd s { t with tested := true })
        | .ok => .ok (setCurTnd s (writeT t td.toNat (tenderExtend sz.toNat (handleNat b e (hSwz e) o n))))) s

/-- TDESC (R299). -/
def execTdesc (d : BitVec 4) (ta : BitVec 6) (s : State) : Out :=
  tenderIssue true
    (fun s => tenderLoad s (readT (curTnd s) ta.toNat).toNat 32 false
      fun s x => setCurTnd s { curTnd s with d := (curTnd s).d.set 0 d.toNat (BitVec.ofNat 256 x) }) s

/-! ## Synchronisation words (R315) -/

def tenderArrivals (t : Tender) : Arrivals := ⟨t.arr, t.ever, t.barWait⟩

/-- Every earlier access of the Tender in focus is performed: its copy words have completed, and the host has answered its stores. -/
def tenderDone (s : State) : Bool := (curTnd s).quiet && !tenderHostWaits s 16

/-- TBAR: an arrival waits for the earlier copy words, and for the writes that it releases (R316). -/
def execTbar (g : Bool) (n : BitVec 4) (mode : BitVec 2) (s : State) : Out :=
  tenderIssue (decide (mode.toNat ≤ 2) && (!g || decide (n.toNat ≤ 3)))
    (fun s =>
      let t := curTnd s
      let b := if g then 16 + n.toNat else n.toNat
      if mode ≠ 2 && t.barWait.isNone && t.arr.get 0 b = 0 && !tenderDone s then .wait s
      else
        let r := barrierWord s s.cur.gang s.cur.blk b mode.toNat (tenderArrivals t)
        let s1 := setCurTnd s { t with arr := r.2.2.arr, ever := r.2.2.ever, barWait := r.2.2.wait }
        let s2 := if r.2.1 then countArrival s1 s.cur.gang s.cur.blk b else s1
        match r.1 with
        | .fault => .flt (FaultInfo.plain 0x0A)
        | .wait => .wait s2
        | .done => .ok s2) s

/-- THSET: to FULL only once the Tender's earlier writes through the handle have landed. -/
def execThset (h : BitVec 6) (st : BitVec 2) (s : State) : Out :=
  tenderIssue true
    (fun s =>
      let t := curTnd s
      let b := curBlock s
      if inRing t h.toNat then .flt (FaultInfo.plain 0x0B)
      else if !canMove s s.cur.gang s.cur.blk h.toNat || (st == 2 && writesLeft s s.cur.gang s.cur.blk h.toNat s.nextFlight) then .wait s
      else match transition (handleAt b h.toNat) st.toNat .tender with
        | none => .flt (FaultInfo.plain 0x0B)
        | some e => .ok (moveHandle s s.cur.gang s.cur.blk h.toNat e)) s

/-- THWAIT. -/
def execThwait (h : BitVec 6) (st : BitVec 2) (ph : BitVec 1) (s : State) : Out :=
  tenderIssue true
    (fun s =>
      let e := handleAt (curBlock s) h.toNat
      if inRing (curTnd s) h.toNat then .flt (FaultInfo.plain 0x0B)
      else if hState e = st.toNat ∧ hPhase e = ph.toNat then .ok s
      else .wait s) s

/-- Posts the word's record once, then waits until it is in the queue; `fin` is the state after. -/
def tenderPost (s : State) (r : BitVec 128) (fin : State → TRes) : TRes :=
  let t := curTnd s
  let s1 := if t.held = 0 then setCurTnd (postEvent s s.cur.gang s.cur.blk posterTender r) { t with held := 1 } else s
  if postWaits s1 s.cur.gang s.cur.blk posterTender then .wait s1 else fin s1

/-- TEVT. -/
def execTevt (ta : BitVec 6) (tag : BitVec 16) (f c : Bool) (s : State) : Out :=
  tenderIssue true
    (fun s =>
      let t := curTnd s
      if t.held = 0 && !tenderDone s then .wait s
      else
        let x := readT t ta.toNat
        let data := if f then x.toNat - x.toNat % 256 + t.tflags.toNat else x.toNat
        tenderPost s (eventRec 1 0 tag.toNat s.cur.blk t.tpc data)
          fun s => .ok (if c then setCurTnd s { curTnd s with tflags := 0 } else s)) s

/-- TEND. -/
def execTend (s : State) : Out :=
  tenderIssue true
    (fun s =>
      let t := curTnd s
      if t.held = 0 && !tenderDone s then .wait s
      else tenderPost s (eventRec 1 3 0 s.cur.blk t.tpc t.tflags.toNat)
        fun s => .stop (setCurTnd s { curTnd s with st := .ended, held := 0 })) s

/-- TFENCE: every earlier access is performed. -/
def execTfence (scope : BitVec 3) (s : State) : Out :=
  tenderIssue (scopeOk scope) (fun s => if tenderDone s then .ok s else .wait s) s

/-- TWAIT. -/
def execTwait (n : BitVec 8) (s : State) : Out :=
  tenderIssue (decide (n.toNat ≤ 15)) (fun s => if (curTnd s).active.length ≤ n.toNat then .ok s else .wait s) s

/-- TTRAP: the Tender is suspended with the next word to go on at. -/
def execTtrap (imm : BitVec 24) (s : State) : Out :=
  tenderIssue true
    (fun s =>
      let t := curTnd s
      if !t.quiet then .wait s
      else .stop (suspendTender (setCurTnd s { t with tpc := t.tpc + 1 }) s.cur.gang s.cur.blk t.tpc { FaultInfo.plain 0x19 with imm := imm.toNat })) s

end Sys2Proof.Machine
end

