-- ==== Sys2Proof/Machine/Copy.lean ====
section
/-!
DEFINITION. The Tender's copy words: descriptors, checks, begin and finish transitions, elements, looping copies, and their completion (spec/11
R299 to R314, R317, R318).
-/

namespace Sys2Proof.Machine

/-- The registers t[n] to t[n + k − 1]. -/
def readTs (t : Tender) (n k : Nat) : List W64 := (List.range k).map fun j => readT t (n + j)

/-! ## The checks at issue (R303) -/

/-- The lowest free copy record. -/
def freeRecord (t : Tender) : Option Nat := (List.range 16).find? fun k => (t.recs.get none k).isNone

/-- Issues a copy word: a free record, the checks, begin transitions and waits, then its record (R302, R303). A word that has waited is not checked
again, but for the swizzles that it reads (R248). -/
def startCopy (s : State) (fault : Option FaultInfo) (sides : List CopySide) (r : CopyRec) : TRes :=
  let t := curTnd s
  match freeRecord t with
  | none => .wait s
  | some k =>
    match if t.tested then none else fault with
    | some f => .flt f
    | none =>
      match beginSides s.cur.gang sides 0 t.held s with
      | (true, _, s1) =>
        if t.tested && !sidesMatch s s.cur.gang sides then .flt (FaultInfo.plain 0x0C)
        else
          let s2 := { s1 with nextFlight := s.nextFlight + 1 }
          .ok (setCurTnd s2 { curTnd s2 with recs := (curTnd s2).recs.set none k (some { r with seq := s.nextFlight }) })
      | (false, held, s1) => .wait (setCurTnd s1 { curTnd s1 with held := held, tested := true, sides := sides })

/-- A new record. -/
def newRecord (s : State) (op dn dn2 : Nat) (args : List W64) (fin ev : Bool) (count moved : Nat) : CopyRec :=
  let t := curTnd s
  { op := op, idx := t.tpc, dn := dn, desc := readD t dn, dn2 := dn2, desc2 := readD t dn2, args := args, fin := fin, ev := ev, rnd := .rne,
    sat := false, h := 0, prog := 0, count := count, stuck := false, loop := none, moved := moved, ended := 0 }

/-- Register blocks that run past t63 (R301). -/
def pastEnd (n k : Nat) : Bool := decide (64 < n + k)

/-- TCOPY and TSTORE (R306). -/
def moveWord (op : Nat) (acc : HAccess) (d : BitVec 4) (tc tb : BitVec 6) (bg fin ev : Bool) (s : State) : Out :=
  tenderIssue true
    (fun s =>
      let t := curTnd s
      let x := readD t d.toNat
      let task := curTask s
      let z := descrSize task x
      let off := (readT t tb.toNat).toNat
      let f := firstFault
        [failIf (pastEnd tc.toNat (dNdim x)) 0x14, descrFault task x false, failIf (inRing t (dHnd x)) 0x0B,
         bufferFault (handleAt (curBlock s) (dHnd x)) acc d.toNat off (descrBytes task x) z (dDswz x)]
      let r := newRecord s op d.toNat 0 (readT t tb.toNat :: readTs t tc.toNat (dNdim x)) fin ev (dElems x) (descrBytes task x)
      startCopy s f [⟨s.cur.blk, dHnd x, acc == .read, bg, dDswz x⟩] r) s

/-- TCOPY. -/
def execTcopy (d : BitVec 4) (tc tb : BitVec 6) (bg fin ev : Bool) (s : State) : Out := moveWord 0x15 .write d tc tb bg fin ev s
/-- TSTORE. -/
def execTstore (d : BitVec 4) (tc tb : BitVec 6) (bg fin ev : Bool) (s : State) : Out := moveWord 0x16 .read d tc tb bg fin ev s

/-- Whether two rings of handles overlap without being the same ring (R307). -/
def ringClash (t : Tender) (h ring : Nat) : Bool :=
  (loopsOf t).any fun e =>
    let h2 := dHnd e.2.1.desc
    !(h2 == h && e.2.2.ring == ring) && decide (h < h2 + e.2.2.ring) && decide (h2 < h + ring)

/-- TCOPYL (R307): the checks of its iterations are made as each begins. -/
def execTcopyl (d : BitVec 4) (tc tn : BitVec 6) (k ring : BitVec 3) (s : State) : Out :=
  tenderIssue (decide (k.toNat ≤ 4))
    (fun s =>
      let t := curTnd s
      let x := readD t d.toNat
      let task := curTask s
      let n := (readT t tn.toNat).toNat
      let S := ring.toNat + 1
      let f := firstFault
        [failIf (pastEnd tc.toNat (dNdim x) || pastEnd tn.toNat 2) 0x14, descrFault task x false,
         failIf (decide (dNdim x ≤ k.toNat) || decide (63 < dHnd x + S - 1) || ringClash t (dHnd x) S) 0x0B]
      match f with
      | some f => .flt f
      | none =>
        if n = 0 then .ok s
        else if 4 ≤ (loopsOf t).length then .wait s
        else
          let r := newRecord s 0x17 d.toNat 0 (readTs t tc.toNat (dNdim x)) true false (dElems x) 0
          startCopy s none [] { r with loop := some ⟨n, readT t (tn.toNat + 1), k.toNat, S, 0, []⟩ }) s

/-- The index list of TGATH and TSCAT as a side that is read (R308). -/
def listSide (e : HEntry) (off n : Nat) : SideCheck := ⟨e, .read, none, off, 4 * n, 4, hSwz e⟩

/-- TGATH and TSCAT. -/
def rowsWord (op : Nat) (acc : HAccess) (d : BitVec 4) (ti tn h : BitVec 6) (s : State) : Out :=
  tenderIssue true
    (fun s =>
      let t := curTnd s
      let b := curBlock s
      let x := readD t d.toNat
      let task := curTask s
      let n := (readT t tn.toNat).toNat
      let row := descrSize task x * dBox x 0
      let f := firstFault
        [descrFault task x (decide (2 < dNdim x)), failIf (inRing t (dHnd x) || inRing t h.toNat) 0x0B,
         sidesFault [⟨handleAt b (dHnd x), acc, some d.toNat, 0, n * row, 1, dDswz x⟩, listSide (handleAt b h.toNat) (readT t ti.toNat).toNat n]]
      let r := { newRecord s op d.toNat 0 [readT t ti.toNat] false false n (n * row) with h := h.toNat }
      startCopy s f [⟨s.cur.blk, dHnd x, acc == .read, false, dDswz x⟩, ⟨s.cur.blk, h.toNat, true, false, hSwz (handleAt b h.toNat)⟩] r) s

/-- TGATH. -/
def execTgath (d : BitVec 4) (ti tn h : BitVec 6) (s : State) : Out := rowsWord 0x18 .write d ti tn h s
/-- TSCAT. -/
def execTscat (d : BitVec 4) (ti tn h : BitVec 6) (s : State) : Out := rowsWord 0x19 .read d ti tn h s

/-! ## KV rows (R310) -/

/-- TKVR and TKVW. A row in the handle is its RB code bytes and its scale byte (log entry 36). The KV faults are met in flight, before any row is
moved (R303 step 8); so is test 3 for the rows' bytes where the descriptor cannot be read at issue. -/
def kvRowsWord (op : Nat) (acc : HAccess) (d : BitVec 4) (tk tn : BitVec 6) (bg fin ev : Bool) (s : State) : Out :=
  tenderIssue true
    (fun s =>
      let t := curTnd s
      let x := readD t d.toNat
      let n := (readT t tn.toNat).toNat
      let a := readT t tk.toNat
      let pos := (readT t (tk.toNat + 1)).toNat
      let k := kvRowsFault s (kvRowSel a) pos n (acc == .read)
      let rb := (k.2.map KvDesc.rb).getD 0 + 1
      let f := firstFault
        [failIf (pastEnd tk.toNat 2 || decide (2 ^ 51 ≤ a.toNat)) 0x14, descrFault (curTask s) x false, failIf ((curLpb s).kvdesc == 0) 0x14,
         failIf (inRing t (dHnd x)) 0x0B, bufferFault (handleAt (curBlock s) (dHnd x)) acc d.toNat 0 (n * rb) 1 (dDswz x)]
      startCopy s f [⟨s.cur.blk, dHnd x, acc == .read, bg, dDswz x⟩] (newRecord s op d.toNat 0 [a, readT t (tk.toNat + 1)] fin ev n (n * rb))) s

/-- TKVR. -/
def execTkvr (d : BitVec 4) (tk tn : BitVec 6) (bg fin ev : Bool) (s : State) : Out := kvRowsWord 0x1A .write d tk tn bg fin ev s
/-- TKVW. -/
def execTkvw (d : BitVec 4) (tk tn : BitVec 6) (bg fin ev : Bool) (s : State) : Out := kvRowsWord 0x1B .read d tk tn bg fin ev s

/-! ## Conversion, reduction, multicast (R311 to R313) -/

/-- TCVT: the source side first, then the destination. -/
def execTcvt (dd ds : BitVec 4) (rnd : BitVec 3) (bg fin : Bool) (s : State) : Out :=
  tenderIssue (rndOk rnd)
    (fun s =>
      let t := curTnd s
      let b := curBlock s
      let x := readD t dd.toNat
      let y := readD t ds.toNat
      let task := curTask s
      let f := firstFault
        [descrFault task x (dElems x != dElems y), descrFault task y false, failIf (dHnd x == dHnd y) 0x14,
         failIf (inRing t (dHnd x) || inRing t (dHnd y)) 0x0B,
         sidesFault [⟨handleAt b (dHnd y), .read, some ds.toNat, 0, descrBytes task y, 1, dDswz y⟩,
           ⟨handleAt b (dHnd x), .write, some dd.toNat, 0, descrBytes task x, 1, dDswz x⟩]]
      let r := { newRecord s 0x1C dd.toNat ds.toNat [] fin false (dElems x) (descrBytes task x) with rnd := Rnd.ofCode rnd.toNat }
      startCopy s f [⟨s.cur.blk, dHnd y, true, bg, dDswz y⟩, ⟨s.cur.blk, dHnd x, false, bg, dDswz x⟩] r) s

/-- The destination types of TRED. -/
def redType (e : Nat) : Bool := e == 8 || e == 9 || e == 10 || e == 11 || e == 2 || e == 6 || e == 3 || e == 7

/-- TRED. -/
def execTred (dd ds : BitVec 4) (tn : BitVec 6) (rnd : BitVec 3) (sat : Bool) (s : State) : Out :=
  tenderIssue (rndOk rnd)
    (fun s =>
      let t := curTnd s
      let b := curBlock s
      let x := readD t dd.toNat
      let y := readD t ds.toNat
      let task := curTask s
      let n := (readT t tn.toNat).toNat
      let f := firstFault
        [failIf (pastEnd tn.toNat (1 + dNdim x)) 0x14, failIf (descrBad x) 0x13,
         descrFault task y (dElems x != dElems y || decide (256 < n)), failIf (!redType (dEtype x)) 0x04, failIf (inRing t (dHnd y)) 0x0B,
         bufferFault (handleAt b (dHnd y)) .read ds.toNat 0 (n * descrBytes task y) 1 (dDswz y)]
      let r := { newRecord s 0x1D dd.toNat ds.toNat (readT t tn.toNat :: readTs t (tn.toNat + 1) (dNdim x)) false false
                  (if n = 0 then 0 else dElems x) (descrBytes task x) with rnd := Rnd.ofCode rnd.toNat, sat := sat }
      startCopy s f (if n = 0 then [] else [⟨s.cur.blk, dHnd y, true, false, dDswz y⟩]) r) s

/-- TMCAST. -/
def execTmcast (d : BitVec 4) (tc tm : BitVec 6) (bg fin ev : Bool) (s : State) : Out :=
  tenderIssue true
    (fun s =>
      let t := curTnd s
      let x := readD t d.toNat
      let task := curTask s
      let m := readT t tm.toNat
      let f := firstFault
        [failIf (pastEnd tc.toNat (dNdim x)) 0x14, descrFault task x false, failIf (decide (2 ^ (curLpb s).blocks ≤ m.toNat)) 0x12,
         failIf ((maskBlocks m).any fun i => inRing (blockAt s s.cur.gang i).tnd (dHnd x)) 0x0B,
         sidesFault ((maskBlocks m).map fun i =>
           ⟨handleAt (blockAt s s.cur.gang i) (dHnd x), .write, some d.toNat, 0, descrBytes task x, 1, dDswz x⟩)]
      match if t.tested then none else f with
      | some f => .flt f
      | none =>
        if m = 0 then .ok s
        else
          startCopy s none ((maskBlocks m).map fun i => ⟨i, dHnd x, false, bg, dDswz x⟩)
            (newRecord s 0x1E d.toNat 0 (m :: readTs t tc.toNat (dNdim x)) fin ev (dElems x) (descrBytes task x))) s

/-! ## Peer messages (R314, R445) -/

/-- Sends a flit on a peer port: its type is 0xE0 for an announce, 0xE1 a grant, 0xE2 data, 0xE3 a completion (log entry 39); the tag holds
the port, the length field the channel. -/
def sendPeer (s : State) (ftype port chan len : Nat) (data : List Byte) : State :=
  { s with outbox := s.outbox ++ [⟨ftype, 0, port, chan, len, data⟩] }

/-- TSEND and TRECV at issue: a message joins the port's queue; a send is announced. -/
def peerWord (op : Nat) (send : Bool) (d : BitVec 4) (tc tq : BitVec 6) (ev : Bool) (s : State) : Out :=
  tenderIssue true
    (fun s =>
      let t := curTnd s
      let x := readD t d.toNat
      let task := curTask s
      let q := (readT t tq.toNat).toNat
      let f := firstFault
        [failIf (pastEnd tc.toNat (dNdim x)) 0x14, descrFault task x false,
         failIf (decide (2 ^ 12 ≤ q) || (portAt s (q % 16)).inactive) 0x18]
      match freeRecord t with
      | none => .wait s
      | some k =>
        match f with
        | some f => .flt f
        | none =>
          let len := descrBytes task x
          let p := portAt s (q % 16)
          -- behind a message of the channel that a port has lost it announces itself later (R445)
          let first := !send || p.sends.all fun x => x.chan != q / 16 % 256 || x.announced
          let m : PeerMsg := ⟨q / 16 % 256, len, [], s.cur.gang, s.cur.blk, k, first, false, 0, false⟩
          let s1 := setPortAt s (q % 16) (if send then { p with sends := p.sends ++ [m] } else { p with recvs := p.recvs ++ [m] })
          let s2 := if send && first then sendPeer (closeWindow s1 s.cur.gang) 0xE0 (q % 16) (q / 16 % 256) len [] else s1
          startCopy s2 none [] (newRecord s2 op d.toNat 0 (readT t tq.toNat :: readTs t tc.toNat (dNdim x)) false ev (dElems x) 0)) s

/-- TSEND. -/
def execTsend (d : BitVec 4) (tc tq : BitVec 6) (ev : Bool) (s : State) : Out := peerWord 0x23 true d tc tq ev s
/-- TRECV. -/
def execTrecv (d : BitVec 4) (tc tq : BitVec 6) (ev : Bool) (s : State) : Out := peerWord 0x24 false d tc tq ev s

/-! ## Elements (R303 step 8, R306 to R313) -/

/-- What performing one element gives. -/
inductive ElemOut where
  | ok (s : State)
  | wait (s : State)
  | flt (f : FaultInfo)
  /-- a poisoned line was read -/
  | dead (s : State)

/-- A checked global element of z bytes. -/
def globalElem (s : State) (cls : AccessClass) (k : AccessKind) (hostBad : Bool) (va z : Nat) : Except FaultInfo (LaneAccess × State) :=
  checkOne s cls k hostBad va z z

/-- Checked global elements in order. -/
def globalElems (cls : AccessClass) (k : AccessKind) (z : Nat) : List Nat → List LaneAccess → State → Except FaultInfo (List LaneAccess × State)
  | [], acc, s => .ok (acc.reverse, s)
  | va :: r, acc, s =>
    match globalElem s cls k false va z with
    | .error f => .error f
    | .ok (a, s1) => globalElems cls k z r (a :: acc) s1

/-- What reading elements gives. -/
inductive ReadOut where
  | ok (bs : List Byte) (s : State)
  | wait (s : State)
  | poison (a : LaneAccess)

/-- The bytes of checked elements of z bytes, at the cluster cache or from the host (R262, R300). Nothing is used until every host element
has come. -/
def readElems (s : State) (k z : Nat) (as : List LaneAccess) : ReadOut :=
  match poisonedLane s as with
  | some a => .poison a
  | none =>
    let pend (a : LaneAccess) : Option HostAcc := s.hostAccs.find? fun h => tenderOwns s k h && h.kind == 5 && h.addr == a.pa
    let lacking := as.filter fun a => a.host && ((pend a).bind HostAcc.got).isNone
    if !lacking.isEmpty then
      .wait ((lacking.filter fun a => (pend a).isNone).foldl (fun s a =>
        if tenderRoom s 1 then hostRequest s 0xA0 z [] (tenderHostAcc s 5 k a.pa z) else s) (closeWindow s s.cur.gang))
    else if !tenderRoom s 1 && as.any fun a => !a.host then .wait s
    else
      let cl := curCore s / 16
      let bytes (a : LaneAccess) : List Byte :=
        if a.host then (((pend a).bind HostAcc.got).getD []).take z else (List.range z).map fun j => clusterByte s cl (a.pa + j)
      let s1 := { s with hostAccs := s.hostAccs.filter fun h => !(tenderOwns s k h && h.kind == 5 && as.any fun a => a.host && a.pa == h.addr) }
      .ok (as.flatMap bytes) (as.foldl (fun s a => if a.host then s else clusterFill s cl (lineOf a.pa)) s1)

/-- Writes checked elements of z bytes. -/
def writeElems (k z : Nat) : List LaneAccess → List Byte → State → State
  | [], _, s => s
  | a :: r, bs, s =>
    let s1 := if a.host then tenderHostWrite (closeWindow s s.cur.gang) k a.pa (bs.take z) else tenderPut s a.pa (bs.take z)
    writeElems k z r (bs.drop z) s1

/-- Writes bytes into a handle of a block of the gang, recording the swizzle (R252). -/
def fillHandle (s : State) (blk h dswz off : Nat) (bs : List Byte) : State :=
  let b := blockAt s s.cur.gang blk
  let e := handleAt b h
  setBlockAt s s.cur.gang blk (setHandle (setHandleBytes b e dswz off bs) h (noteSwz e dswz))
/-- Bytes of a handle of the block in focus. -/
def handleBytes (s : State) (h dswz off n : Nat) : List Byte :=
  let b := curBlock s
  let e := handleAt b h
  (List.range n).map fun j => handleByte b e dswz (off + j)

/-- Global to handle: elements `vas` of z bytes, read and given to `put`. -/
def inward (s : State) (k z prog : Nat) (vas : List Nat) (put : State → List Byte → State) : ElemOut :=
  match globalElems .read .read z vas [] s with
  | .error f => .flt { f with prog := prog }
  | .ok (as, s1) =>
    match readElems s1 k z as with
    | .poison a => .dead (tenderConsumed s1 (((curTnd s1).recs.get none k).map CopyRec.idx |>.getD 0) (accessFault 0x31 .read 0 a.va))
    | .wait s2 => .wait s2
    | .ok bs s2 => .ok (put s2 bs)

/-- Handle to global. -/
def outward (s : State) (k z prog : Nat) (vas : List Nat) (bs : List Byte) : ElemOut :=
  match globalElems .write .write z vas [] s with
  | .error f => .flt { f with prog := prog }
  | .ok (as, s1) => if tenderRoom s1 (slotsFor as) then .ok (writeElems k z as bs s1) else .wait s1

/-- A KV fault of a copy word; a poisoned line that it reads kills the gang (R419). -/
def kvElemFault (s : State) (r : CopyRec) (f : FaultInfo) : ElemOut := if f.code = 0x31 then .dead (tenderConsumed s r.idx f) else .flt f

/-- One KV row into the handle or out of it. Before the first, test 3 is made for the bytes of all of them (R303 step 4). -/
def kvRowElem (s : State) (r : CopyRec) (e : Nat) : ElemOut :=
  let write := r.op == 0x1B
  let q := kvRowSel ((r.args[0]?).getD 0)
  let pos := ((r.args[1]?).getD 0).toNat + e
  match kvRowsFault s q ((r.args[1]?).getD 0).toNat r.count write with
  | (some f, _) => kvElemFault s r { f with prog := e }
  | (none, none) => .wait s
  | (none, some d) =>
    let key := d.keyOf q.seq q.layer pos
    let bad (f : KvFault) : ElemOut := kvElemFault s r { kvInfo f write 0 key pos q.head q.kv with prog := e }
    if e = 0 ∧ !inExt (handleAt (curBlock s) (dHnd r.desc)) 0 (r.count * (d.rb + 1)) then .flt (FaultInfo.plain 0x0B)
    else if !tenderRoom s 1 then .wait s
    else match kvBlock s (curCore s / 16) d key write with
    | .error f => bad f
    | .ok (blk, s1) =>
      let row := d.row q.kv q.head (pos % d.tb)
      if write then
        match kvWritable s1 d.asid (d.rowVa blk row) d.rb, kvWritable s1 d.asid (d.scaleVa blk row) 1 with
        | .error f, _ => bad f
        | _, .error f => bad f
        | .ok _, .ok _ =>
          let bs := handleBytes s1 (dHnd r.desc) (dDswz r.desc) (e * (d.rb + 1)) (d.rb + 1)
          let s2 := kvPut (kvPut (closeWindow s1 s.cur.gang) d.asid (d.rowVa blk row) (bs.take d.rb)) d.asid (d.scaleVa blk row) (bs.drop d.rb)
          .ok (kvFill s2 d blk (pos % d.tb))
      else
        match kvBytes s1 d.asid (d.rowVa blk row) d.rb, kvBytes s1 d.asid (d.scaleVa blk row) 1 with
        | .error f, _ => bad f
        | _, .error f => bad f
        | .ok bs, .ok sc => .ok (fillHandle s1 s.cur.blk (dHnd r.desc) (dDswz r.desc) (e * (d.rb + 1)) (bs ++ sc))

/-- ORs flags into TFLAGS. -/
def noteTflags (s : State) (f : FlagSet) : State := setCurTnd s { curTnd s with tflags := (curTnd s).tflags ||| f }

/-- One element of TCVT. -/
def cvtElem (s : State) (r : CopyRec) (e : Nat) : ElemOut :=
  let t := curTask s
  let sf := descrFmt t r.desc2
  let df := descrFmt t r.desc
  let zs := descrSize t r.desc2
  let zd := descrSize t r.desc
  let x := natOf (handleBytes s (dHnd r.desc2) (dDswz r.desc2) (e * zs) zs) % 2 ^ sf.width
  let y := roundTo df r.rnd (e % 32) (sf.decode x)
  .ok (noteTflags (fillHandle s s.cur.blk (dHnd r.desc) (dDswz r.desc) (e * zd) (bytesOf zd y.code)) y.flags)

/-- The result of TRED's sum: an integer destination without saturation is reduced modulo 2^w (R312). -/
def redResult (f : Fmt) (m : Rnd) (sat : Bool) (dth : Nat) (ts : List FVal) : Rounded :=
  match f with
  | .int _ w =>
    if sat then sumRound f m dth ts
    else if ts.any FVal.isNan then nanPick f ts
    else
      let x := sumE m ts
      match x.v with
      | .fin q =>
        let y := Grid.round ⟨0, 0, true⟩ true false m dth q
        ⟨(y.floor % 2 ^ w).toNat, x.flags ||| (if y.eq q then 0 else fNX)⟩
      | _ => roundExact f m dth x
  | _ => sumRound f m dth ts

/-- One element of TRED: a cluster atomic. DESIGN CHOICE (log entry 143): its dither index is e mod 32, as TCVT's (R311). -/
def redElem (s : State) (r : CopyRec) (e : Nat) : ElemOut :=
  let t := curTask s
  let df := descrFmt t r.desc
  let sf := descrFmt t r.desc2
  let zd := descrSize t r.desc
  let zs := descrSize t r.desc2
  let n := ((r.args[0]?).getD 0).toNat
  match globalElem s .atomic .write true (elemAddr r.desc zd (r.args.drop 1) e) zd with
  | .error f => .flt { f with prog := e }
  | .ok (a, s1) =>
    if !tenderRoom s1 1 then .wait s1
    else if poisoned s1 a.pa then .dead (tenderConsumed s1 r.idx (accessFault 0x31 .atomic 0 a.va))
    else
      let cl := curCore s1 / 16
      let old := df.decode (natOf ((List.range zd).map fun j => clusterByte s1 cl (a.pa + j)))
      let term (c : Nat) : FVal :=
        sf.decode (natOf (handleBytes s1 (dHnd r.desc2) (dDswz r.desc2) (c * descrBytes t r.desc2 + e * zs) zs) % 2 ^ sf.width)
      let y := redResult df r.rnd r.sat (e % 32) (old :: (List.range n).map term)
      .ok (noteTflags (tenderPut s1 a.pa (bytesOf zd y.code)) y.flags)

/-- One element, or one row, of a copy word. -/
def copyElem (s : State) (k : Nat) (r : CopyRec) (e : Nat) : ElemOut :=
  let t := curTask s
  let z := descrSize t r.desc
  let h := dHnd r.desc
  let dswz := dDswz r.desc
  match r.op with
  | 0x15 =>
    let off := ((r.args[0]?).getD 0).toNat
    inward s k z e [elemAddr r.desc z (r.args.drop 1) e] fun s bs => fillHandle s s.cur.blk h dswz (off + e * z) bs
  | 0x16 =>
    let off := ((r.args[0]?).getD 0).toNat
    outward s k z e [elemAddr r.desc z (r.args.drop 1) e] (handleBytes s h dswz (off + e * z) z)
  | 0x18 =>
    inward s k z e (rowAddrs s r z e) fun s bs => fillHandle s s.cur.blk h dswz (e * (z * dBox r.desc 0)) bs
  | 0x19 => outward s k z e (rowAddrs s r z e) (handleBytes s h dswz (e * (z * dBox r.desc 0)) (z * dBox r.desc 0))
  | 0x1A => kvRowElem s r e
  | 0x1B => kvRowElem s r e
  | 0x1C => cvtElem s r e
  | 0x1D => redElem s r e
  | 0x1E =>
    inward s k z e [elemAddr r.desc z (r.args.drop 1) e] fun s bs =>
      (maskBlocks ((r.args[0]?).getD 0)).foldl (fun s i => fillHandle s i h dswz (e * z) bs) s
  | _ => .ok s

/-- Elements from the progress on, each after the writes of earlier words to its bytes (R305): how the last one went, and the progress reached. -/
def copyElems (k : Nat) (r : CopyRec) : Nat → Nat → State → ElemOut × Nat
  | 0, e, s => (.ok s, e)
  | n + 1, e, s =>
    if writeBehind s r.seq (elemFoot s r e) then (.wait s, e)
    else match copyElem s k r e with
    | .ok s1 => copyElems k r n (e + 1) s1
    | o => (o, e)

/-! ## Progress and completion of records -/

def recAt (s : State) (k : Nat) : Option CopyRec := (curTnd s).recs.get none k
def setRec (s : State) (k : Nat) (r : Option CopyRec) : State := setCurTnd s { curTnd s with recs := (curTnd s).recs.set none k r }

/-- Whether an older copy word has faulted and has not gone on (R317). -/
def olderStuck (s : State) (r : CopyRec) : Bool := (curTnd s).active.any fun x => x.2.stuck && decide (x.2.seq < r.seq)

/-- Whether the Tender in focus runs with no older copy word at a fault: a fault of the word is reported now, and one that is released goes on. -/
def faultTurn (s : State) (r : CopyRec) : Bool := ((curTnd s).st == .running || (curTnd s).st == .waiting) && !olderStuck s r
/-- A fault of a copy word in flight (R317): it keeps its progress; the Tender is suspended and the fault reported, unless it is suspended or
stopped already or an older word is at a fault, when the word keeps its fault, which is reported after the resumption. -/
def copyFault (s : State) (k : Nat) (r : CopyRec) (f : FaultInfo) : State :=
  if faultTurn s r then suspendTender (setRec s k (some { r with stuck := true, fault := none })) s.cur.gang s.cur.blk r.idx f
  else setRec s k (some { r with stuck := true, fault := some f })

/-- Performs the elements of a record that are left. -/
def runRecord (s : State) (k : Nat) (r : CopyRec) : Bool × State :=
  match copyElems k r (r.count - r.prog) r.prog s with
  | (.ok s1, e) => (true, setRec s1 k (some { r with prog := e }))
  | (.wait s1, e) => (false, setRec s1 k (some { r with prog := e }))
  | (.dead s1, _) => (false, s1)
  | (.flt f, e) =>
    -- the elements before e are performed
    match copyElems k r (e - r.prog) r.prog s with
    | (.ok s1, _) => (false, copyFault s1 k { r with prog := e } f)
    | (_, _) => (false, s)

/-- The finish transitions of a record: block, handle, new state. -/
def finishSides (blk : Nat) (r : CopyRec) : List (Nat × Nat × Nat) :=
  if !r.fin then []
  else match r.op with
    | 0x15 => [(blk, dHnd r.desc, hsFull)]
    | 0x16 => [(blk, dHnd r.desc, hsFree)]
    | 0x1A => [(blk, dHnd r.desc, hsFull)]
    | 0x1B => [(blk, dHnd r.desc, hsFree)]
    | 0x1C => [(blk, dHnd r.desc2, hsFree), (blk, dHnd r.desc, hsFull)]
    | 0x1E => (maskBlocks ((r.args[0]?).getD 0)).map fun i => (i, dHnd r.desc, hsFull)
    | _ => []

/-- The blocks whose queues get the event of a record. -/
def eventBlocks (blk : Nat) (r : CopyRec) : List Nat :=
  if !r.ev then []
  else if r.op = 0x1E then maskBlocks ((r.args[0]?).getD 0)
  else [blk]

/-- The event record of a copy word for a block's queue (R304, R313, R314). -/
def copyEvent (blk target : Nat) (r : CopyRec) : BitVec 128 :=
  let h := if r.op = 0x23 ∨ r.op = 0x24 then 0 else dHnd r.desc
  eventRec (if target = blk then 1 else 3) 1 0 blk r.idx (h + r.moved % 2 ^ 32 * 2 ^ 32)

/-- Whether a finish transition has to wait: for the earlier writes of the Tender through the handle when it is one to FULL, or for the next
clock (R250). -/
def finishWaits (s : State) (gang seq : Nat) (x : Nat × Nat × Nat) : Bool :=
  !canMove s gang x.1 x.2.1 || (x.2.2 == hsFull && writesLeft s gang x.1 x.2.1 seq)
/-- Makes the finish transitions that are left, in order, as far as they go: how many, whether an illegal one ends them, and the state. -/
def makeFinishes (gang seq : Nat) : List (Nat × Nat × Nat) → Nat → State → Nat × Bool × State
  | [], n, s => (n, false, s)
  | x :: r, n, s =>
    if finishWaits s gang seq x then (n, false, s)
    else match transition (handleAt (blockAt s gang x.1) x.2.1) x.2.2 .tender with
      | some e => makeFinishes gang seq r (n + 1) (moveHandle s gang x.1 x.2.1 e)
      | none => (n, true, s)

/-- Whether a record of the word's has to wait: for an earlier word's, since records of one source stand in its program order (R254, R305), and for
the writes of the earlier words, which the record releases (R316). -/
def eventBehind (s : State) (r : CopyRec) : Bool :=
  tenderHostWaits s 16 || (curTnd s).active.any fun x =>
    decide (x.2.seq < r.seq) && ((x.2.ev && decide (x.2.ended < 2)) || x.2.moving || tenderHostWaits s x.1)

/-- What is left of a record whose elements are performed: finish transitions, the host's acknowledgements, the event, its end. -/
def endRecord (s : State) (k : Nat) (r : CopyRec) : State :=
  let gang := s.cur.gang
  let blk := s.cur.blk
  if r.ended = 0 then
    let sides := finishSides blk r
    let x := makeFinishes gang r.seq (sides.drop r.fins) r.fins s
    let r1 := { r with fins := x.1, ended := if x.1 = sides.length then 1 else 0 }
    if x.2.1 then copyFault x.2.2 k r1 (FaultInfo.plain 0x0B) else setRec x.2.2 k (some r1)
  else if r.ended = 1 then
    if tenderHostWaits s k || (r.ev && eventBehind s r) then s
    else
      let s1 := (eventBlocks blk r).foldl (fun s i => postEvent s gang i (posterCopy blk k) (copyEvent blk i r)) s
      setRec s1 k (some { r with ended := 2 })
  else if (eventBlocks blk r).any fun i => postWaits s gang i (posterCopy blk k) then s
  else setRec s k none

/-- Whether the Tender in focus has no program: one whose gang is saved keeps its records until the reload (R425), and they stand still. -/
def tenderIdle (s : State) : Bool := (curTnd s).st == .idle

/-- Whether the Tender in focus moves data: not while it is stopped (R318). -/
def tenderMoves (s : State) : Bool := (curTnd s).st != .stopped

/-- Whether a host access is a request of a record's of the Tender in focus for bytes. -/
def asksFor (s : State) (k : Nat) (a : HostAcc) : Bool := tenderOwns s k a && a.kind == 5
/-- What a record of a stopped Tender still does (R318 step 3): it sends no request; the element whose requests have all come is performed, and what has
come of one that was not wholly requested is dropped. `v` is the record as a copy word, `at_` the record at a progress. -/
def stopElem (s : State) (k : Nat) (v : CopyRec) (at_ : Nat → CopyRec) : State :=
  let mine := s.hostAccs.filter (asksFor s k)
  if mine.isEmpty || mine.any fun a => a.got.isNone then s
  else match copyElems k v 1 v.prog s with
    | (.ok s1, e) => setRec s1 k (some (at_ e))
    | (.dead s1, _) => s1
    | (.flt f, e) => copyFault s k (at_ e) f
    | (.wait _, _) => { s with hostAccs := s.hostAccs.filter fun a => !asksFor s k a }

/-- A TKVR or TKVW counts its bytes by the descriptor, which may have been unreadable at issue (R304, R310). -/
def kvSized (s : State) (r : CopyRec) : CopyRec :=
  if r.op = 0x1A ∨ r.op = 0x1B then match kvDesc s (curTask s) (curLpb s).kvdesc with
    | .ok d => { r with moved := r.count * (d.rb + 1) }
    | .error _ => r
  else r

end Sys2Proof.Machine
end

