-- ==== Sys2Proof/Machine/Matrix.lean ====
section
/-!
DEFINITION. The matrix sequencer: its word frame, faults, sequencer words, synchronisation words, and the issue of engine words (spec/12 R319 to
R327, R341 to R349, spec/13 R371, R372). The sequencer in focus is that of the block in focus.
-/

namespace Sys2Proof.Machine

/-! ## The sequencer in focus and its registers (R319) -/

def curMat (s : State) : Matrix := (curBlock s).mat
def setCurMat (s : State) (m : Matrix) : State := setCurBlock s { curBlock s with mat := m }

/-- Every m register is read and written, m0 included. -/
def readM (m : Matrix) (n : Nat) : W32 := m.m.get 0 n
def writeM (m : Matrix) (n : Nat) (x : W32) : Matrix := { m with m := m.m.set 0 n x }

/-! ## Faults (R348) -/

/-- Suspends a sequencer at a fault of the word at `idx`: a KIND 2 record is posted and the report routed. -/
def suspendMatrix (s : State) (gang blk : Nat) (idx : W32) (f : FaultInfo) : State :=
  let words := faultWords s gang 2 blk 0 idx 0 f
  let b := blockAt s gang blk
  let s1 := setBlockAt s gang blk { b with mat := { b.mat with st := .suspended } }
  let s2 := postEvent s1 gang blk posterSuspend (eventRec 2 2 0 blk idx (f.va % 2 ^ 52 + f.code * 2 ^ 56))
  routeRecord s2 gang 2 blk 0 f.code words

/-- A fault of a word of the sequencer in focus. -/
def matrixFault (s : State) (idx : W32) (f : FaultInfo) : State := suspendMatrix s s.cur.gang s.cur.blk idx f

/-- A consumed error of a matrix word (R419). -/
def matrixConsumed (s : State) (idx : W32) (f : FaultInfo) : State :=
  killGang s s.cur.gang 0x31 (faultWords s s.cur.gang 2 s.cur.blk 0 idx 0 { f with code := 0x31 })

/-- The matrix-stream illegal fault. -/
def matrixIllegal : FaultInfo := FaultInfo.plain 0x15

/-! ## The word frame (R321) -/

/-- What a word of the sequencer does. -/
inductive MRes where
  /-- performed; goes on at the next word -/
  | ok (s : State)
  /-- a taken transfer -/
  | jump (s : State) (target : W32)
  /-- waits at the word -/
  | wait (s : State)
  /-- performed; the state already says how the stream stands -/
  | stop (s : State)
  | flt (f : FaultInfo)

/-- Issues a word of the sequencer in focus; `wf` says that its fields are legal. A transfer's target issues two clocks later. -/
def matrixIssue (wf : Bool) (body : State → MRes) (s : State) : Out :=
  let m := curMat s
  if m.st ≠ .running ∧ m.st ≠ .waiting then .next s
  else if !wf then .next (matrixFault s m.mpc matrixIllegal)
  else
    match body s with
    | .ok s1 => .next (setCurMat s1 { curMat s1 with mpc := m.mpc + 1, st := .running, held := 0 })
    | .jump s1 target => .next (setCurMat s1 { curMat s1 with mpc := target, st := .running, held := 0 })
    | .wait s1 => .next (setCurMat s1 { curMat s1 with st := .waiting })
    | .stop s1 => .next s1
    | .flt f => .next (matrixFault s m.mpc f)

/-! ## Sequencer words (R323 to R327) -/

/-- MATRIX_STREAM_ILLEGAL (R98). -/
def execMatrixStreamIllegal (_w : BitVec 32) (s : State) : Out := matrixIssue true (fun _ => .flt matrixIllegal) s

/-- MNOP. -/
def execMnop (s : State) : Out := matrixIssue true (fun s => .ok s) s

/-- MLI. -/
def execMli (md : BitVec 5) (imm : BitVec 19) (s : State) : Out :=
  matrixIssue true (fun s => .ok (setCurMat s (writeM (curMat s) md.toNat (imm.signExtend 32)))) s

/-- MADDI. -/
def execMaddi (md : BitVec 5) (imm : BitVec 19) (s : State) : Out :=
  matrixIssue true
    (fun s => .ok (setCurMat s (writeM (curMat s) md.toNat (readM (curMat s) md.toNat + imm.signExtend 32)))) s

/-- The condition of MBR. -/
def matrixCond (cond : Nat) (x : W32) : Bool :=
  match cond with
  | 0 => true
  | 1 => x == 0
  | 2 => x != 0
  | 3 => decide (x.toInt < 0)
  | _ => decide (0 ≤ x.toInt)

/-- MBR. -/
def execMbr (ma : BitVec 5) (cond : BitVec 3) (off : BitVec 16) (s : State) : Out :=
  matrixIssue (decide (cond.toNat ≤ 4) && (cond != 0 || ma == 0))
    (fun s =>
      let m := curMat s
      if matrixCond cond.toNat (readM m ma.toNat) then .jump s (m.mpc + off.signExtend 32) else .ok s) s

/-- MLOOP. -/
def execMloop (ma : BitVec 5) (off : BitVec 16) (s : State) : Out :=
  matrixIssue true
    (fun s =>
      let m := curMat s
      let x := readM m ma.toNat
      if x = 0 then .ok s
      else
        let s1 := setCurMat s (writeM m ma.toNat (x - 1))
        if x - 1 = 0 then .ok s1 else .jump s1 (m.mpc + off.signExtend 32)) s

/-- MSETF. -/
def execMsetf (ma : BitVec 5) (s : State) : Out :=
  matrixIssue true
    (fun s =>
      let m := curMat s
      let x := readM m ma.toNat
      if x.toNat / 2 ^ 13 ≠ 0 then .flt matrixIllegal else .ok (setCurMat s { m with mfmt := x })) s

/-- The 9 bits of K (R319): the register's value, a value beyond them held as 511, which like it lies outside 1 to 256 (R325, log entry 42). -/
def tileK (x : W32) : Nat := min x.toNat 511
/-- MTILE. -/
def execMtile (mc nc : BitVec 4) (ma : BitVec 5) (s : State) : Out :=
  matrixIssue true
    (fun s =>
      let m := curMat s
      .ok (setCurMat s { m with tm := mc.toNat, tn := nc.toNat, tk := tileK (readM m ma.toNat) })) s

/-- Bits 30 to 19 of a map reference that makes a lookup. -/
def mrefBad (x : W32) : Bool := !x.getLsbD 31 && x.toNat / 2 ^ 19 % 2 ^ 12 != 0

/-- MBIND: slots 0 A, 1 B, 2 C, 3 map. -/
def execMbind (slot : BitVec 2) (h : BitVec 6) (ma mb : BitVec 5) (s : State) : Out :=
  matrixIssue ((slot != 2 || mb == 0) && (slot != 3 || (ma == 0 && mb == 0)))
    (fun s =>
      let m := curMat s
      let bind (off mref : W32) : MRes :=
        .ok (setCurMat s { m with binds := m.binds.set Bind.zero slot.toNat ⟨0, h.toNat, off, mref⟩ })
      match slot.toNat with
      | 2 => bind (readM m ma.toNat) 0
      | 3 => bind 0 0
      | _ => if mrefBad (readM m mb.toNat) then .flt matrixIllegal else bind (readM m ma.toNat) (readM m mb.toNat)) s

/-- MRMT: the binding's map reference holds the join mask. -/
def execMrmt (src : BitVec 5) (slot : BitVec 2) (h : BitVec 6) (ma mb : BitVec 5) (s : State) : Out :=
  matrixIssue (decide (src.toNat ≤ 15) && decide (slot.toNat ≤ 1))
    (fun s =>
      let m := curMat s
      let mask := readM m mb.toNat
      if mask.toNat / 2 ^ 16 ≠ 0 then .flt matrixIllegal
      else .ok (setCurMat s { m with binds := m.binds.set Bind.zero slot.toNat ⟨src.toNat + 1, h.toNat, readM m ma.toNat, mask⟩ })) s

/-! ## Synchronisation and status (R344 to R346, R323) -/

def matrixArrivals (m : Matrix) : Arrivals := ⟨m.arr, m.ever, m.barWait⟩

/-- MBAR: an arrival waits for the earlier engine words. -/
def execMbar (g : Bool) (mode : BitVec 2) (n : BitVec 4) (s : State) : Out :=
  matrixIssue (decide (mode.toNat ≤ 2) && (!g || decide (n.toNat ≤ 3)))
    (fun s =>
      let m := curMat s
      let b := if g then 16 + n.toNat else n.toNat
      if mode ≠ 2 && m.barWait.isNone && m.arr.get 0 b = 0 && !m.queue.isEmpty then .wait s
      else
        let r := barrierWord s s.cur.gang s.cur.blk b mode.toNat (matrixArrivals m)
        let s1 := setCurMat s { m with arr := r.2.2.arr, ever := r.2.2.ever, barWait := r.2.2.wait }
        let s2 := if r.2.1 then countArrival s1 s.cur.gang s.cur.blk b else s1
        match r.1 with
        | .fault => .flt (FaultInfo.plain 0x0A)
        | .wait => .wait s2
        | .done => .ok s2) s

/-- The block that MWAITH and MHSET act in, and the engine they act as; none beyond the gang's blocks. -/
def handleBlock (s : State) (md : BitVec 5) : Option (Nat × Engine) :=
  if md.toNat < 16 then some (s.cur.blk, .matrix)
  else if (curLpb s).blocks ≤ md.toNat - 16 then none
  else some (md.toNat - 16, .remote)

/-- MWAITH. -/
def execMwaith (md : BitVec 5) (h : BitVec 6) (st : BitVec 2) (ph : BitVec 1) (s : State) : Out :=
  matrixIssue (decide (16 ≤ md.toNat) || md == 0)
    (fun s =>
      match handleBlock s md with
      | none => .flt (FaultInfo.plain 0x12)
      | some (blk, _) =>
        let e := handleAt (blockAt s s.cur.gang blk) h.toNat
        if hState e = st.toNat ∧ hPhase e = ph.toNat then .ok s else .wait s) s

/-- Whether an engine word writes through handle h of its own block: an epilogue its destination, the map where it has a tile number, and C where it
zeroes it; MEPKV none; the other words C. -/
def EngWord.writesHandle (w : EngWord) (h : Nat) : Bool :=
  if w.op = 0x0D then
    w.x / 8 % 64 == h || (bitsOf w.ma 0 5 == 12 && !w.mb.getLsbD 31 && w.bindMap.h == h) || (w.ma.getLsbD 15 && w.bindC.h == h)
  else w.op != 0x0E && w.bindC.h == h
/-- Whether a queued engine word of a block has a write through a handle that has not landed. -/
def engineWrites (s : State) (gang blk h : Nat) : Bool :=
  (blockAt s gang blk).mat.queue.any fun w => w.writesHandle h && (w.stage != 1 || w.late || entriesLeft s gang blk w)

/-- MHSET: to FULL only once the engine's earlier writes through the handle have landed; one transition of a handle a clock (R250). -/
def execMhset (md : BitVec 5) (h : BitVec 6) (st : BitVec 2) (s : State) : Out :=
  matrixIssue (decide (16 ≤ md.toNat) || md == 0)
    (fun s =>
      match handleBlock s md with
      | none => .flt (FaultInfo.plain 0x12)
      | some (blk, eng) =>
        let b := blockAt s s.cur.gang blk
        if (st = 2 && blk == s.cur.blk && engineWrites s s.cur.gang blk h.toNat) || !canMove s s.cur.gang blk h.toNat then .wait s
        else match transition (handleAt b h.toNat) st.toNat eng with
          | none => .flt (FaultInfo.plain 0x0B)
          | some e => .ok (moveHandle s s.cur.gang blk h.toNat e)) s

/-- MCHK. -/
def execMchk (c : Bool) (md : BitVec 5) (s : State) : Out :=
  matrixIssue true
    (fun s =>
      let m := curMat s
      if !m.queue.isEmpty then .wait s
      else
        let m1 := writeM m md.toNat (m.mflags.setWidth 32)
        .ok (setCurMat s (if c then { m1 with mflags := 0 } else m1))) s

/-- What MSTAT reads. -/
def matrixStatus (s : State) (sel : Nat) : W32 :=
  let m := curMat s
  match sel with
  | 0 => m.epc
  | 1 => m.qord
  | 2 => m.nwid
  | 3 => m.nclip
  | 4 => BitVec.ofNat 32 (curGang s).budget
  | 5 => BitVec.ofNat 32 (coreAt s (curCore s)).mirror
  | _ => BitVec.ofNat 32 s.now

/-- MSTAT. -/
def execMstat (md : BitVec 5) (sel : BitVec 4) (s : State) : Out :=
  matrixIssue (decide (sel.toNat ≤ 6))
    (fun s =>
      if !(curMat s).queue.isEmpty then .wait s
      else .ok (setCurMat s (writeM (curMat s) md.toNat (matrixStatus s sel.toNat)))) s

/-- MEND: posts once the queue is empty, then the stream has ended. -/
def execMend (s : State) : Out :=
  matrixIssue true
    (fun s =>
      let m := curMat s
      if !m.queue.isEmpty then .wait s
      else
        let s1 := if m.held = 0 then
            setCurMat (postEvent s s.cur.gang s.cur.blk posterMatrix (eventRec 2 3 0 s.cur.blk m.mpc m.mflags.toNat)) { m with held := 1 }
          else s
        if postWaits s1 s.cur.gang s.cur.blk posterMatrix then .wait s1
        else .stop (setCurMat s1 { curMat s1 with st := .ended, held := 0 })) s

/-! ## Engine words at issue (R321, R327, R338, R341, R343) -/

/-- The numbers of rows and columns of a geometry code. -/
def tileDim (code : Nat) : Nat := 8 * (code + 1)

/-- An engine word with everything it captures. -/
def captureWord (m : Matrix) (op x : Nat) (md ma mb : BitVec 5) : EngWord :=
  { op := op, idx := m.mpc, bindA := m.binds.get Bind.zero 0, bindB := m.binds.get Bind.zero 1, bindC := m.binds.get Bind.zero 2,
    bindMap := m.binds.get Bind.zero 3, mfmt := m.mfmt, m := tileDim m.tm, n := tileDim m.tn, k := m.tk, md := readM m md.toNat,
    ma := readM m ma.toNat, mb := readM m mb.toNat, mc := readM m (mb.toNat + 1), x := x, epc := m.epc, qord := m.qord, joinA := 0, joinB := 0,
    stage := 0, prog := 0, rows := [], begun := false, ended := 0, flags := 0, data := 0, seq := 0, kstep := 0, toPark := [], held := 0,
    resv := false, stuck := false, wideA := false, wideB := false }

/-- What the members of a join must agree on (R327): the source, M, N, K, the formats, which leave `ZP` out, and the release flag. -/
def joinVals (w : EngWord) (b : Bind) (rel : Bool) : List Nat :=
  [b.remote, b.h, b.off.toNat, w.m, w.n, w.k, bitsOf w.mfmt 0 12, if rel then 1 else 0]


/-- A block's word on a joined binding enters the oldest join of that slot and mask that lacks the block, or begins one: the join's number
plus 1, 0 where the word takes part in none. A mask without the block's own bit makes no join. -/
def enterJoin (g : Gang) (blk slot : Nat) (b : Bind) (vals : List Nat) : Nat × Gang :=
  let mask := b.mref.toNat
  if b.remote = 0 ∨ mask = 0 ∨ mask / 2 ^ blk % 2 = 0 then (0, g)
  else
    match g.joins.find? fun j => j.slot == slot && j.mask == mask && !(j.vals.any fun v => v.1 == blk) with
    | some j =>
      (j.id + 1, { g with joins := g.joins.map fun x => if x.id = j.id then { x with vals := x.vals ++ [(blk, vals)] } else x })
    | none =>
      (g.nextJoin + 1, { g with joins := g.joins ++ [⟨g.nextJoin, slot, mask, [(blk, vals)], none, []⟩], nextJoin := g.nextJoin + 1 })

/-- An engine word enters the operation queue; the sequencer waits while it holds four. `counts` adds one to `EPC`, `ord` to `QORD`. -/
def engineIssue (wf : Bool) (op x : Nat) (md ma mb : BitVec 5) (legal : State → EngWord → Bool) (counts : Bool) (ord : EngWord → Bool)
    (s : State) : Out :=
  matrixIssue wf
    (fun s =>
      let m := curMat s
      if 4 ≤ m.queue.length then .wait s
      else
        let w := captureWord m op x md ma mb
        if !legal s w then .flt matrixIllegal
        else
          let ja := if w.usesA then enterJoin (curGang s) s.cur.blk 0 w.bindA (joinVals w w.bindA w.ra) else (0, curGang s)
          let jb := if w.usesB then enterJoin ja.2 s.cur.blk 1 w.bindB (joinVals w w.bindB w.rb) else (0, ja.2)
          let s1 := setCurGang { s with nextFlight := s.nextFlight + 1 } jb.2
          let m1 := { m with
            queue := m.queue ++ [{ w with joinA := ja.1, joinB := jb.1, seq := s.nextFlight }]
            epc := if counts then m.epc + 1 else m.epc
            qord := if ord w then m.qord + 1 else m.qord }
          .ok (setCurMat s1 m1)) s

/-- MZERO. -/
def execMzero (s : State) : Out := engineIssue true 0x0A 0 0 0 0 (fun _ _ => true) false (fun _ => false) s

/-- Flag bits of a word's x field. -/
def bit01 (b : Bool) : Nat := if b then 1 else 0

/-- MMA. -/
def execMma (ra rb ev : Bool) (s : State) : Out :=
  engineIssue true 0x0B (bit01 ra + 2 * bit01 rb + 4 * bit01 ev) 0 0 0 (fun _ _ => true) false (fun _ => false) s
/-- MMAS. -/
def execMmas (ra rb ev : Bool) (s : State) : Out :=
  engineIssue true 0x0C (bit01 ra + 2 * bit01 rb + 4 * bit01 ev) 0 0 0 (fun _ _ => true) false (fun _ => false) s

/-! ### The epilogue control word (R338) -/

def ctlSatt (c : W32) : Nat := bitsOf c 16 3
def ctlZero (c : W32) : Bool := c.getLsbD 15
def ctlDswz (c : W32) : Nat := bitsOf c 12 3
def ctlRnd (c : W32) : Rnd := Rnd.ofCode (bitsOf c 9 3)
def ctlNfs (c : W32) : Nat := bitsOf c 5 4
def ctlOtype (c : W32) : Nat := bitsOf c 0 5
/-- Reserved bits and illegal codes. -/
def ctlOk (c : W32) : Bool := bitsOf c 19 13 == 0 && decide (ctlDswz c ≤ 4) && decide (bitsOf c 9 3 ≤ 5) && decide (ctlOtype c ≤ 12)
/-- A tile number: bit 31 says none. -/
def tileOk (t : W32) : Bool := t.getLsbD 31 || bitsOf t 13 18 == 0
/-- A quantising epilogue with a tile number takes an ordinal (R341). -/
def takesOrdinal (w : EngWord) : Bool := w.op == 0x0D && ctlOtype w.ma == 12 && !w.mb.getLsbD 31

/-- MEPI; m[ma] is the control word, m[mb] the tile number. -/
def execMepi (h : BitVec 6) (bg fin ev : Bool) (md ma mb : BitVec 5) (s : State) : Out :=
  engineIssue true 0x0D (bit01 bg + 2 * bit01 fin + 4 * bit01 ev + 8 * h.toNat) md ma mb (fun _ w => ctlOk w.ma && tileOk w.mb) true takesOrdinal s

/-- MEPKV; without a KV space it is illegal (R30). -/
def execMepkv (rot : Bool) (rnd : BitVec 3) (ev : Bool) (md ma mb : BitVec 5) (s : State) : Out :=
  engineIssue (rndOk rnd) 0x0E (256 * bit01 rot + 8 * rnd.toNat + 4 * bit01 ev) md ma mb (fun s _ => (curLpb s).kvdesc != 0) true
    (fun _ => false) s

/-- ATT; EPC counts it (R343, log entry 41). -/
def execAtt (causal : Bool) (pf : BitVec 2) (rnd : BitVec 3) (ev : Bool) (md ma mb : BitVec 5) (s : State) : Out :=
  engineIssue (rndOk rnd && pf != 3) 0x0F (256 * bit01 causal + 64 * pf.toNat + 8 * rnd.toNat + 4 * bit01 ev) md ma mb
    (fun s _ => (curLpb s).kvdesc != 0 && (!causal || mb != 31)) true (fun _ => false) s

end Sys2Proof.Machine
end

