-- ==== Sys2Proof/Machine/Engine.lean ====
section
/-!
DEFINITION. The matrix engine: operand formats and layouts, the checks of engine words, MZERO, MMA, MMAS and MEPI, the escalation budget, and the
completion of engine words (spec/12 R324, R325, R327 to R343, R348).
-/

namespace Sys2Proof.Machine

/-! ## Operand formats and layouts (R324, R328) -/

/-- The format of an operand, or of an epilogue's output. -/
inductive OpFmt where
  | plain (f : Fmt)
  | blocked (n : NFmt)

/-- The format of narrow slot i; none when its descriptor is illegal. -/
def slotFmt (t : Task) (i : Nat) : Option OpFmt :=
  let n := nfSlot t i
  if !nfSlotOk t i then none else if n.blk = 0 then some (.plain (.nar n)) else some (.blocked n)

/-- The format that a code of MFMT and its slot name; a widened operand is bf16. -/
def operandFmt (t : Task) (code slot : Nat) (wide : Bool) : Option OpFmt :=
  if wide then some (.plain .bf16)
  else match code with
    | 0 => some (.plain .f16)
    | 1 => some (.plain .bf16)
    | 2 => some (.plain .f32)
    | _ => slotFmt t slot

/-- The K-step of a narrow width. -/
def narrowStep (w : Nat) : Nat := if w ≤ 4 then 32 else 16
/-- The K-step of a format (R324). -/
def OpFmt.step : OpFmt → Nat
  | .plain (.nar n) => narrowStep n.width
  | .plain f => if f.width = 32 then 2 else 8
  | .blocked n => narrowStep n.width

/-- The element format when unblocked. -/
def OpFmt.plain? : OpFmt → Option Fmt
  | .plain f => some f
  | .blocked _ => none
/-- The block size, 0 when unblocked. -/
def OpFmt.blk : OpFmt → Nat
  | .plain _ => 0
  | .blocked n => n.blk

/-- The bytes of a row of K elements. -/
def OpFmt.rowRaw (k : Nat) : OpFmt → Nat
  | .plain f => (k * f.width + 7) / 8
  | .blocked n => k / n.blk * n.recBytes
/-- The pitch of rows: their length rounded up to a multiple of 16. -/
def OpFmt.pitch (k : Nat) (f : OpFmt) : Nat := (f.rowRaw k + 15) / 16 * 16

/-- The value of one unblocked code; a companded one is rounded to binary32 (log entry 26), its flags discarded. -/
def plainElem (f : Fmt) (code : Nat) : FVal :=
  match f with
  | .nar n => if n.curve.isEmpty then n.decode code else Fmt.f32.decode (roundTo .f32 .rne 0 (n.decode code)).code
  | _ => f.decode code

/-- The exact values of a row of K elements. -/
def OpFmt.rowElems (t : Task) (k : Nat) (bs : List Byte) : OpFmt → List FVal
  | .plain f => let x := natOf bs; (List.range k).map fun i => plainElem f (x / 2 ^ (i * f.width) % 2 ^ f.width)
  | .blocked n => (List.range (k / n.blk)).flatMap fun j => blockDecode n (scaleFmt t n) .f32 ((bs.drop (j * n.recBytes)).take n.recBytes)

/-- The rows of an operand whose byte at a binding-relative offset is `src`. -/
def operandRows (t : Task) (f : OpFmt) (rows k : Nat) (src : Nat → Byte) : List (List FVal) :=
  (List.range rows).map fun i => f.rowElems t k ((List.range (f.rowRaw k)).map fun j => src (i * f.pitch k + j))

/-- The bytes of a bitmap row. -/
def bitmapRow (k : Nat) : Nat := (k + 7) / 8
/-- The bitmap rows after an operand's rows. -/
def bitmapRows (f : OpFmt) (rows k : Nat) (src : Nat → Byte) : List (List Bool) :=
  (List.range rows).map fun r => (List.range k).map fun i => (src (rows * f.pitch k + r * bitmapRow k + i / 8)).getLsbD (i % 8)

/-! ## Bindings -/

/-- The block whose handle a binding names, and the engine it is used as (R327). -/
def Bind.block (b : Bind) (own : Nat) : Nat := if b.remote = 0 then own else b.remote - 1
def Bind.engine (b : Bind) : Engine := if b.remote = 0 then .matrix else .remote
/-- The entry of a binding's handle. -/
def bindEntry (s : State) (gang blk : Nat) (b : Bind) : HEntry := handleAt (blockAt s gang (b.block blk)) b.h

/-- Step 2 of R348 for one binding: the source and the mask, then a join whose lowest member's values differ. -/
def remoteFault (s : State) (gang blk join : Nat) (b : Bind) : Option FaultInfo :=
  let blocks := (taskAt s (gangAt s gang).task).lpb.blocks
  let mask := b.mref.toNat
  if b.remote = 0 then none
  else if blocks < b.remote || decide (2 ^ blocks ≤ mask) || (mask != 0 && mask / 2 ^ blk % 2 == 0) then some (FaultInfo.plain 0x12)
  else match (gangAt s gang).joins.find? fun j => j.id + 1 == join with
    | none => none
    | some j =>
      let low := (List.range 16).find? fun i => mask / 2 ^ i % 2 == 1
      let at_ (i : Nat) : Option (List Nat) := (j.vals.find? fun v => v.1 == i).map Prod.snd
      match low.bind at_, at_ blk with
      | some a, some c => failIf (a != c) 0x12
      | _, _ => none

/-- What a map lookup finds (R328, step 3 of R348). -/
inductive MapOut where
  | wide (b : Bool)
  | wait
  | flt (f : FaultInfo)

/-- The map lookup of an A or B binding. -/
def mapLookup (s : State) (gang blk : Nat) (b : Bind) : MapOut :=
  if b.remote ≠ 0 || b.mref.getLsbD 31 then .wide false
  else
    let k := blockAt s gang blk
    let e := handleAt k (bitsOf b.mref 0 6)
    let t := bitsOf b.mref 6 13
    if 2 ≤ hBuf e then .flt (FaultInfo.plain 0x17)
    else if !maskOk e .matrix .read || !inExt e t 1 || !swzLegal e then .flt (FaultInfo.plain 0x0B)
    else if !swzMatch e .read then .flt (FaultInfo.plain 0x0C)
    else if !stateOk e .read then .wait
    else match (handleByte k e (hSwz e) t).toNat with
      | 0 => .wide false
      | 1 => .wide true
      | _ => .flt (FaultInfo.plain 0x17)

/-- Step 6 of R348 on one handle: tests 1 to 3 of R248, the offset rule, tests 4 and 5. -/
def slotFault (e : HEntry) (g : Engine) (a : HAccess) (bufOk : Bool) (off n : Nat) (aligned : Bool) : Option FaultInfo :=
  firstFault
    [failIf (!bufOk || !maskOk e g a || !inExt e off n) 0x0B, failIf (aligned && off % 16 != 0) 0x0B, failIf (!swzLegal e) 0x0B,
     failIf (!swzMatch e a) 0x0C]

/-- Step 6 on the C handle for n elements. -/
def cFault (s : State) (gang blk : Nat) (w : EngWord) (n : Nat) : Option FaultInfo :=
  let e := bindEntry s gang blk w.bindC
  slotFault e .matrix .atomic (hBuf e == 2) w.bindC.off.toNat (16 * n) true
/-- Step 7 on the C handle. -/
def cReady (s : State) (gang blk : Nat) (w : EngWord) : Bool := stateOk (bindEntry s gang blk w.bindC) .atomic
/-- The element index of C element k. -/
def cCell (s : State) (gang blk : Nat) (w : EngWord) (k : Nat) : Nat :=
  let e := bindEntry s gang blk w.bindC
  laIndex e (hSwz e) (w.bindC.off.toNat + 16 * k)
/-- C's fill notes the handle's swizzle (R252). -/
def noteC (s : State) (gang blk : Nat) (w : EngWord) : State :=
  let b := blockAt s gang blk
  let e := handleAt b w.bindC.h
  setBlockAt s gang blk (setHandle b w.bindC.h (noteSwz e (hSwz e)))

/-- An A or B operand at the start of its word. -/
structure Operand where
  b : Bind
  join : Nat
  /-- the buffer that holds it: 0 the A-buffer, 1 the W-buffer (R244, log entry 98) -/
  buf : Nat
  fmt : OpFmt
  rows : Nat
  /-- bytes of the operand, and of its bitmap -/
  len : Nat
  extra : Nat

/-- Steps 6 on an operand's handle, then on its bitmap. -/
def operandFault (s : State) (gang blk : Nat) (o : Operand) : Option FaultInfo :=
  let e := bindEntry s gang blk o.b
  slotFault e o.b.engine .read (hBuf e == o.buf) o.b.off.toNat o.len true
def bitmapFault (s : State) (gang blk : Nat) (o : Operand) : Option FaultInfo :=
  let e := bindEntry s gang blk o.b
  if o.extra = 0 then none else slotFault e o.b.engine .read (hBuf e == o.buf) (o.b.off.toNat + o.len) o.extra true

/-- Step 7 on an operand: the handle's state, unless a join has read it already, and every member's word. -/
def operandReady (s : State) (gang blk : Nat) (o : Operand) : Bool :=
  match (gangAt s gang).joins.find? fun j => j.id + 1 == o.join with
  | none => stateOk (bindEntry s gang blk o.b) .read
  | some j =>
    if j.data.isSome then true
    else
      let vals := j.vals.map Prod.snd
      ((List.range 16).all fun i => j.mask / 2 ^ i % 2 == 0 || j.vals.any fun v => v.1 == i)
        && vals.all (fun v => vals.all fun u => u == v) && stateOk (bindEntry s gang blk o.b) .read

/-- The bytes of an operand: from the join's one read, else from the handle; the read of a join is kept (R327). -/
def operandBytes (s : State) (gang blk : Nat) (o : Operand) : List Byte × State :=
  let e := bindEntry s gang blk o.b
  let k := blockAt s gang (o.b.block blk)
  let here := (List.range (o.len + o.extra)).map fun j => handleByte k e (hSwz e) (o.b.off.toNat + j)
  let g := gangAt s gang
  match g.joins.find? fun j => j.id + 1 == o.join with
  | none => (here, s)
  | some j =>
    match j.data with
    | some d => (d, s)
    | none => (here, setGangAt s gang { g with joins := g.joins.map fun x => if x.id = j.id then { x with data := some here } else x })
def byteIn (bs : List Byte) (k : Nat) : Byte := (bs[k]?).getD 0

/-! ## Outcomes -/

/-- What the start of an engine word gives. -/
inductive EngOut where
  /-- as far as it goes: the word as it stands after -/
  | done (s : State) (w : EngWord)
  | wait (s : State)
  | flt (f : FaultInfo)
  /-- a fault at a later point: the word at its restart point -/
  | fltAt (s : State) (w : EngWord) (f : FaultInfo)
  | dead (s : State)

/-- An engine word that consumes an error (R419). -/
def engineDead (s : State) (gang blk : Nat) (w : EngWord) : EngOut :=
  .dead (killGang s gang 0x31 (faultWords s gang 2 blk 0 w.idx 0 (FaultInfo.plain 0x31)))
/-- A spill record that fails its check (R137, R419); the core counts the error (R432). -/
def badRecord (s : State) (gang blk : Nat) (w : EngWord) : EngOut := engineDead (countAt s 1 (coreOf s gang blk) 0) gang blk w

/-! ## MZERO, MMA, MMAS (R331, R332, R335) -/

/-- Writes C elements as MZERO does. -/
def zeroCells (gang blk : Nat) : List Nat → State → State
  | [], s => s
  | e :: r, s => zeroCells gang blk r (setLa (spillFree s gang blk e (laAt s gang blk e)) gang blk e (laZero 1))
def cCells (s : State) (gang blk : Nat) (w : EngWord) (n : Nat) : List Nat := (List.range n).map (cCell s gang blk w)

/-- MZERO. -/
def startZero (s : State) (gang blk : Nat) (w : EngWord) : EngOut :=
  match cFault s gang blk w (w.m * w.n) with
  | some f => .flt f
  | none =>
    let cells := cCells s gang blk w (w.m * w.n)
    if !cReady s gang blk w || cells.any (elemBusy s gang blk) then .wait s
    else .done (noteC (zeroCells gang blk cells s) gang blk w) { w with stage := 1 }

/-- One product (R331, R133): its exact value and flags. -/
def productE (zp : Bool) (x y : FVal) : FVal × FlagSet :=
  if zp && (x.isZero || y.isZero) then (.zero (x.sign != y.sign), 0)
  else if x.isNan || y.isNan then
    let r := nanPick .f64 [x, y]
    (Fmt.f64.decode r.code, r.flags)
  else
    let p := mulE x y
    (p.v, p.flags)

/-- The products of a row of A with a row of B in increasing k; where a bitmap bit is 0 there is none. -/
def rowProducts (zp : Bool) : List FVal → List FVal → List Bool → List FVal × FlagSet
  | x :: xs, y :: ys, k :: ks =>
    let r := rowProducts zp xs ys ks
    if k then
      let p := productE zp x y
      (p.1 :: r.1, p.2 ||| r.2)
    else r
  | _, _, _ => ([], 0)

/-- Whether contributions to an element must wait for its entries: a non-finite one discards those of contributions (R332). -/
def mustWait (s : State) (gang blk : Nat) (x : Nat × List FVal × FlagSet) : Bool :=
  !x.2.1.isEmpty && (elemRounding s gang blk x.1 || (!(x.2.1.any fun c => c.isNan || c.isInf) && elemPending s gang blk x.1))
/-- What a step of contributions makes of an element: the state, the entries to be parked, the flags. -/
def performStep (gang blk : Nat) (w : EngWord) (e : Nat) (x : LaStep) (s : State) : State × List ParkEntry × FlagSet :=
  match x with
  | .same f => (s, [], f)
  | .park first ws f => (s, windowEntries s gang blk w e first ws, f)
  | .store y f =>
    let s1 := if elemPending s gang blk e then discardPending s gang blk e else s
    (setLa (spillFree s1 gang blk e (laAt s1 gang blk e)) gang blk e y, [], f)
/-- Contributions to elements, each with the flags of its products: the state, the entries to be parked, the flags. -/
def contribute (gang blk : Nat) (w : EngWord) : List (Nat × List FVal × FlagSet) → State → State × List ParkEntry × FlagSet
  | [], s => (s, [], 0)
  | (e, cs, f) :: r, s =>
    let x := performStep gang blk w e (laStep (laAt s gang blk e) cs) s
    let y := contribute gang blk w r x.1
    (y.1, x.2.1 ++ y.2.1, f ||| x.2.2 ||| y.2.2)

/-- The ZP bit of MFMT, and the format fields. -/
def mfmtZp (x : W32) : Bool := x.getLsbD 12
def mfmtA (x : W32) : Nat × Nat := (bitsOf x 0 2, bitsOf x 2 4)
def mfmtB (x : W32) : Nat × Nat := (bitsOf x 6 2, bitsOf x 8 4)

/-- The formats of A and B as the map lookups leave them; none where a slot is illegal. -/
def mmaFmts (t : Task) (w : EngWord) : Option (OpFmt × OpFmt) :=
  match operandFmt t (mfmtA w.mfmt).1 (mfmtA w.mfmt).2 w.wideA, operandFmt t (mfmtB w.mfmt).1 (mfmtB w.mfmt).2 w.wideB with
  | some a, some b => some (a, b)
  | _, _ => none
/-- The operands in their formats. -/
def mmaPair (w : EngWord) (fa fb : OpFmt) : Operand × Operand :=
  let bm (rows : Nat) : Nat := if w.op = 0x0C then rows * bitmapRow w.k else 0
  (⟨w.bindA, w.joinA, 0, fa, w.m, w.m * fa.pitch w.k, bm w.m⟩, ⟨w.bindB, w.joinB, 1, fb, w.n, w.n * fb.pitch w.k, bm w.n⟩)

/-- The checks of R348 on MMA and MMAS that come before the handles, with the word and the operands as the lookups leave them. -/
def mmaOperands (s : State) (gang blk : Nat) (w : EngWord) : Except EngOut (EngWord × Operand × Operand) :=
  match firstFault [remoteFault s gang blk w.joinA w.bindA, remoteFault s gang blk w.joinB w.bindB] with
  | some f => .error (.flt f)
  | none =>
    match mapLookup s gang blk w.bindA with
    | .flt f => .error (.flt f)
    | .wait => .error (.wait s)
    | .wide wa =>
      match mapLookup s gang blk w.bindB with
      | .flt f => .error (.flt f)
      | .wait => .error (.wait s)
      | .wide wb =>
        let w1 := { w with wideA := wa, wideB := wb }
        match mmaFmts (taskAt s (gangAt s gang).task) w1 with
        | none => .error (.flt (FaultInfo.plain 0x04))
        | some (fa, fb) =>
          let ks := min fa.step fb.step
          let shape := decide (w.k < 1) || decide (256 < w.k) || w.k % ks != 0 || (fa.blk != 0 && w.k % fa.blk != 0)
            || (fb.blk != 0 && w.k % fb.blk != 0)
          if shape then .error (.flt (FaultInfo.plain 0x16)) else .ok (w1, mmaPair w1 fa fb)

/-- The start of MMA and MMAS: checks, waits, the reservation of park entries, and the one read of each join. -/
def startMma (s : State) (gang blk : Nat) (w : EngWord) : EngOut :=
  match mmaOperands s gang blk w with
  | .error o => o
  | .ok (w1, a, b) =>
    match firstFault [operandFault s gang blk a, operandFault s gang blk b, bitmapFault s gang blk a, bitmapFault s gang blk b,
                      cFault s gang blk w (w.m * w.n)] with
    | some f => .flt f
    | none =>
      if !operandReady s gang blk a || !operandReady s gang blk b || !cReady s gang blk w then .wait s
      else match reserveEntries s gang blk w1 with
        | none => .wait s
        | some (s1, w2) =>
          let s2 := (operandBytes (operandBytes s1 gang blk a).2 gang blk b).2
          .done (noteC s2 gang blk w) { w2 with stage := 3, prog := 0, kstep := 0 }

/-- The patches of a tile, and the elements of the patch in progress, by row and column (R330). -/
def patchCount (w : EngWord) : Nat := (w.m + 31) / 32 * ((w.n + 31) / 32)
def patchCells (w : EngWord) : List (Nat × Nat) :=
  let np := (w.n + 31) / 32
  let r0 := w.prog / np * 32
  let c0 := w.prog % np * 32
  (List.range (min 32 (w.m - r0))).flatMap fun i => (List.range (min 32 (w.n - c0))).map fun j => (r0 + i, c0 + j)

/-- The exact operands of MMA and MMAS, with the element bitmaps of MMAS (R335). -/
structure MmaData where
  ra : List (List FVal)
  rb : List (List FVal)
  ma : List (List Bool)
  mb : List (List Bool)
def mmaData (s : State) (gang blk : Nat) (w : EngWord) (fa fb : OpFmt) : MmaData :=
  let t := taskAt s (gangAt s gang).task
  let p := mmaPair w fa fb
  let ba := byteIn (operandBytes s gang blk p.1).1
  let bb := byteIn (operandBytes s gang blk p.2).1
  let bits (f : OpFmt) (rows : Nat) (src : Nat → Byte) : List (List Bool) := if w.op = 0x0C then bitmapRows f rows w.k src else []
  ⟨operandRows t fa w.m w.k ba, operandRows t fb w.n w.k bb, bits fa w.m ba, bits fb w.n bb⟩

/-- The products that element (i, j) has in the K-step in progress are formed where both bits are 1. -/
def MmaData.keeps (d : MmaData) (w : EngWord) (ks i j : Nat) : List Bool :=
  let ones := List.replicate w.k true
  let cut (l : List Bool) : List Bool := (l.drop (w.kstep * ks)).take ks
  (cut ((d.ma[i]?).getD ones)).zipWith (· && ·) (cut ((d.mb[j]?).getD ones))
/-- The contributions of the K-step to element (i, j), in increasing k. -/
def MmaData.terms (d : MmaData) (w : EngWord) (ks i j : Nat) : List FVal × FlagSet :=
  let cut (l : List FVal) : List FVal := (l.drop (w.kstep * ks)).take ks
  rowProducts (mfmtZp w.mfmt) (cut ((d.ra[i]?).getD [])) (cut ((d.rb[j]?).getD [])) (d.keeps w ks i j)

/-- An MMA or MMAS after a K-step: on to the next, or to the next patch. -/
def mmaNext (w : EngWord) (ks : Nat) : EngWord :=
  if (w.kstep + 1) * ks < w.k then { w with kstep := w.kstep + 1 } else { w with prog := w.prog + 1, kstep := 0 }
/-- After its last patch its cell work is done. -/
def mmaDone (w : EngWord) : EngWord :=
  let bit (x : Bind) (p : Nat) : Nat := if x.remote = 0 then 0 else 2 ^ p
  { w with stage := 1, data := w.bindA.h + 64 * w.bindB.h + bit w.bindA 12 + bit w.bindB 13 }

/-- One K-step of one patch (R331). It waits for the pending elements that it would write (R332). -/
def stepMma (s : State) (gang blk : Nat) (w : EngWord) : EngOut :=
  match mmaFmts (taskAt s (gangAt s gang).task) w with
  | none => .flt (FaultInfo.plain 0x04)
  | some (fa, fb) =>
    let ks := min fa.step fb.step
    if patchCount w ≤ w.prog then .done s (mmaDone w)
    else
    let d := mmaData s gang blk w fa fb
    let ts := (patchCells w).map fun c => (cCell s gang blk w (c.1 * w.n + c.2), d.terms w ks c.1 c.2)
    if ts.any (mustWait s gang blk) then .wait s
    else
      let r := contribute gang blk w ts s
      .done r.1 (mmaNext { w with toPark := r.2.1, flags := w.flags ||| r.2.2 } ks)

/-- Whether cell c = 4r + q is idle in the K-step in progress (R330, R336). -/
def cellIdle (d : MmaData) (w : EngWord) (ks c : Nat) : Bool :=
  let np := (w.n + 31) / 32
  let own := (patchCells w).filter fun x => x.1 / 8 == w.prog / np * 4 + c / 4 && x.2 / 8 == w.prog % np * 4 + c % 4
  own.all fun x => (d.keeps w ks x.1 x.2).all fun b => !b
/-- Whether some computing cell of the K-step in progress is mirrored (R336). -/
def mirroredStep (s : State) (gang blk : Nat) (w : EngWord) : Bool :=
  (w.op == 0x0B || w.op == 0x0C) && w.stage == 3 && match mmaFmts (taskAt s (gangAt s gang).task) w with
  | none => false
  | some (fa, fb) =>
    let ks := min fa.step fb.step
    let d := mmaData s gang blk w fa fb
    (List.range 16).any fun c => !cellIdle d w ks c && cellIdle d w ks (15 - c)

/-! ## MEPI (R338 to R342) -/

/-- The values of C elements; none when a spill record fails its check. -/
def readCells (s : State) (gang blk : Nat) : List Nat → Option (List LaVal)
  | [] => some []
  | e :: r =>
    match laRead s gang blk e, readCells s gang blk r with
    | some v, some vs => some (v :: vs)
    | _, _ => none

/-- An element's value as the blocks of R126 and the KV epilogue take it. -/
def laFVal (m : Rnd) : LaVal → FVal
  | .fin q => .fin q
  | .zero k => .zero (if k = 1 then false else if k = 2 then true else m == .rdn)
  | .inf n => .inf n
  | .nan c => let v := Fmt.f64.decode c; if v.isNan then v else .cnan
  | .bad => .cnan
/-- Reading a class from 5 to 15 raises `NV` (R139). -/
def badFlags (vs : List LaVal) : FlagSet := if vs.any fun v => v == .bad then fNV else 0

/-- A C element as an epilogue meets it: its approximation interval while it is class 1, and its exact value, none when its record fails its check. -/
structure Cell where
  iv : Option (Q × Q)
  val : Option LaVal
def cellAt (s : State) (gang blk e : Nat) : Cell :=
  let x := laAt s gang blk e
  ⟨if laIsEscalated x then some (laInterval x) else none, laRead s gang blk e⟩
/-- A value of the interval, for the comparisons and roundings that the interval decides. -/
def nearVal (i : Q × Q) : LaVal := if i.1.isZero then .zero 0 else .fin i.1
/-- The exact value, or one of the interval where the record cannot be read. -/
def Cell.exact (c : Cell) : LaVal := c.val.getD (match c.iv with
  | some i => nearVal i
  | none => .bad)
/-- The exact value of a finite non-zero element. -/
def Cell.q (c : Cell) : Q := (laFVal .rne c.exact).q

/-- What the interval says of an element (R339): whether it leaves a comparison or a rounding undecided, so that the element parks; then whether the
exact result is itself a point of R157's list, and its dither index. -/
structure CellTest where
  open_ : Bool
  tie : Bool
  dth : Nat
def CellTest.closed : CellTest := ⟨false, false, 0⟩

/-- The window test of an element that is rounded by itself. -/
def plainTest (f : Fmt) (m : Rnd) (dth : Nat) (c : Cell) : CellTest := match c.iv with
  | none => CellTest.closed
  | some i => ⟨!intervalDecided Q.one f m dth i, onPoint Q.one f m dth c.q, dth⟩

/-- The least and the greatest magnitude of an interval. -/
def magBounds (i : Q × Q) : Q × Q :=
  let a := i.1.abs
  let b := i.2.abs
  let lo := if a.lt b then a else b
  let hi := if a.lt b then b else a
  (if i.1.num ≤ 0 ∧ 0 ≤ i.2.num then Q.zero else lo, hi)
/-- The values of a block's elements with one end of their magnitudes in the place of the intervals. -/
def boundVals (m : Rnd) (hi : Bool) (cs : List Cell) : List FVal := cs.map fun c => match c.iv with
  | some i => .fin (if hi then (magBounds i).2 else (magBounds i).1)
  | none => laFVal m c.exact
/-- The comparisons on the elements of a block (R126, R340): the ranking, where the scale hangs on an element's place in the interval; whether it is beyond
reach; and its rounding, to bfloat16 where it takes an outlier record. -/
def blockTests (n : NFmt) (sf : ScaleFmt) (m : Rnd) (phase : Nat) (cs : List Cell) : List CellTest :=
  let none_ := Config.scaleOfNone n.scl
  let lo := blockRank n (boundVals m false cs)
  let hi := blockRank n (boundVals m true cs)
  let ranked := scaleFor n sf none_ lo == scaleFor n sf none_ hi
  let ex := cs.map fun c => laFVal m c.exact
  let s := (scaleDecode sf (blockScale n sf none_ ex).1).q
  let s := if s.isZero then Q.one else s
  let beyond (q : Q) : Bool := n.maxQ.lt (curveC n.curve (q.div s))
  cs.mapIdx fun k c => match c.iv with
    | none => CellTest.closed
    | some i =>
      let b := magBounds i
      let dth := k + phase
      let taken := ((ex.take k).filter fun x => x.isFinite && beyond x.q.abs).length
      let om : Rnd := if m == .dith then .rne else m
      let decided := if beyond b.1 then decide (n.outl ≤ taken) || intervalDecided Q.one .bf16 om 0 i
        else !beyond b.2 && intervalDecided s (.nar n) m dth i
      let tie := if beyond c.q.abs then decide (taken < n.outl) && onPoint Q.one .bf16 om 0 c.q else onPoint s (.nar n) m dth c.q
      ⟨(!ranked && b.1.le hi && lo.le b.2) || !decided, tie, dth⟩

/-- Consecutive pieces of e values of a list. -/
def chunks {α : Type} (e : Nat) (l : List α) : List (List α) := (List.range (l.length / e)).map fun k => (l.drop (k * e)).take e

/-- The units of an output: an element, or a block of a row. The number of elements and of bits of one. -/
def OpFmt.unit : OpFmt → Nat × Nat
  | .plain f => (1, f.width)
  | .blocked n => (n.blk, 8 * n.recBytes)
/-- The tests on the elements of a unit at column j. -/
def unitTests (t : Task) (f : OpFmt) (m : Rnd) (phase j : Nat) (cs : List Cell) : List CellTest := match f with
  | .plain f => cs.map (plainTest f m (j % 32 + phase))
  | .blocked n => blockTests n (scaleFmt t n) m phase cs
/-- Those of a tile with n columns. -/
def tileTests (t : Task) (f : OpFmt) (m : Rnd) (phase n : Nat) (cs : List Cell) : List CellTest :=
  ((chunks f.unit.1 cs).mapIdx fun k xs => unitTests t f m phase (k * f.unit.1 % n) xs).flatten

/-- The entries of a round-out (R339, R333): one with `OP` 1 for each element that its tests leave open. -/
def roundEntries (s : State) (gang blk : Nat) (w : EngWord) (rnd etype nfs : Nat) (cells : List Nat) (ts : List CellTest) : List ParkEntry :=
  (cells.zip ts).flatMap fun x =>
    if x.2.open_ then [{ elemEntry s gang blk w 1 x.1 false (0, 0) rnd etype nfs x.2.dth with tie := x.2.tie }] else []
/-- The values of elements once the entries are resolved: of those that took none, a value of their interval; none when a record that was needed fails its
check. -/
def testedVals : List (Cell × CellTest) → Option (List LaVal)
  | [] => some []
  | x :: r =>
    match (if x.2.open_ then x.1.val else match x.1.iv with
      | some i => some (nearVal i)
      | none => x.1.val), testedVals r with
    | some v, some vs => some (v :: vs)
    | _, _ => none

/-- One unit of an epilogue's output: its bits, flags, saturated elements, and whether its outlier or scale check fails (R340). -/
structure EpiUnit where
  code : Nat
  flags : FlagSet
  sat : Nat
  bad : Bool

/-- The bytes of a row of codes. -/
def packRow (w : Nat) (codes : List Nat) : List Byte := bytesOf ((codes.length * w + 7) / 8) (packCodes w codes)

/-- An element of an unblocked output (R140). It is saturated when round-out saturates it, but for the zeros of a format without a sign. -/
def plainUnit (f : Fmt) (m : Rnd) (dth : Nat) (v : LaVal) : EpiUnit :=
  let r := laRoundOut f m dth v
  let unsignedZero : Bool := match f with
    | .nar n => !n.sgn && (laFVal m v).sign
    | _ => false
  ⟨r.code, r.flags, if r.flags &&& fAS != 0 && !unsignedZero then 1 else 0, false⟩

/-- One block of a blocked output. -/
def blockUnit (t : Task) (n : NFmt) (m : Rnd) (phase : Nat) (vs : List LaVal) : EpiUnit :=
  let xs := vs.map (laFVal m)
  let sf := scaleFmt t n
  let none_ := Config.scaleOfNone n.scl
  let sc := blockScale n sf none_ xs
  let q := quantBlock n sf none_ m phase xs
  let v := (scaleDecode sf sc.1).q
  let v := if v.isZero then Q.one else v
  let beyond := (xs.filter fun x => x.isFinite && n.maxQ.lt (reachQ n v x)).length
  let sat := (xs.filter fun x => x.isInf && n.pol != 0 && (n.sgn || !x.sign)).length
  ⟨natOf (blockBytes n q), q.flags ||| badFlags vs, sat, decide (n.outl < beyond) || sc.2⟩

/-- The unit at column j. -/
def epiUnit (t : Task) (f : OpFmt) (m : Rnd) (phase j : Nat) (vs : List LaVal) : EpiUnit := match f with
  | .plain f => plainUnit f m (j % 32 + phase) (vs.headD .bad)
  | .blocked n => blockUnit t n m phase vs
/-- The units of a tile with n columns. -/
def epiUnits (t : Task) (f : OpFmt) (m : Rnd) (phase n : Nat) (vs : List LaVal) : List EpiUnit :=
  (chunks f.unit.1 vs).mapIdx fun k xs => epiUnit t f m phase (k * f.unit.1 % n) xs

/-- The declared output format (R338, R121). -/
def epiFmt (t : Task) (c : W32) : Option OpFmt :=
  if ctlOtype c = 12 then slotFmt t (ctlNfs c) else (etypeFmt (ctlOtype c)).map OpFmt.plain
/-- The saturation threshold; none for no limit. -/
def sattLimit (c : W32) : Option Nat :=
  match ctlSatt c with
  | 0 => some 0
  | 7 => none
  | k => some (4 ^ (k - 1))

def epiQuant (w : EngWord) : Bool := ctlOtype w.ma == 12
def epiTiled (w : EngWord) : Bool := epiQuant w && !w.mb.getLsbD 31
def epiTile (w : EngWord) : Nat := bitsOf w.mb 0 13
def epiHandle (w : EngWord) : Nat := w.x / 8 % 64
def epiPhase (w : EngWord) : Nat := w.epc.toNat % 32

/-- Step 6 on an epilogue's destination and map write. -/
def epiFault (s : State) (gang blk : Nat) (w : EngWord) (f : OpFmt) : Option FaultInfo :=
  let b := blockAt s gang blk
  let d := handleAt b (epiHandle w)
  let mh := handleAt b w.bindMap.h
  let po := if epiTiled w then max (f.pitch w.n) ((OpFmt.plain .bf16).pitch w.n) else f.pitch w.n
  firstFault
    [cFault s gang blk w (w.m * w.n), slotFault d .matrix .write (decide (hBuf d < 2)) w.md.toNat (w.m * po) false,
     if epiTiled w then slotFault mh .matrix .write (decide (hBuf mh < 2)) (epiTile w) 1 false else none]

/-- Units of old bits with those of new ones in the places that a mask names. -/
def mergeUnits (w old : Nat) (us : List (Nat × Bool)) : Nat :=
  packCodes w (us.mapIdx fun k u => if u.2 then u.1 else old / 2 ^ (k * w) % 2 ^ w)
/-- Writes the units that a mask names into the destination, `per` a row, each row at its pitch. -/
def putUnits (s : State) (gang blk h dswz off pitch w per : Nat) (us : List (Nat × Bool)) : State :=
  let b := blockAt s gang blk
  let e := handleAt b h
  let len := (per * w + 7) / 8
  let b1 := ((chunks per us).mapIdx fun i r => (i, r)).foldl (fun b r =>
    setHandleBytes b e dswz (off + r.1 * pitch) (bytesOf len (mergeUnits w (handleNat b e dswz (off + r.1 * pitch) len) r.2))) b
  setBlockAt s gang blk (setHandle b1 h (noteSwz e dswz))

/-- The flags of the units that a mask names, and whether the epilogue's checks fail (R340). -/
def unitFlags (us : List (EpiUnit × Bool)) : FlagSet := us.foldl (fun f u => if u.2 then f ||| u.1.flags else f) 0
def tileFails (w : EngWord) (us : List EpiUnit) : Bool :=
  let sat := us.foldl (fun n u => n + u.sat) 0
  epiQuant w && (us.any EpiUnit.bad || ((sattLimit w.ma).map fun l => decide (l < sat)).getD false)

/-- Stores the units of an epilogue's tile that a mask names, and zeroes their elements of C when asked. -/
def storeUnits (s : State) (gang blk : Nat) (w : EngWord) (f : OpFmt) (us : List (EpiUnit × Bool)) : State :=
  let e := f.unit.1
  let s1 := putUnits s gang blk (epiHandle w) (ctlDswz w.ma) w.md.toNat (f.pitch w.n) f.unit.2 (w.n / e) (us.map fun u => (u.1.code, u.2))
  if ctlZero w.ma then
    let cells := ((chunks e (cCells s1 gang blk w (w.m * w.n))).zip us).flatMap fun x => if x.2.2 then x.1 else []
    noteC (zeroCells gang blk cells s1) gang blk w
  else s1
/-- The map byte of an epilogue with a tile number. -/
def storeMap (s : State) (gang blk : Nat) (w : EngWord) (mapByte : Nat) : State :=
  if epiTiled w then
    let b := blockAt s gang blk
    let e := handleAt b w.bindMap.h
    setBlockAt s gang blk (setHandle (setHandleByte b e (hSwz e) (epiTile w) (BitVec.ofNat 8 mapByte)) w.bindMap.h (noteSwz e (hSwz e)))
  else s
/-- What the event of an epilogue's completion carries. -/
def epiData (w : EngWord) (f : OpFmt) (mapByte : Nat) : Nat := epiHandle w + mapByte * 256 + w.m * f.rowRaw w.n % 2 ^ 32 * 2 ^ 32
/-- Stores an epilogue's whole tile with its map byte. -/
def storeTile (s : State) (gang blk : Nat) (w : EngWord) (f : OpFmt) (us : List EpiUnit) (mapByte : Nat) (flags : FlagSet) : EngOut :=
  let all := us.map fun u => (u, true)
  .done (storeMap (storeUnits s gang blk w f all) gang blk w mapByte)
    { w with stage := 1, flags := unitFlags all ||| flags, data := epiData w f mapByte }

/-- Records a decided tile key, in increasing order. -/
def insertKey (k : Nat) : List Nat → List Nat
  | [] => [k]
  | x :: r => if k < x then k :: x :: r else x :: insertKey k r
def decideTile (s : State) (gang blk : Nat) (w : EngWord) : State :=
  let g := gangAt s gang
  if epiTiled w then setGangAt s gang { g with tiles := insertKey (w.qord.toNat * 16 + blk) g.tiles } else s

/-- The format in which an epilogue stores its tile: the declared one, or bf16 once it is widened (R341). -/
def epiOut (s : State) (gang : Nat) (w : EngWord) : Option OpFmt :=
  if w.kstep = 1 then some (.plain .bf16) else epiFmt (taskAt s (gangAt s gang).task) w.ma
/-- The elements of an epilogue's tile in a format, with their tests. -/
def epiCells (s : State) (gang blk : Nat) (w : EngWord) (f : OpFmt) : List (Cell × CellTest) :=
  let cs := (cCells s gang blk w (w.m * w.n)).map (cellAt s gang blk)
  cs.zip (tileTests (taskAt s (gangAt s gang).task) f (ctlRnd w.ma) (epiPhase w) w.n cs)
/-- Which units of the tile hold no element that takes an entry. -/
def closedUnits (f : OpFmt) (cs : List (Cell × CellTest)) : List Bool := (chunks f.unit.1 cs).map fun xs => !xs.any fun x => x.2.open_
/-- The units of the tile for values of its elements. -/
def epiTileUnits (s : State) (gang : Nat) (w : EngWord) (f : OpFmt) (vs : List LaVal) : List EpiUnit :=
  epiUnits (taskAt s (gangAt s gang).task) f (ctlRnd w.ma) (epiPhase w) w.n vs
/-- The round-out entries of a tile in a format. -/
def epiEntries (s : State) (gang blk : Nat) (w : EngWord) (f : OpFmt) : List ParkEntry :=
  roundEntries s gang blk w (bitsOf w.ma 9 3) (ctlOtype w.ma) (ctlNfs w.ma) (cCells s gang blk w (w.m * w.n))
    ((epiCells s gang blk w f).map Prod.snd)

/-- The start of MEPI: its checks, its begin transition, its waits and its reservation; then it parks what the window test leaves undecided. -/
def startEpi (s : State) (gang blk : Nat) (w : EngWord) : EngOut :=
  match epiFmt (taskAt s (gangAt s gang).task) w.ma with
  | none => .flt (FaultInfo.plain 0x04)
  | some f =>
    if f.blk ≠ 0 ∧ w.n % f.blk ≠ 0 then .flt (FaultInfo.plain 0x16)
    else match epiFault s gang blk w f with
      | some e => .flt e
      | none =>
        let d := handleAt (blockAt s gang blk) (epiHandle w)
        let begins := w.x % 2 = 1 ∧ !w.begun
        match if begins then transition d hsFilling .matrix else some d with
        | none => .wait s
        | some d1 =>
          if begins ∧ !canMove s gang blk (epiHandle w) then .wait s
          else
            let s1 := if begins then moveHandle s gang blk (epiHandle w) d1 else s
            let w1 := { w with begun := true }
            let mh := handleAt (blockAt s1 gang blk) w.bindMap.h
            if !cReady s1 gang blk w || !stateOk d1 .write || (epiTiled w && !stateOk mh .write)
                || (cCells s1 gang blk w (w.m * w.n)).any (elemBusy s1 gang blk) then .done s1 w1
            else match reserveEntries s1 gang blk w1 with
              | none => .done s1 w1
              | some (s2, w2) => .done s2 { w2 with stage := 3, kstep := 0, toPark := epiEntries s2 gang blk w2 f }

/-- MEPI once its entries are parked. One without a tile number stores what needs none of them, and has done its cell work: the rest follows when they
are resolved (R321). One with a tile number waits for them, and is built from the exact values: it is stored in the declared format, or, at step 1, widened
to bf16 (R341); where its checks fail it waits for the budget order. -/
def stepEpi (s : State) (gang blk : Nat) (w : EngWord) : EngOut :=
  match epiOut s gang w with
  | none => .flt (FaultInfo.plain 0x04)
  | some f =>
    let cs := epiCells s gang blk w f
    if !epiTiled w && entriesLeft s gang blk w then
      let us := (epiTileUnits s gang w f (cs.map fun x => x.1.exact)).zip (closedUnits f cs)
      .done (storeUnits s gang blk w f us) { w with stage := 1, late := true, flags := unitFlags us, data := epiData w f 0 }
    else match testedVals cs with
      | none => badRecord s gang blk w
      | some vs =>
        let us := epiTileUnits s gang w f vs
        if w.kstep = 1 then storeTile s gang blk w f us 1 0
        else if epiTiled w && tileFails w us then .done s { w with stage := 2 }
        else storeTile (decideTile s gang blk w) gang blk w f us 0 0
/-- The units that waited for an epilogue's entries are stored once those are resolved. -/
def lateEpi (s : State) (gang blk : Nat) (w : EngWord) : EngOut :=
  match epiOut s gang w with
  | none => .done s { w with late := false }
  | some f =>
    let cs := epiCells s gang blk w f
    match testedVals cs with
    | none => badRecord s gang blk w
    | some vs =>
      let us := (epiTileUnits s gang w f vs).zip ((closedUnits f cs).map not)
      .done (storeUnits s gang blk w f us) { w with late := false, flags := w.flags ||| unitFlags us }

/-- Whether every tile key of the gang lower than the word's belongs to a decided epilogue (R341). -/
def keysDecided (s : State) (gang blk : Nat) (w : EngWord) : Bool :=
  let q := w.qord.toNat
  (blockIds s gang).all fun b =>
    let m := (blockAt s gang b).mat
    b == blk || m.st == .idle || m.st == .ended
      || (List.range (if b < blk then q + 1 else q)).all fun k => (gangAt s gang).tiles.contains (k * 16 + b)

/-- A failing epilogue at its turn: it is to be widened while the budget lasts, and else clipped (R341). -/
def budgetTile (s : State) (gang blk : Nat) (w : EngWord) : EngOut :=
  match epiFmt (taskAt s (gangAt s gang).task) w.ma with
  | none => .flt (FaultInfo.plain 0x04)
  | some f =>
    match testedVals (epiCells s gang blk w f) with
    | none => badRecord s gang blk w
    | some vs =>
      let s1 := decideTile s gang blk w
      let g := gangAt s1 gang
      let b := blockAt s1 gang blk
      if 0 < g.budget then
        let s2 := setBlockAt (setGangAt s1 gang { g with budget := g.budget - 1 }) gang blk { b with mat := { b.mat with nwid := b.mat.nwid + 1 } }
        .done s2 { w with stage := 3, kstep := 1, toPark := epiEntries s2 gang blk w (.plain .bf16) }
      else
        let s2 := setBlockAt s1 gang blk { b with mat := { b.mat with nclip := b.mat.nclip + 1 } }
        storeTile s2 gang blk w f (epiTileUnits s2 gang w f vs) 0 fEB

/-! ## The queue -/

/-- The word that the engine works on: the first that has not done its cell work, with its place (R321). -/
def engineHead (q : List EngWord) : Option (Nat × EngWord) :=
  match (q.mapIdx fun i w => (i, w)).find? fun e => e.2.stage != 1 with
  | some e => some e
  | none => none

/-- Puts a word of the queue. -/
def setWord (s : State) (gang blk i : Nat) (w : EngWord) : State :=
  let b := blockAt s gang blk
  setBlockAt s gang blk { b with mat := { b.mat with queue := b.mat.queue.mapIdx fun j x => if j = i then w else x } }

/-- Whether a block's stream may report a fault: one met while it is suspended or stopped is met again and reported once it runs. -/
def streamLive (s : State) (gang blk : Nat) : Bool :=
  let st := (blockAt s gang blk).mat.st
  st == .running || st == .waiting
/-- Whether the engine works on a word: earlier words go on while the stream is suspended at another word (R321), and one in progress goes on to its
next rest point while it is stopped (R349). -/
def engineRuns (s : State) (gang blk : Nat) (w : EngWord) : Bool :=
  let st := (blockAt s gang blk).mat.st
  !w.stuck && (st == .running || st == .waiting || st == .suspended || (st == .stopped && !w.atRest))

/-- Whether a core's engine works on a word of another block: it works on one word at a time (R321). -/
def engineTaken (s : State) (gang blk : Nat) : Bool :=
  s.blocks.any fun e => e.1 != gang * 32 + blk && e.2.used && e.2.core == coreOf s gang blk && e.2.mat.queue.any fun w => w.resv

/-- A word after its turn: one whose work is done or waits for its budget order gives back its reservation, and so does one that a stop leaves at a
rest point. -/
def afterWork (s : State) (gang blk : Nat) (w : EngWord) : State × EngWord :=
  if w.resv ∧ w.stage ≠ 3 then releaseEntries s gang blk w else (s, w)
/-- Puts a word back after its turn. -/
def putWord (s : State) (gang blk i : Nat) (w : EngWord) : State :=
  let x := afterWork s gang blk w
  let y := if (blockAt x.1 gang blk).mat.st = .stopped then restWord x.1 gang blk x.2 else x
  setWord y.1 gang blk i y.2

/-- A word at which its stream is suspended, if it may be (R348): it holds no reservation while it stands there. -/
def suspendWord (s : State) (gang blk i : Nat) (w : EngWord) (f : FaultInfo) : State :=
  let r := releaseEntries s gang blk w
  if streamLive s gang blk then suspendMatrix (setWord r.1 gang blk i { r.2 with stuck := true }) gang blk w.idx f
  else setWord r.1 gang blk i r.2

/-- What the outcome of a word's work leaves. -/
def engineStep (s : State) (gang blk i : Nat) (w : EngWord) : EngOut → State
  | .done s1 w1 => putWord s1 gang blk i w1
  | .wait s1 => s1
  | .flt f => suspendWord s gang blk i w f
  | .fltAt s1 w1 f => suspendWord s1 gang blk i w1 f
  | .dead s1 => s1

/-- ESCALATION_BUDGET (R341): the epilogue that waits for the budget order, if its turn has come. -/
def execEscalationBudget (gang blk : Nat) (s : State) : Out :=
  match engineHead (blockAt s gang blk).mat.queue with
  | some (i, w) =>
    if w.stage = 2 ∧ engineRuns s gang blk w ∧ keysDecided s gang blk w then .next (engineStep s gang blk i w (budgetTile s gang blk w))
    else .next s
  | none => .next s

/-! ## Completion (R320, R321, R327, R329) -/

/-- A release of an A or B handle after the last read; in a join, by the last member whose word completes. None when the transition is
illegal. -/
def releaseOperand (s : State) (gang blk : Nat) (b : Bind) (join : Nat) (rel : Bool) : Option State :=
  let free (s : State) : Option State :=
    if !rel then some s
    else
      let k := b.block blk
      let x := blockAt s gang k
      (transition (handleAt x b.h) hsFree b.engine).map fun e => moveHandle s gang k b.h e
  let g := gangAt s gang
  match g.joins.find? fun j => j.id + 1 == join with
  | none => free s
  | some j =>
    let done := j.done ++ [blk]
    if (List.range 16).all fun i => j.mask / 2 ^ i % 2 == 0 || done.contains i then
      (free s).map fun s => setGangAt s gang { gangAt s gang with joins := (gangAt s gang).joins.filter fun x => x.id != j.id }
    else some (setGangAt s gang { g with joins := g.joins.map fun x => if x.id = j.id then { x with done := done } else x })

/-- The handle transition n of a word at its completion: an epilogue's destination, the A operand, the B operand. -/
def engineFinish (s : State) (gang blk : Nat) (w : EngWord) (n : Nat) : Option State :=
  if w.op = 0x0D then
    if n = 0 ∧ w.x / 2 % 2 = 1 then
      let b := blockAt s gang blk
      (transition (handleAt b (epiHandle w)) hsFull .matrix).map fun e => moveHandle s gang blk (epiHandle w) e
    else some s
  else if n = 0 ∧ w.usesA then releaseOperand s gang blk w.bindA w.joinA w.ra
  else if n = 1 ∧ w.usesB then releaseOperand s gang blk w.bindB w.joinB w.rb
  else some s

/-- `EB` reaches the FLAGS of the block's groups that have not exited, without a trap, and the task's record (R320). -/
def spreadEb (s : State) (gang blk : Nat) (f : FlagSet) : State :=
  if f &&& fEB = 0 then s
  else
    let s1 := (groupIds s gang).foldl (fun s e =>
      let g := groupAt s gang e.1 e.2
      if e.1 = blk ∧ g.st ≠ .exited then setGroupAt s gang e.1 e.2 { g with flags := g.flags ||| 0x80 } else s) s
    let tk := (gangAt s1 gang).task
    let t := taskAt s1 tk
    setTaskAt s1 tk { t with flagsOr := t.flagsOr ||| 0x80 }

/-- The handle that transition n of a word moves, with its block; none where it makes none. A release in a join is tested for its last member
alone. -/
def finishHandle (s : State) (gang blk : Nat) (w : EngWord) (n : Nat) : Option (Nat × Nat) :=
  let last (join : Nat) : Bool := match (gangAt s gang).joins.find? fun j => j.id + 1 == join with
    | none => true
    | some j => (List.range 16).all fun i => j.mask / 2 ^ i % 2 == 0 || (j.done ++ [blk]).contains i
  if w.op = 0x0D then (if n = 0 ∧ w.x / 2 % 2 = 1 then some (blk, epiHandle w) else none)
  else if n = 0 && w.ra && last w.joinA then some (w.bindA.block blk, w.bindA.h)
  else if n = 1 && w.rb && last w.joinB then some (w.bindB.block blk, w.bindB.h)
  else none
/-- Whether transition n of a word has to wait for the next clock (R250). -/
def finishHeld (s : State) (gang blk : Nat) (w : EngWord) (n : Nat) : Bool := match finishHandle s gang blk w n with
  | some (k, h) => !canMove s gang k h
  | none => false

/-- Whether a word to complete has to wait for an earlier one of its queue: its FULL transition for a write through the handle (R250), its event for the
earlier event (R254). -/
def writeAhead (s : State) (gang blk i : Nat) (w : EngWord) : Bool :=
  w.op == 0x0D && w.ended == 0 && w.x / 2 % 2 == 1 && ((blockAt s gang blk).mat.queue.take i).any fun x =>
    x.writesHandle (epiHandle w) && (x.late || entriesLeft s gang blk x)
def eventAhead (s : State) (gang blk i : Nat) : Bool :=
  ((blockAt s gang blk).mat.queue.take i).any fun x => x.op != 0x0A && x.x / 4 % 2 == 1 && decide (x.ended < 3)

/-- What a word whose cell work is done does next towards its completion, none where it waits: the elements that its entries return; its transitions in
order; when its entries are resolved, its event; then its flags. -/
def completeWord (s : State) (gang blk i : Nat) (w : EngWord) : Option State :=
  if w.stage ≠ 1 then none
  else if w.late then if entriesLeft s gang blk w then none else some (engineStep s gang blk i w (lateEpi s gang blk w))
  else if w.ended < 2 then
    if finishHeld s gang blk w w.ended || writeAhead s gang blk i w then none
    else match engineFinish s gang blk w w.ended with
      | none => if streamLive s gang blk then some (suspendWord s gang blk i w (FaultInfo.plain 0x0B)) else none
      | some s1 => some (setWord s1 gang blk i { w with ended := w.ended + 1 })
  else if entriesLeft s gang blk w then none
  else if w.ended = 2 then
    if eventAhead s gang blk i then none
    else
      let s1 := setWord s gang blk i { w with ended := 3 }
      some (if w.op ≠ 0x0A ∧ w.x / 4 % 2 = 1 then postEvent s1 gang blk (posterEngine blk) (eventRec 2 1 0 blk w.idx w.data) else s1)
  else if postWaits s gang blk (posterEngine blk) then none
  else
    let s1 := spreadEb s gang blk w.flags
    let b := blockAt s1 gang blk
    some (setBlockAt s1 gang blk { b with mat := { b.mat with queue := b.mat.queue.eraseIdx i, mflags := b.mat.mflags ||| w.flags } })

/-- ENGINE_WORD_COMPLETE (R321): the oldest word that can go on towards its completion does. A word whose cell work is done completes while its stream is
stopped too (R349); an illegal transition suspends the stream once it runs. The words of a saved gang, whose sequencer has no program until the reload,
stand still (R425). -/
def execEngineWordComplete (gang blk : Nat) (s : State) : Out :=
  if (blockAt s gang blk).mat.st == .idle then .next s
  else .next ((((blockAt s gang blk).mat.queue.takeWhile fun w => !w.stuck).mapIdx fun i w => (i, w)).findSome?
    (fun e => completeWord s gang blk e.1 e.2) |>.getD s)

end Sys2Proof.Machine
end

