-- ==== Sys2Proof/Machine/Attention.lean ====
section
/-!
DEFINITION. The KV epilogue, attention, and the start of engine words (spec/13 R371 to R375, spec/12 R348).
-/

namespace Sys2Proof.Machine

/-! ## Fields shared by MEPKV and ATT -/

def kvwRnd (w : EngWord) : Rnd := Rnd.ofCode (w.x / 8 % 8)
def kvwLayer (w : EngWord) : Nat := bitsOf w.ma 0 10
def kvwHead (w : EngWord) : Nat := bitsOf w.ma 10 8

/-- The descriptor of the task's KV space as an engine word reads it. -/
def engineKvDesc (s : State) (gang : Nat) : Except KvFault KvDesc :=
  let t := taskAt s (gangAt s gang).task
  kvDesc s t t.lpb.kvdesc
/-- The cluster whose KV walker serves a block's engine. -/
def engineCluster (s : State) (gang blk : Nat) : Nat := (blockAt s gang blk).core / 16

/-! ## MEPKV (R371) -/

def kvwKv (w : EngWord) : Nat := bitsOf w.ma 18 1
def kvwRot (w : EngWord) : Bool := w.x / 256 % 2 == 1

/-- The row values in pairs under rotation: component pairs with their ω; only `NV` of the roundings counts. -/
def rotateRow (pos : Nat) : List FVal → List FVal → List FVal × FlagSet
  | x :: y :: xs, o :: os =>
    let p := rotPair .f32 .rne 0 x y pos o
    let r := rotateRow pos xs os
    (Fmt.f32.decode p.1.code :: Fmt.f32.decode p.2.code :: r.1, ((p.1.flags ||| p.2.flags) &&& fNV) ||| r.2)
  | _, _ => ([], 0)

/-- The frequencies of a space, read from memory. -/
def kvFrequencies (s : State) (d : KvDesc) : Except KvFault (List FVal) :=
  match kvBytes s d.asid d.freq (2 * d.dim) with
  | .error f => .error f
  | .ok bs => .ok ((List.range (d.dim / 2)).map fun k => Fmt.f32.decode (natOf ((bs.drop (4 * k)).take 4)))

/-- A row's codes, scale code and flags (R371 step 2). -/
def kvEncodeRow (d : KvDesc) (m : Rnd) (phase : Nat) (xs : List FVal) : List Nat × Nat × FlagSet :=
  match d.fmt with
  | .nar n =>
    let q := quantBlock { n with outl := 0 } none 0 m phase xs
    (q.codes, q.scale, q.flags)
  | f =>
    let rs := xs.mapIdx fun j x => roundTo f m (j % 32 + phase) x
    (rs.map Rounded.code, 127, rs.foldl (fun a r => a ||| r.flags) 0)

/-- The tests on a rotated pair of elements (R371): each of its two sums of products is rounded to binary32, and the pair is decided where both are fixed by
the intervals. -/
def rotTests (pos : Nat) (x y : Cell) (o : FVal) : CellTest × CellTest :=
  let fin (c : Cell) : Bool := (laFVal .rne c.exact).isFinite
  if o.isNan || o.isInf || !fin x || !fin y then (CellTest.closed, CellTest.closed)
  else
    let r := rotCS ((Q.ofInt pos).mul o.q) o.sign
    let range (c : Cell) : Q × Q := c.iv.getD (c.q, c.q)
    let scaled (k : Q) (i : Q × Q) : Q × Q := if k.isNeg then (k.mul i.2, k.mul i.1) else (k.mul i.1, k.mul i.2)
    let sum (a b : Q × Q) : Q × Q := (a.1.add b.1, a.2.add b.2)
    let fixed (i : Q × Q) : Bool := i.1.eq i.2 || intervalDecided Q.one .f32 .rne 0 i
    let c := r.1.q
    let k := r.2.q
    let open_ := !fixed (sum (scaled c (range x)) (scaled k.neg (range y))) || !fixed (sum (scaled k (range x)) (scaled c (range y)))
    let tie := onPoint Q.one .f32 .rne 0 ((c.mul x.q).sub (k.mul y.q)) || onPoint Q.one .f32 .rne 0 ((k.mul x.q).add (c.mul y.q))
    let test (z : Cell) : CellTest := if z.iv.isSome then ⟨open_, tie, 0⟩ else CellTest.closed
    (test x, test y)
/-- Those of a row, pair by pair. -/
def rotRowTests (pos : Nat) : List Cell → List FVal → List CellTest
  | x :: y :: xs, o :: os => let p := rotTests pos x y o; p.1 :: p.2 :: rotRowTests pos xs os
  | _, _ => []
/-- The elements of row i of a KV epilogue, with their tests (R339, R371): on the rotation, whose results are exact binary32 values; else on the row as one
block, or on its elements. `os` are the frequencies. -/
def kvRowCells (s : State) (gang blk : Nat) (w : EngWord) (d : KvDesc) (os : List FVal) (i : Nat) : List (Cell × CellTest) :=
  let cs := (List.range w.n).map fun j => cellAt s gang blk (cCell s gang blk w (i * w.n + j))
  let ts := if kvwRot w then rotRowTests (w.mb.toNat + i) cs os
    else match d.fmt with
      | .nar n => blockTests { n with outl := 0 } none (kvwRnd w) (epiPhase w) cs
      | f => cs.mapIdx fun j c => plainTest f (kvwRnd w) (j % 32 + epiPhase w) c
  cs.zip ts

/-- One row: none for a bad spill record; a KV fault; or the state and the flags. -/
def kvRow (s : State) (gang blk : Nat) (w : EngWord) (d : KvDesc) (i : Nat) : Option (Except KvFault (State × FlagSet)) :=
  let freq := if kvwRot w then kvFrequencies s d else .ok []
  match testedVals (kvRowCells s gang blk w d (freq.toOption.getD []) i) with
  | none => none
  | some vs =>
    let xs := vs.map (laFVal (kvwRnd w))
    let pos := w.mb.toNat + i
    match freq with
    | .error f => some (.error f)
    | .ok os =>
      let r := if kvwRot w then rotateRow pos xs os else (xs, 0)
      let e := kvEncodeRow d (kvwRnd w) (epiPhase w) r.1
      match kvBlock s (engineCluster s gang blk) d (d.keyOf w.md.toNat (kvwLayer w) pos) true with
      | .error f => some (.error f)
      | .ok (k, s1) =>
        let row := d.row (kvwKv w) (kvwHead w) (pos % d.tb)
        match kvWritable s1 d.asid (d.rowVa k row) d.rb, kvWritable s1 d.asid (d.scaleVa k row) 1 with
        | .error f, _ => some (.error f)
        | _, .error f => some (.error f)
        | .ok _, .ok _ =>
          let s2 := kvPut (closeWindow s1 gang) d.asid (d.rowVa k row) (bytesOf d.rb (packCodes d.width e.1))
          let s3 := kvPut s2 d.asid (d.scaleVa k row) [BitVec.ofNat 8 e.2.1]
          some (.ok (kvFill s3 d k (pos % d.tb), badFlags vs ||| r.2 ||| e.2.2))

/-- A KV fault of an engine word, which is `w` at its restart point (R363): a fault of the descriptor starts the word anew, and a poisoned line
kills the gang (R419). -/
def kvEngineFault (s : State) (gang blk : Nat) (w : EngWord) (e : KvFault) (f : FaultInfo) : EngOut :=
  if e.code = kvPoison.code then engineDead s gang blk w
  else if e.code = kvDescFault.code then .fltAt s { w with stage := 0, prog := 0, flags := 0 } f
  else .fltAt s w f

/-- The rows from i on. A fault at a row has the word checked again when it is released, and go on at that row (R348, R363). -/
def kvRows (gang blk : Nat) (w : EngWord) (d : KvDesc) : Nat → Nat → State → FlagSet → EngOut
  | 0, _, s, f => .done s { w with stage := 1, prog := w.m, flags := f, data := w.m + w.m * (d.rb + 1) * 2 ^ 32 }
  | n + 1, i, s, f =>
    match kvRow s gang blk w d i with
    | none => badRecord s gang blk w
    | some (.error e) =>
      let pos := w.mb.toNat + i
      kvEngineFault s gang blk { w with stage := 0, prog := i, flags := f } e
        { kvInfo e true 0 (d.keyOf w.md.toNat (kvwLayer w) pos) pos (kvwHead w) (kvwKv w) with prog := i }
    | some (.ok (s1, f1)) => kvRows gang blk w d n (i + 1) s1 (f ||| f1)

/-- The `ETYPE` of a space's elements. -/
def KvDesc.etype (d : KvDesc) : Nat :=
  match d.kfmt with
  | 0 => 9
  | 1 => 8
  | _ => 12
/-- The round-out entries of the rows that are not yet written. -/
def kvEntries (s : State) (gang blk : Nat) (w : EngWord) (d : KvDesc) : List ParkEntry :=
  let os := if kvwRot w then (kvFrequencies s d).toOption.getD [] else []
  roundEntries s gang blk w (w.x / 8 % 8) d.etype 0 ((cCells s gang blk w (w.m * w.n)).drop (w.prog * w.n))
    ((List.range (w.m - w.prog)).flatMap fun i => (kvRowCells s gang blk w d os (w.prog + i)).map Prod.snd)

/-- The start of MEPKV: the descriptor, the shape, the range, C, its waits and its reservation; then it parks what the window test leaves
undecided. -/
def startKv (s : State) (gang blk : Nat) (w : EngWord) : EngOut :=
  match engineKvDesc s gang with
  | .error f => kvEngineFault s gang blk w f (kvInfo f true 0 0 0 0 0)
  | .ok d =>
    let p0 := w.mb.toNat
    let key := d.keyOf w.md.toNat (kvwLayer w) p0
    if kvwRot w ∧ d.freq = 0 then kvEngineFault s gang blk w kvDescFault (kvInfo kvDescFault true 0 0 0 0 0)
    else if w.n ≠ d.dim then .flt (FaultInfo.plain 0x16)
    else if bitsOf w.ma 19 13 ≠ 0 ∨ d.layers ≤ kvwLayer w ∨ d.heads ≤ kvwHead w ∨ 2 ^ 26 ≤ p0 + w.m - 1 then
      .flt (kvInfo kvRangeFault true 0 key p0 (kvwHead w) (kvwKv w))
    else match cFault s gang blk w (w.m * w.n) with
      | some f => .flt f
      | none =>
        if !cReady s gang blk w || (cCells s gang blk w (w.m * w.n)).any (elemBusy s gang blk) then .wait s
        else match reserveEntries s gang blk w with
          | none => .wait s
          | some (s1, w1) => .done s1 { w1 with stage := 3, toPark := kvEntries s1 gang blk w1 d }
/-- MEPKV once its entries are resolved: its rows from the restart point on. -/
def stepKv (s : State) (gang blk : Nat) (w : EngWord) : EngOut :=
  match engineKvDesc s gang with
  | .error f => kvEngineFault s gang blk w f (kvInfo f true 0 0 0 0 0)
  | .ok d => kvRows gang blk w d (w.m - w.prog) w.prog s w.flags

/-! ## ATT (R372 to R375) -/

def attCausal (w : EngWord) : Bool := w.x / 256 % 2 == 1
/-- The P format: binary32, bfloat16, or the predefined E4M3. -/
def attPf (w : EngWord) : Fmt :=
  match w.x / 64 % 4 with
  | 0 => .f32
  | 1 => .bf16
  | _ => .nar (NFmt.ofBits 0xC60E8000 [])
/-- The number of key positions that row i sees; q0 is signed. -/
def attLimit (w : EngWord) (i : Nat) : Nat :=
  if attCausal w then min w.mb.toNat (max 0 (w.mc.toInt + i + 1)).toNat else w.mb.toNat
/-- The number of KV blocks of the tile. -/
def attBlocks (w : EngWord) (d : KvDesc) : Nat :=
  (List.range w.m).foldl (fun n i => max n ((attLimit w i + d.tb - 1) / d.tb)) 0

/-- The element indexes of O, of the scores and of the denominators. -/
def attO (d : KvDesc) (i e : Nat) : Nat := i * d.dim + e
def attScore (w : EngWord) (d : KvDesc) (i t : Nat) : Nat := w.m * d.dim + i * d.tb + t
def attDenom (w : EngWord) (d : KvDesc) (i : Nat) : Nat := w.m * d.dim + w.m * d.tb + i
def attSize (w : EngWord) (d : KvDesc) : Nat := w.m * (d.dim + d.tb + 1)

/-- The format of Q as its map lookup leaves it, which is unblocked, and Q as an operand. -/
def attFmt (t : Task) (w : EngWord) : Option Fmt := (operandFmt t (mfmtA w.mfmt).1 (mfmtA w.mfmt).2 w.wideA).bind OpFmt.plain?
def attQ (w : EngWord) (f : Fmt) : Operand := ⟨w.bindA, w.joinA, 0, .plain f, w.m, w.m * (OpFmt.plain f).pitch w.k, 0⟩

/-- The checks of R348 on ATT that come before the handles, with the word, Q and the space. -/
def attOperand (s : State) (gang blk : Nat) (w : EngWord) : Except EngOut (EngWord × Operand × KvDesc) :=
  match remoteFault s gang blk w.joinA w.bindA with
  | some f => .error (.flt f)
  | none =>
    match mapLookup s gang blk w.bindA with
    | .flt f => .error (.flt f)
    | .wait => .error (.wait s)
    | .wide wa =>
      let w1 := { w with wideA := wa }
      match attFmt (taskAt s (gangAt s gang).task) w1 with
      | some f =>
        match engineKvDesc s gang with
        | .error e => .error (kvEngineFault s gang blk w e (kvInfo e false 0 0 0 0 0))
        | .ok d =>
          if 64 < w.m ∨ w.k ≠ d.dim ∨ 256 < d.dim then .error (.flt (FaultInfo.plain 0x16))
          else if bitsOf w.ma 18 14 ≠ 0 ∨ d.layers ≤ kvwLayer w ∨ d.heads ≤ kvwHead w ∨ 2 ^ 26 < w.mb.toNat then
            .error (.flt (kvInfo kvRangeFault false 0 (d.keyOf w.md.toNat (kvwLayer w) 0) 0 (kvwHead w) 0))
          else .ok (w1, attQ w1 f, d)
      | none => .error (.flt (FaultInfo.plain 0x04))

/-- The start of a tile: checks, waits, the reservation, and O, the scores and the denominators as MZERO leaves them. -/
def attStart (s : State) (gang blk : Nat) (w : EngWord) : EngOut :=
  match attOperand s gang blk w with
  | .error o => o
  | .ok (w1, a, d) =>
    match firstFault [operandFault s gang blk a, cFault s gang blk w (attSize w d)] with
    | some f => .flt f
    | none =>
      let cells := cCells s gang blk w (attSize w d)
      if !operandReady s gang blk a || !cReady s gang blk w || cells.any (elemBusy s gang blk) then .wait s
      else match reserveEntries s gang blk w1 with
        | none => .wait s
        | some (s1, w2) =>
          let s2 := noteC (zeroCells gang blk cells s1) gang blk w
          .done (operandBytes s2 gang blk a).2 { w2 with stage := 3, prog := 0, kstep := 0, rows := List.replicate w.m (0, 0) }

/-- The values of a stored row: codes and scale code (R354). -/
def kvRowVals (s : State) (d : KvDesc) (k row : Nat) : Except KvFault (List FVal) :=
  match kvBytes s d.asid (d.rowVa k row) d.rb, kvBytes s d.asid (d.scaleVa k row) 1 with
  | .error f, _ => .error f
  | _, .error f => .error f
  | .ok bs, .ok sc =>
    let c := natOf sc
    let x := natOf bs
    .ok ((List.range d.dim).map fun e =>
      if c = 255 then .cnan else (d.fmt.decode (x / 2 ^ (e * d.width) % 2 ^ d.width)).mapMag fun q => q.scale2 ((c : Int) - 127))

/-- The K rows, or V rows, of the first n tokens of a block. -/
def kvTokens (s : State) (d : KvDesc) (k kv head : Nat) : Nat → Except KvFault (List (List FVal))
  | 0 => .ok []
  | n + 1 =>
    match kvTokens s d k kv head n, kvRowVals s d k (d.row kv head n) with
    | .error f, _ => .error f
    | _, .error f => .error f
    | .ok r, .ok v => .ok (r ++ [v])

/-! ### One KV block (R373, R374): its K-steps; the decision of the scores; of pr and a; the sums; the decision of l; the rows' new state -/

/-- How many tokens of the block at `prog` row i sees, and how many the tile needs. -/
def attSeen (w : EngWord) (d : KvDesc) (i : Nat) : Nat := min d.tb (attLimit w i - w.prog * d.tb)
def attTokens (w : EngWord) (d : KvDesc) : Nat := (List.range w.m).foldl (fun n i => max n (attSeen w d i)) 0
/-- The rows that see some of it, and the scores of a row, as element indexes. -/
def attLive (w : EngWord) (d : KvDesc) : List Nat := (List.range w.m).filter fun i => attSeen w d i != 0
def attScoreCells (s : State) (gang blk : Nat) (w : EngWord) (d : KvDesc) (i : Nat) : List Nat :=
  (List.range (attSeen w d i)).map fun t => cCell s gang blk w (attScore w d i t)

/-- The exact operands of a block's steps. -/
structure AttData where
  q : List (List FVal)
  ks : List (List FVal)
  vs : List (List FVal)

/-- The rows of Q, and of K and V in the block that the tile stands at. -/
def attData (s : State) (gang blk : Nat) (w : EngWord) (d : KvDesc) (f : Fmt) : Except KvFault (AttData × State) :=
  match kvBlock s (engineCluster s gang blk) d (d.keyOf w.md.toNat (kvwLayer w) (w.prog * d.tb)) false with
  | .error e => .error e
  | .ok (k, s1) =>
    match kvTokens s1 d k 0 (kvwHead w) (attTokens w d), kvTokens s1 d k 1 (kvwHead w) (attTokens w d) with
    | .error e, _ => .error e
    | _, .error e => .error e
    | .ok ks, .ok vs =>
      let t := taskAt s1 (gangAt s1 gang).task
      .ok (⟨operandRows t (.plain f) w.m w.k (byteIn (operandBytes s1 gang blk (attQ w f)).1), ks, vs⟩, s1)

/-- The elements of a score K-step, and the K-steps of a block (R375). -/
def attStep (f : Fmt) (d : KvDesc) : Nat := min (OpFmt.plain f).step (OpFmt.plain d.fmt).step
def attSteps (f : Fmt) (d : KvDesc) : Nat := (d.dim + attStep f d - 1) / attStep f d

/-- One K-step of the scores, which the first one starts at zero of kind 1. -/
def attScores (s : State) (gang blk : Nat) (w : EngWord) (d : KvDesc) (f : Fmt) (a : AttData) : EngOut :=
  let ks := attStep f d
  let cut (l : List FVal) : List FVal := (l.drop (w.kstep * ks)).take ks
  let all := (List.range (w.m * d.tb)).map fun k => cCell s gang blk w (w.m * d.dim + k)
  let s1 := if w.kstep = 0 then zeroCells gang blk all s else s
  let ts := (attLive w d).flatMap fun i => (attScoreCells s gang blk w d i).mapIdx fun t e =>
    (e, rowProducts false (cut ((a.q[i]?).getD [])) (cut ((a.ks[t]?).getD [])) (List.replicate ks true))
  let r := contribute gang blk w ts s1
  .done r.1 { w with kstep := w.kstep + 1, toPark := r.2.1, flags := w.flags ||| (r.2.2 &&& fNV) }

/-- Elements that are rounded in RNE to a format, with their tests (R374). -/
def attCells (s : State) (gang blk : Nat) (f : Fmt) (cells : List Nat) : List (Cell × CellTest) :=
  cells.map fun e => let c := cellAt s gang blk e; (c, plainTest f .rne 0 c)
/-- The elements that RoundTo (f, RNE) leaves undecided take entries (R374); the next step waits for them. -/
def attDecide (s : State) (gang blk : Nat) (w : EngWord) (f : Fmt) (etype : Nat) (cells : List Nat) : EngOut :=
  .done s { w with kstep := w.kstep + 1, toPark := roundEntries s gang blk w 0 etype 0 cells ((attCells s gang blk f cells).map Prod.snd) }

/-- A row once its scores are decided: m, each pr and a, and whether each of those parks. -/
structure AttRow where
  i : Nat
  top : Nat
  prs : List Rounded
  a : Rounded
  entries : List (ParkNeed × ParkEntry)
  flags : FlagSet

/-- The entry that an undecided pr or a takes (R374): `FN` 0x8F with both operands. -/
def smxEntry (s : State) (gang blk : Nat) (w : EngWord) (etype opa opb : Nat) : ParkEntry :=
  { elemEntry s gang blk w 0 0 false (0, 0) 0 etype 0 0 with fn := 0x8F, kind := 0, bslt := 0, opa := BitVec.ofNat 64 opa, opb := BitVec.ofNat 64 opb }

/-- Row i of the block (R373); none when the record of a score fails its check. -/
def attRow (s : State) (gang blk : Nat) (w : EngWord) (d : KvDesc) (i : Nat) : Option AttRow :=
  (testedVals (attCells s gang blk .f32 (attScoreCells s gang blk w d i))).map fun vs =>
    let codes := vs.map fun v => (roundTo .f32 .rne 0 (laFVal .rne v)).code
    let val (c : Nat) : FVal := Fmt.f32.decode c
    let maxOf (a b : Nat) : Nat := (minMax .f32 true (val a) (val b) a b).code
    let st := (w.rows[i]?).getD (0, 0)
    let top := match codes with
      | [] => st.1
      | c :: r => let m := r.foldl maxOf c; if w.prog = 0 then m else maxOf st.1 m
    let wide (c : Nat) : Nat := (roundTo .f64 .rne 0 (val c)).code
    let xa := exactlySmx .f64 .rne 0 (val st.1) (val top)
    let xs := codes.map fun c => (c, exactlySmx .f32 .rne 0 (val c) (val top))
    let prs := xs.map fun x => x.2.round .f32 .rne 0
    let a := if w.prog = 0 then ⟨0, 0⟩ else xa.round .f64 .rne 0
    { i := i, top := top, prs := prs, a := a,
      entries := xs.map (fun x => (x.2.need .f32 .rne 0, smxEntry s gang blk w 10 x.1 top))
        ++ (if w.prog = 0 then [] else [(xa.need .f64 .rne 0, smxEntry s gang blk w 11 (wide st.1) (wide top))])
      flags := badFlags vs ||| a.flags ||| prs.foldl (fun f r => f ||| r.flags) 0 }

/-- The live rows; none when a record fails its check. -/
def attRowsOf (s : State) (gang blk : Nat) (w : EngWord) (d : KvDesc) : List Nat → Option (List AttRow)
  | [] => some []
  | i :: r =>
    match attRow s gang blk w d i, attRowsOf s gang blk w d r with
    | some x, some xs => some (x :: xs)
    | _, _ => none

/-- Each pr and a runs its fast path: those that must park, and of those that may the ones that the next park mask names, take entries (R157, log
entry 4). -/
def attParks (s : State) (w : EngWord) (rows : List AttRow) : EngOut :=
  let mask := (s.parkMask.head?).getD 0
  let parks (k : Nat) (n : ParkNeed) : Bool := match n with
    | .never => false
    | .may => mask.getLsbD (k % 32)
    | .must => true
  let es := (rows.flatMap AttRow.entries).mapIdx fun k e => if parks k e.1 then [{ e.2 with tie := e.1 == .must }] else []
  .done { s with parkMask := s.parkMask.tail } { w with kstep := w.kstep + 1, toPark := es.flatten }

/-- a × N as one contribution: a zero keeps its kind under a finite factor; a class from 5 to 15 is the canonical NaN, with `NV` (R139). -/
def laTimes (a : FVal) (v : LaVal) : LaVal × FlagSet :=
  match v with
  | .bad => let p := productE false a (laFVal .rne .bad); ((laOfValue p.1).1, p.2 ||| fNV)
  | .zero k => if a.isFinite || a.isZero then (.zero k, 0) else let p := productE false a (laFVal .rne (.zero k)); ((laOfValue p.1).1, p.2)
  | _ => let p := productE false a (laFVal .rne v); ((laOfValue p.1).1, p.2)

/-- What a block makes of a numerator: a × N, then the products (R138). A class 1 element stays class 1, its record begun again from a × N, and so
does one whose a × N does not fit (log entry 129). -/
def attNum (a : FVal) (old : LaElem) (v : LaVal) (cs : List FVal) : LaStep × FlagSet :=
  let t := laTimes a v
  let prev : List (Int × Int) := match t.1 with
    | .fin q => valueWindows q
    | _ => []
  (laApply (laIsEscalated old || decide (1 < prev.length)) true t.1 prev cs, t.2)

/-- Writes elements as their steps say: the state, the entries to be parked, the flags. -/
def performSteps (gang blk : Nat) (w : EngWord) : List (Nat × LaStep × FlagSet) → State → State × List ParkEntry × FlagSet
  | [], s => (s, [], 0)
  | (e, x, f) :: r, s =>
    let y := performStep gang blk w e x s
    let z := performSteps gang blk w r y.1
    (z.1, y.2.1 ++ z.2.1, f ||| y.2.2 ||| z.2.2)

/-- The sums of a row: its new denominator element and its numerators; none when a numerator's record fails its check. -/
def attSums (s : State) (gang blk : Nat) (w : EngWord) (d : KvDesc) (vs : List (List FVal)) (r : AttRow) : Option (List (Nat × LaStep × FlagSet)) :=
  let cells := (List.range d.dim).map fun e => cCell s gang blk w (attO d r.i e)
  (readCells s gang blk cells).map fun ns =>
    let a := Fmt.f64.decode r.a.code
    let pr := r.prs.map fun x => Fmt.f32.decode x.code
    let al := productE false a (Fmt.f64.decode ((w.rows[r.i]?).getD (0, 0)).2)
    let pf := attPf w
    let pq := pr.map fun x => let y := roundTo pf .rne 0 x; (pf.decode y.code, y.flags)
    let num (e : Nat) (x : Nat × LaVal) : Nat × LaStep × FlagSet :=
      let ps := (pq.zip vs).map fun y => productE (mfmtZp w.mfmt) y.1.1 ((y.2[e]?).getD .cnan)
      let n := attNum a (laAt s gang blk x.1) x.2 (ps.map Prod.fst)
      (x.1, n.1, n.2 ||| ps.foldl (fun f p => f ||| p.2) 0)
    (cCell s gang blk w (attDenom w d r.i), laStep (laZero 1) (al.1 :: pr), r.flags ||| al.2 ||| pq.foldl (fun f p => f ||| p.2) 0)
      :: (cells.zip ns).mapIdx num

/-- Those of the live rows. -/
def attSumsOf (s : State) (gang blk : Nat) (w : EngWord) (d : KvDesc) (vs : List (List FVal)) :
    List AttRow → Option (List (Nat × LaStep × FlagSet))
  | [] => some []
  | r :: rs =>
    match attSums s gang blk w d vs r, attSumsOf s gang blk w d vs rs with
    | some x, some xs => some (x ++ xs)
    | _, _ => none

/-- The rows' m and l after the block; none when the record of a denominator fails its check. -/
def attNewRows (s : State) (gang blk : Nat) (w : EngWord) (d : KvDesc) : List AttRow → Option (List (Nat × Nat) × FlagSet)
  | [] => some (w.rows, 0)
  | r :: rs =>
    match testedVals (attCells s gang blk .f64 [cCell s gang blk w (attDenom w d r.i)]), attNewRows s gang blk w d rs with
    | some [v], some x => some (x.1.set r.i (r.top, (roundTo .f64 .rne 0 (laFVal .rne v)).code), x.2 ||| badFlags [v])
    | _, _ => none

/-- The step after the K-steps that `n` counts. -/
def attAfter (s : State) (gang blk : Nat) (w : EngWord) (d : KvDesc) (n : Nat) (vs : List (List FVal)) : EngOut :=
  let live := attLive w d
  match n with
  | 0 => attDecide s gang blk w .f32 10 (live.flatMap (attScoreCells s gang blk w d))
  | 3 => attDecide s gang blk w .f64 11 (live.map fun i => cCell s gang blk w (attDenom w d i))
  | n => match attRowsOf s gang blk w d live with
    | none => badRecord s gang blk w
    | some rows => match n with
      | 1 => attParks s w rows
      | 2 => match attSumsOf s gang blk w d vs rows with
        | none => badRecord s gang blk w
        | some xs =>
          let r := performSteps gang blk w xs s
          .done r.1 { w with kstep := w.kstep + 1, toPark := r.2.1, flags := w.flags ||| (r.2.2 &&& fNV) }
      | _ => match attNewRows s gang blk w d rows with
        | none => badRecord s gang blk w
        | some x => .done s { w with prog := w.prog + 1, kstep := 0, rows := x.1, flags := w.flags ||| x.2 }

/-! ### The outputs -/

/-- The outputs of row i: numerators divided by l; +0 for a row that sees nothing. -/
def attOutputs (s : State) (gang blk : Nat) (w : EngWord) (d : KvDesc) (i : Nat) : Option (List (Nat × Rounded)) :=
  let cells := (List.range d.dim).map fun e => cCell s gang blk w (attO d i e)
  let l := Fmt.f64.decode ((w.rows[i]?).getD (0, 0)).2
  (readCells s gang blk cells).map fun ns =>
    (cells.zip ns).mapIdx fun e x =>
      let n := laFVal (kvwRnd w) x.2
      let dth := e % 32 + epiPhase w
      let r : Rounded := if attLimit w i = 0 then ⟨0, 0⟩
        else if n.isNan || l.isNan then nanPick .f32 [n, l]
        else roundExact .f32 (kvwRnd w) dth (divE n l)
      (x.1, { r with flags := r.flags ||| badFlags [x.2] })

/-- Every output is stored as a binary32 value, the final l in its denominator element; the score elements are zero of kind 1 (R373). -/
def attFinish (gang blk : Nat) (w : EngWord) (d : KvDesc) : Nat → Nat → FlagSet → State → EngOut
  | 0, _, f, s =>
    let r := takeFresh s
    let scores := (List.range (w.m * d.tb)).map fun k => cCell s gang blk w (w.m * d.dim + k)
    .done (noteC (zeroCells gang blk scores r.2) gang blk w) { w with stage := 1, flags := f, data := (Config.freeWord r.1).toNat }
  | n + 1, i, f, s =>
    match attOutputs s gang blk w d i with
    | none => badRecord s gang blk w
    | some os =>
      let s1 := os.foldl (fun s o => laWrite s gang blk o.1 (laOfValue (Fmt.f32.decode o.2.code)).1) s
      let s2 := laWrite s1 gang blk (cCell s1 gang blk w (attDenom w d i)) (laOfValue (Fmt.f64.decode ((w.rows[i]?).getD (0, 0)).2)).1
      let f1 := os.foldl (fun f o => f ||| (o.2.flags &&& (fNV ||| fNX ||| fUF ||| fOF))) f
      attFinish gang blk w d n (i + 1) f1 s2

/-- A tile in progress: the next step of a KV block, or the outputs. Its checks are not repeated; a fault of the KV space leaves it before the
block (R363, R375). -/
def attGo (s : State) (gang blk : Nat) (w : EngWord) : EngOut :=
  let again := { w with kstep := 0, toPark := [] }
  match engineKvDesc s gang, attFmt (taskAt s (gangAt s gang).task) w with
  | .error e, _ => kvEngineFault s gang blk again e (kvInfo e false 0 0 0 0 0)
  | _, none => .flt (FaultInfo.plain 0x04)
  | .ok d, some f =>
    if attBlocks w d ≤ w.prog then attFinish gang blk w d w.m 0 w.flags s
    -- the sums are made: the block's rows are read no more
    else if attSteps f d + 3 ≤ w.kstep then attAfter s gang blk w d (w.kstep - attSteps f d) []
    else
      let pos := w.prog * d.tb
      match attData s gang blk w d f with
      | .error e => kvEngineFault s gang blk again e { kvInfo e false 0 (d.keyOf w.md.toNat (kvwLayer w) pos) pos (kvwHead w) 0 with prog := w.prog }
      | .ok (a, s1) =>
        if w.kstep < attSteps f d then attScores s1 gang blk w d f a else attAfter s1 gang blk w d (w.kstep - attSteps f d) a.vs

/-! ## The turns of engine words -/

/-- The work of a word in its turn. -/
def engineWork (s : State) (gang blk : Nat) (w : EngWord) : EngOut :=
  match w.op with
  | 0x0A => startZero s gang blk w
  | 0x0D => if w.stage = 3 then stepEpi s gang blk w else startEpi s gang blk w
  | 0x0E => if w.stage = 3 then stepKv s gang blk w else startKv s gang blk w
  | 0x0F => if w.stage = 3 then attGo s gang blk w else attStart s gang blk w
  | _ => if w.stage = 3 then stepMma s gang blk w else startMma s gang blk w

/-- Whether a word in progress needs its entries resolved before its next step: an epilogue for the checks of a tile with a number. An MMA or MMAS waits for
single elements instead, and an epilogue without a number does its cell work before them (R321). -/
def EngWord.needsEntries (w : EngWord) : Bool := w.stage == 3 && ((w.op == 0x0D && epiTiled w) || w.op == 0x0E || w.op == 0x0F)

/-- ENGINE_WORD_START (R321, R333, R348): the turn of the engine's word. It is checked, waits and takes its reservation; then it goes on by one
step, after its entries have gone into the park queue. -/
def execEngineWordStart (gang blk : Nat) (s : State) : Out :=
  match engineHead (blockAt s gang blk).mat.queue with
  | some (i, w) =>
    if w.stage = 2 ∨ !engineRuns s gang blk w then .next s
    else if !w.resv && engineTaken s gang blk then .next s
    else if w.stage = 3 && !w.resv then
      -- it was left at a rest point, where it holds no reservation
      match reserveEntries s gang blk w with
      | some (s1, w1) => .next (setWord s1 gang blk i w1)
      | none => .next s
    else if !w.toPark.isEmpty then
      let r := placeEntries s gang blk w
      .next (setWord r.1 gang blk i r.2)
    else if w.needsEntries && entriesLeft s gang blk w then .next s
    else .next (engineStep s gang blk i w (engineWork s gang blk w))
  | none => .next s

end Sys2Proof.Machine
end

