-- ==== Sys2Proof/Machine/Fetch.lean ====
section
/-!
DEFINITION. Instruction fetch of the three streams (R85, R168, R238, R242, R288, R319), and the turns that a step takes when none is listed.
-/

namespace Sys2Proof.Machine

/-! ## Fetch -/

/-- What a fetch gives. -/
inductive FetchOut where
  | ok (bs : List Byte) (s : State)
  /-- the code lies in host memory and has not come yet -/
  | wait (s : State)
  /-- an instruction-fetch fault (R168, R295, R323) -/
  | flt (f : FaultInfo)
  /-- the fetch read a poisoned line (R419) -/
  | poison (pa : Nat)

/-- The stream that fetches: 0 group, 1 Tender, 3 matrix sequencer, with its gang, block and group; `ahead` says that the word asked for is not the
stream's next but the one behind a loop that a LOOPS skips (R172). -/
structure Fetcher where
  strm : Nat
  gang : Nat
  blk : Nat
  grp : Nat
  sup : Bool
  ahead : Bool := false

/-- The instruction-fetch fault at a code address. -/
def fetchFault (c : PageCause) (va : Nat) : FaultInfo := { FaultInfo.plain 0x06 with cause := c.code, fclass := 4, va := va }

/-- Whether a host access is the fetcher's own. -/
def Fetcher.owns (f : Fetcher) (a : HostAcc) : Bool :=
  a.kind == 6 && a.strm == f.strm && a.gang == f.gang && a.blk == f.blk && a.grp == f.grp && a.lane == (if f.ahead then 1 else 0)

/-- Code bytes at a physical address of device memory, as the cluster holds them (R233, log entry 38). -/
def codeBytes (s : State) (cl pa n : Nat) : List Byte := (List.range n).map fun k => clusterByte s cl (pa + k)

/-- Fetches n bytes of code, which lie in one line. The bytes of host memory that an earlier fetch of the stream asked for elsewhere, and has had no
use for, are forgotten with the next request. -/
def fetchCode (s : State) (f : Fetcher) (va n : Nat) : FetchOut :=
  let core := coreOf s f.gang f.blk
  match translate s core (taskAt s (gangAt s f.gang).task).lpb.asid va .fetch f.sup with
  | .error c => .flt (fetchFault c va)
  | .ok (t, s1) =>
    let pa := t.paOf va
    if t.mt = 1 then
      match s1.hostAccs.find? fun a => f.owns a && a.addr == pa with
      | some a =>
        match a.got with
        | some bs => .ok (bs.take n) { s1 with hostAccs := s1.hostAccs.filter fun a => !(f.owns a && a.addr == pa) }
        | none => .wait s1
      | none =>
        -- an access to host memory, which closes the window (R259)
        let s2 := { s1 with hostAccs := s1.hostAccs.filter fun a => !(f.owns a && a.got.isSome) }
        .wait (hostRequest (closeWindow s2 f.gang) 0xA0 n []
          { tag := 0, strm := f.strm, gang := f.gang, blk := f.blk, grp := f.grp, flight := 0, kind := 6, lane := if f.ahead then 1 else 0, reg := 0, etype := 0,
            addr := pa, len := n, got := none })
    else if poisoned s1 pa then .poison pa
    else .ok (codeBytes s1 (core / 16) pa n) s1

/-- The little-endian word k of fetched bytes. -/
def fetchedWord (bs : List Byte) (k : Nat) : W32 :=
  let b (j : Nat) : Byte := (bs[4 * k + j]?).getD 0
  wordOfBytes (b 0) (b 1) (b 2) (b 3)

/-- The start of a group's code: the gang program, or the code of the handler's work (R407, R424). -/
def codeBase (s : State) (gang blk : Nat) : Nat :=
  let gg := gangAt s gang
  let l := (taskAt s gg.task).lpb
  if blk = handlerBlk then
    match gg.busy.map HandlerWork.reason with
    | some 0 => l.pager
    | some 1 => s.mgmt.saveent
    | _ => s.mgmt.restent
  else l.gentry

/-- The address of a group's packet (R85). -/
def packetAddr (s : State) (gang blk : Nat) (pc : W32) : Nat := codeBase s gang blk + 32 * (pc.toNat / 8)
/-- The word at a group's pc and its packet's control and following words put into the packet buffer. -/
def loadPacket (g : Group) (bs : List Byte) : Group × W32 :=
  let k := g.pc.toNat % 8
  ({ g with ctl := fetchedWord bs 0, lit := fetchedWord bs (k + 1) }, fetchedWord bs k)

/-- The address of a Tender or matrix word. -/
def tenderWordAddr (s : State) (gang blk : Nat) : Nat :=
  (taskAt s (gangAt s gang).task).lpb.tentry + 4 * (blockAt s gang blk).tnd.tpc.toNat
def matrixWordAddr (s : State) (gang blk : Nat) : Nat :=
  (taskAt s (gangAt s gang).task).lpb.mentry + 4 * (blockAt s gang blk).mat.mpc.toNat

/-- A group's fetch fault, after a pending arithmetic trap (R135, R168). -/
def groupFetchFault (s : State) (f : FaultInfo) : State :=
  let s1 := setCurGroup s (landAt s.now (curGroup s))
  match pendingTrap (curGroup s1) with
  | some (idx, fl) => takeArithTrap s1 idx fl
  | none => takeFault s1 f

/-- A stream that reads a poisoned line is killed with its gang (R419, R431). -/
def fetchPoison (s : State) (gang strm blk grp : Nat) (idx : W32) : State :=
  killGang s gang 0x31 (faultWords s gang strm blk grp idx 0 { FaultInfo.plain 0x31 with fclass := 4 })

/-! ## Whether a stream may issue -/

/-- A group's word is fetched while it runs, when the stall count of the word before it has elapsed (R87); a TRAP that has issued is not fetched again
while it waits for the ring (R177). -/
def groupMayIssue (s : State) (gang blk grp : Nat) : Bool :=
  let g := groupAt s gang blk grp
  !s.off && g.st == .running && decide (g.readyAt ≤ s.now) && !g.called
/-- A Tender's word is fetched while it runs or waits (R289). -/
def tenderMayIssue (s : State) (gang blk : Nat) : Bool :=
  let t := (blockAt s gang blk).tnd
  !s.off && (t.st == .running || t.st == .waiting)
/-- A matrix sequencer's word (R321). -/
def matrixMayIssue (s : State) (gang blk : Nat) : Bool :=
  let m := (blockAt s gang blk).mat
  !s.off && (m.st == .running || m.st == .waiting)

/-! ## The turns taken when none is listed (log entry 3) -/

/-- The turns of a group: its next word, and the write-backs of its words in flight. -/
noncomputable def groupTurns (k : Nat) (g : Group) : List Turn :=
  let gang := k / 2048
  let blk := k % 2048 / 64
  let grp := k % 64
  ((g.flights.map fun f => Turn.event (.variableLatencyWriteback gang blk grp f.id))) ++ [.group gang blk grp]

/-- Inserts a value by a number before the larger ones, after its equals. -/
def insertBy {α : Type} (f : α → Nat) (x : α) : List α → List α
  | [] => [x]
  | y :: r => if f x < f y then x :: y :: r else y :: insertBy f x r
/-- A list by rising numbers, equals in their order. -/
def sortBy {α : Type} (f : α → Nat) (l : List α) : List α := l.foldl (fun a x => insertBy f x a) []

/-- The turns of a block's Tender: its copy words in program order, then its next word. -/
noncomputable def tenderTurns (k : Nat) (b : Block) : List Turn :=
  let gang := k / 32
  let blk := k % 32
  (sortBy (fun e => e.2.seq) b.tnd.active).flatMap (fun e =>
    if e.2.loop.isSome then [Turn.event (.tcopylIteration gang blk e.1), .event (.copyWordComplete gang blk e.1)]
    else [.event (.copyWordComplete gang blk e.1)]) ++ [.tender gang blk]

/-- Whether the next transition that completes a block's engine words moves a remote handle, so that it acts as a remote engine. -/
def finishesRemotely (b : Block) : Bool := match b.mat.queue.find? fun w => decide (w.ended < 2) with
  | some w => (w.ended == 0 && w.ra && w.bindA.remote != 0) || (w.ended == 1 && w.rb && w.bindB.remote != 0)
  | none => false
/-- Whether the next word of a block's sequencer is an MHSET that acts as a remote engine. -/
noncomputable def setsRemotely (s : State) (gang blk : Nat) : Bool :=
  matrixMayIssue s gang blk && match fetchCode { s with cur := ⟨gang, blk, 0⟩ } { strm := 3, gang := gang, blk := blk, grp := 0, sup := false }
      (matrixWordAddr s gang blk) 4 with
    | .ok bs _ => match decodeMatrix (fetchedWord bs 0) with
      | .mhset md _ _ => decide (16 ≤ md.toNat)
      | _ => false
    | _ => false
/-- The turns of a block's matrix engine and sequencer, and of its event queue and barriers, but for those in which it acts as a remote engine. -/
noncomputable def matrixTurns (s : State) (k : Nat) (b : Block) : List Turn :=
  let gang := k / 32
  let blk := k % 32
  let bars := b.bars.flatMap fun e => if e.2.rel < e.2.gen then [Turn.event (.barrierRelease gang blk e.1)] else []
  let posts := if b.posts.isEmpty then [] else [Turn.event (.eventPost gang blk)]
  let eng := if b.mat.queue.isEmpty then [] else
    [Turn.event (.engineWordStart gang blk), .event (.escalationBudget gang blk)]
      ++ if finishesRemotely b then [] else [.event (.engineWordComplete gang blk)]
  bars ++ posts ++ eng ++ if setsRemotely s gang blk then [] else [.matrix gang blk]
/-- The turns in which it does. -/
noncomputable def remoteTurns (s : State) (k : Nat) (b : Block) : List Turn :=
  (if finishesRemotely b then [Turn.event (.engineWordComplete (k / 32) (k % 32))] else [])
    ++ if setsRemotely s (k / 32) (k % 32) then [.matrix (k / 32) (k % 32)] else []

/-- The engines in the order in which transitions of one clock are applied (R250): the Tenders, the matrix engines on their own blocks, as remote engines by
block index, then the groups by partition and slot. -/
noncomputable def engineTurns (s : State) : List Turn :=
  (s.blocks.flatMap fun e => tenderTurns e.1 e.2)
    ++ s.blocks.flatMap (fun e => matrixTurns s e.1 e.2) ++ s.blocks.flatMap (fun e => remoteTurns s e.1 e.2)
    ++ (sortBy (fun e => (e.1 / 64 * 8 + partOf s (e.1 / 2048) (e.1 % 2048 / 64) (e.1 % 64)) * 8 + slotOf s (e.1 / 2048) (e.1 % 2048 / 64) (e.1 % 64))
        s.groups).flatMap fun e => groupTurns e.1 e.2

/-- The turns of a gang. -/
noncomputable def gangTurns (k : Nat) (g : Gang) : List Turn :=
  let bars := g.bars.flatMap fun e => if e.2.rel < e.2.gen then [Turn.event (.barrierRelease k 0 (16 + e.1))] else []
  bars ++ match g.phase with
  | .running => [.event (.handlerStart k), .event (.gangCompletion k)] ++ (if g.removal = .drain then [.event (.drainLimit k)] else [])
  | .placing => [.event (.gangStart k)]
  | .completing => [.event (.gangRetirement k)]
  | .saving => [.event (.handlerStart k)]
  | .restoring => [.event (.handlerStart k)]
  | .saved => [.event (.saveComplete k)]
  | _ => []

/-- The turns of a cluster. -/
noncomputable def clusterTurns (k : Nat) (c : Cluster) : List Turn :=
  (if c.edges.isEmpty then [] else [Turn.event (.edgeAction k none)])
    ++ [.event (.beaconTake k)] ++ (c.beacon.map fun e => .event (.beaconComplete (e / 512) (e % 512) true))
    ++ [.event (.lanternTake k)] ++ (if c.inStage.isSome then [.event (.lanternComplete k)] else [])

/-- The lines that caches hold beyond their sizes are replaced at the next clock (R255, R256, log entry 5). -/
def overfull (s : State) : List Turn :=
  (s.cores.flatMap fun e => List.replicate (e.2.rcache.length - readCacheLines) (Turn.replace true e.1 none false))
    ++ s.clusters.flatMap fun e => List.replicate (e.2.lines.length - clusterCacheLines) (Turn.replace false e.1 none false)

/-- Every turn that may do something. -/
noncomputable def agenda (s : State) : List Turn :=
  if s.mgmt.mstate = 0 then [.event (.powerGood 0)]
  else
    overfull s ++ [.event .taskDequeue, .event .gangPlacement, .event .reservation]
      ++ (s.clusters.flatMap fun e => clusterTurns e.1 e.2)
      ++ engineTurns s
      ++ (s.gangs.flatMap fun e => gangTurns e.1 e.2)
      ++ (s.tasks.map fun e => .event (.taskRetirement e.1))
      ++ (if s.calls.isEmpty && s.rings.isEmpty then [] else [.event .hostCallRecord])
      ++ (if s.tinvs.isEmpty then [] else [.event .translationInvalidationDone])
      ++ (if s.kvinvs.isEmpty then [] else [.event .kvInvalidationDone])
      ++ (if s.mgmt.mattbusy then [.event .attestationReport] else [])

/-- The turn that a step takes: the first of those listed. When none is listed, one clock has passed, and every turn that may do
something in the next clock is listed (log entry 3). -/
noncomputable def nextTurn (s : State) : Turn × State :=
  match s.turns with
  | t :: r => (t, { s with turns := r })
  | [] =>
    match agenda s with
    | [] => (.event .taskDequeue, { s with now := s.now + 1 })
    | t :: r => (t, { s with now := s.now + 1, turns := r })

/-! ## Consumed errors -/

/-- A word that consumes an uncorrectable error (R419): it writes nothing, and its gang is killed with the record of its stream and index. `k` is the
group, or the number of the copy record or of the queued engine word; the unit that holds the data counts the error (R432). -/
def dataError (s0 : State) (strm gang blk k ukind unit sub : Nat) : State :=
  let s := countAt s0 ukind unit sub
  let words (kind grp : Nat) (idx guard : W32) := faultWords s gang kind blk grp idx guard (FaultInfo.plain 0x31)
  let b := blockAt s gang blk
  let kill (ws : List W32) := killGang s gang 0x31 ws
  match strm with
  | 0 => if groupMayIssue s gang blk k then
      let g := groupAt s gang blk k
      kill (words 0 k g.pc (guardMask g))
    else s0
  | 1 => if tenderMayIssue s gang blk then kill (words 1 0 b.tnd.tpc 0) else s0
  | 2 => if matrixMayIssue s gang blk then kill (words 2 0 b.mat.mpc 0) else s0
  | 3 => match b.tnd.recs.get none k with
    | some r => if b.tnd.st = .running ∨ b.tnd.st = .waiting then kill (words 1 0 r.idx 0) else s0
    | none => s0
  | _ => match b.mat.queue[k]? with
    | some w => if !w.stuck && (b.mat.st == .running || b.mat.st == .waiting || b.mat.st == .suspended) then kill (words 2 0 w.idx 0) else s0
    | none => s0

end Sys2Proof.Machine
end

