-- ==== Sys2Proof/Machine/Control.lean ====
section
/-!
DEFINITION. Control words of the group program: transfers, loops, NOP, YIELD, STOP, TRAP, BKPT, MODE and the special registers of R105, and
the illegal words (spec/07, spec/04 R105, R108, R179 to R181).
-/

namespace Sys2Proof.Machine

/-- NOP (R175). -/
def execNop (s : State) : Out := issue (wordOf s .nop) (fun s => .ok s) s

/-- BR (R169). -/
def execBr (off : BitVec 20) (s : State) : Out :=
  issue (wordOf s (.br off)) (fun s => .jump s (offsetTarget (curGroup s).pc off) true) s

/-- BRC (R169): the condition is tested on SF. -/
def execBrc (cond : BitVec 4) (off : BitVec 20) (s : State) : Out :=
  issue (wordOf s (.brc cond off))
    (fun s =>
      let g := curGroup s
      if condHolds cond.toNat g.sf then .jump s (offsetTarget g.pc off) true else .ok s) s

/-- PBR (R170): any, all or none of p over the enabled lanes. -/
def execPbr (p : BitVec 4) (test : BitVec 2) (off : BitVec 18) (s : State) : Out :=
  issue (wordOf s (.pbr p test off))
    (fun s =>
      let g := curGroup s
      if predTest g p test then .jump s (offsetTarget g.pc off) true else .ok s) s

/-- CALL (R169): s383 receives the next word with scalar-ALU latency. -/
def execCall (off : BitVec 20) (s : State) : Out :=
  issue (wordOf s (.call off))
    (fun s =>
      let g := curGroup s
      let target := offsetTarget g.pc off
      .jump (setCurGroup s (addPend g s.now 2 [.s 383 (nextWord g.pc 0)] 0)) target false) s

/-- RET (R169). -/
def execRet (s : State) : Out :=
  issue (wordOf s .ret) (fun s => .jump s (readS (curGroup s) 383) false) s

/-- JMPR (R169). -/
def execJmpr (sa : BitVec 9) (s : State) : Out :=
  issue (wordOf s (.jmpr sa)) (fun s => .jump s (readS (curGroup s) sa.toNat) true) s

/-- The word at a code index of the group in focus, which its control thread fetches (R168). -/
def codeWordAt (s : State) (idx : W32) : FetchOut :=
  fetchCode s ⟨0, s.cur.gang, s.cur.blk, s.cur.grp, (curGroup s).handler, true⟩ (packetAddr s s.cur.gang s.cur.blk idx + 4 * (idx.toNat % 8)) 4

/-- LOOPS (R172): a last word at a control word's index is an illegal packet; a fifth entry is a loop-stack fault. With a count of 0 the next word
after E follows, which for a SLIT at E is the word after its literal (R168, log entry 117). -/
def execLoops (sc : BitVec 9) (last : BitVec 15) (s : State) : Out :=
  issue (wordOf s (.loops sc last))
    (fun s =>
      let g := curGroup s
      let e := loopLast g.pc last
      let n := readS g sc.toNat
      if n = 0 then
        -- the body is skipped without a transfer's delay
        match codeWordAt s e with
        | .wait s1 => .wait s1
        | .flt f => .flt f
        | .poison _ => .stop (fetchPoison s s.cur.gang 0 s.cur.blk s.cur.grp g.pc)
        | .ok bs s1 =>
          let skip := if opcodeOf (fetchedWord bs 0) = 0x34 then 1 else 0
          .halted (setCurGroup s1 (retireTo (curGroup s1) s1.now (nextWord e skip)))
      else if 4 ≤ g.loopd then .flt (FaultInfo.plain 0x07)
      else
        .halted (setCurGroup s
          (let r := retire g s.now 0
           { r with pc := nextWord g.pc 0, loops := g.loops.set LoopEntry.zero g.loopd ⟨nextWord g.pc 0, e, n⟩, loopd := g.loopd + 1 }))) s

/-- YIELD (R175): changes no state but the time of the next pass. -/
def execYield (s : State) : Out :=
  issue (wordOf s .yield)
    (fun s => .halted (setCurGroup s
      (let r := retire (curGroup s) s.now 0
       { r with readyAt := max r.readyAt (s.now + 2) }))) s

/-! ## MODE -/

/-- Writes one field of MODE (R101, R179). -/
def setModeField (mode : W32) (field v : Nat) : W32 :=
  let put (lo w : Nat) : W32 :=
    (mode &&& ~~~ (BitVec.ofNat 32 ((2 ^ w - 1) * 2 ^ lo))) ||| BitVec.ofNat 32 (v % 2 ^ w * 2 ^ lo)
  match field with
  | 0 => put 0 4 | 1 => put 4 1 | 2 => put 5 5 | 3 => put 10 3 | 4 => put 13 1 | _ => put 14 4

/-- SETM with an immediate (R179). -/
def execSetm (field : BitVec 4) (value : BitVec 5) (s : State) : Out :=
  issue (wordOf s (.setm field value))
    (fun s =>
      let g := curGroup s
      .ok (setCurGroup s { g with mode := setModeField g.mode field.toNat value.toNat })) s

/-- SETM with a register (R103, R179). -/
def execSetmReg (field : BitVec 4) (src : BitVec 9) (s : State) : Out :=
  issue (wordOf s (.setmReg field src))
    (fun s =>
      let g := curGroup s
      let v := (readS g src.toNat).toNat
      if setmOk field v then .ok (setCurGroup s { g with mode := setModeField g.mode field.toNat v })
      else .flt (FaultInfo.plain 0x02)) s

/-- A value that SETMR, and XMODE, accept (R103, R180). -/
def modeOk (v : W32) : Bool := decide (v.toNat < 2 ^ 18) && decide (v.toNat / 1024 % 8 < 6)

/-- SETMR (R180). -/
def execSetmr (sa : BitVec 9) (s : State) : Out :=
  issue (wordOf s (.setmr sa))
    (fun s =>
      let g := curGroup s
      let v := readS g sa.toNat
      if modeOk v then .ok (setCurGroup s { g with mode := v }) else .flt (FaultInfo.plain 0x02)) s

/-- GETM (R180). -/
def execGetm (sd : BitVec 9) (s : State) : Out :=
  issue (wordOf s (.getm sd))
    (fun s => fixedResult s 2 [.s sd.toNat (curGroup s).mode] 0) s

/-! ## Special registers of R105 -/

/-- The iterations left in the innermost loop (R105, R172). -/
def loopCount (g : Group) : W32 := if g.loopd = 0 then 0 else (g.loops.get LoopEntry.zero (g.loopd - 1)).count

/-- PLACE (R105): partition, cluster, core. -/
def placeWord (core part : Nat) : W32 := BitVec.ofNat 32 (part % 8 * 256 + core / 16 % 16 * 16 + core % 16)

/-- A special register below the supervisor range, as the group (gang, blk, grp) with record g reads it; none for a number that is not
listed (R105). A handler group reads block and group index 0 (log entry 27). -/
def readSpecial (s : State) (gang blk grp : Nat) (g : Group) (n : Nat) : Option W32 :=
  let gg := gangAt s gang
  let l := (taskAt s gg.task).lpb
  let w (x : Nat) : W32 := BitVec.ofNat 32 x
  match n with
  | 0x000 => some g.flags
  | 0x001 => some g.trapen
  | 0x002 => some g.sf
  | 0x003 => some (w g.psd)
  | 0x004 => some (g.lclk.setWidth 32)
  | 0x005 => some g.clkHi
  | 0x006 => some (w (if g.handler then 0 else grp))
  | 0x007 => some (w (if g.handler then 0 else blk))
  | 0x008 => some (w gg.gx)
  | 0x009 => some (w gg.gy)
  | 0x00A => some (w l.gridx)
  | 0x00B => some (w l.gridy)
  | 0x00C => some (placeWord (coreOf s gang blk) (partOf s gang blk grp))
  | 0x00D => some (w l.argp)
  | 0x00E => some (w (l.argp / 2 ^ 32))
  | 0x00F => some (w s.now)
  | 0x010 => some g.cycHi
  | 0x011 => some (loopCount g)
  | 0x012 => some (if g.handler then 1 else 0)
  | _ => none

/-- What reading a special register latches: CLKLO latches the clock's high half, CYCLO that of the CCLK count (R105). -/
def latchSpecial (now : Nat) (g : Group) (n : Nat) : Group :=
  if n = 0x004 then { g with clkHi := (g.lclk >>> 32).setWidth 32 }
  else if n = 0x00F then { g with cycHi := BitVec.ofNat 32 (now / 2 ^ 32) }
  else g

/-- WRSR to a register below the supervisor range; none where it is read-only or not listed. Reserved bits are ignored (R181). -/
def writeSpecial (g : Group) (n : Nat) (x : W32) : Option Group :=
  match n with
  | 0x000 => some { g with flags := x &&& 0xFF }
  | 0x001 => some { g with trapen := x &&& 0x1FF }
  | 0x002 => some { g with sf := x &&& 0xF }
  | _ => none

/-! ## Illegal words -/

/-- An illegal group word (R108, R109): the illegal packet first, then the reserved opcode, then the privilege of opcodes 0x11 to 0x16 and of
the supervisor registers, then the field. -/
def execIllegalInstruction (w : W32) (s : State) : Out :=
  issue (wordOf s (.illegalInstruction w))
    (fun _ => .flt (FaultInfo.plain 0x02)) s

end Sys2Proof.Machine
end

