-- ==== Sys2Proof/Machine/Removal.lean ====
section
/-!
DEFINITION. The removal of a gang: what is chosen, the start of a save, the kill under a failed unit, and removals that wait for an edge action
or a restore to end (spec/15 R421 to R424, R431, R433, spec/03 R78).
-/

namespace Sys2Proof.Machine

/-- The sum of the logical clocks of a gang's groups (R422). -/
def gangProgress (s : State) (gang : Nat) : Nat := (gangGroups s gang).foldl (fun n e => n + e.2.2.lclk.toNat) 0

/-- The drain test (R422): some gang of the task has retired and 256 × r ≥ `PDRAIN` × E, with E the mean of the sums kept. -/
def drainTest (s : State) (gang : Nat) : Bool :=
  let l := (taskAt s (gangAt s gang).task).sums
  !l.isEmpty && decide (s.mgmt.pdrain * l.foldl (· + ·) 0 ≤ 256 * gangProgress s gang * l.length)

/-- Whether gangs can be saved at all (R423). -/
def canSave (s : State) : Bool := s.mgmt.saveent != 0 && s.mgmt.restent != 0
/-- The flush test (R422). -/
def flushable (s : State) (gang : Nat) : Bool :=
  let gg := gangAt s gang
  let l := (taskAt s gg.task).lpb
  l.pclass == 0 && l.idem && gg.window

/-- The form of a removal (R422, R423); `fence` says that a unit under the gang is to be fenced. -/
def removalChoice (s : State) (gang : Nat) (fence : Bool) : Removal :=
  let l := (taskAt s (gangAt s gang).task).lpb
  if fence then if flushable s gang then .flush else if canSave s then .save else .kill
  else if l.pclass = 2 then .drain
  else if drainTest s gang then .drain
  else if flushable s gang then .flush
  else if canSave s then .save
  else .drain

/-- Begins a save (R424 step 1): the streams stop, and the saving handler's work joins the gang's. -/
def beginSave (s : State) (gang : Nat) : State :=
  let s := stopStreams true s gang
  let gg := gangAt s gang
  setGangAt s gang { gg with phase := .saving, removal := .save, savePoint := true, work := gg.work ++ [⟨1, List.replicate 16 0, 0, 0, 0, s.now, false⟩] }

/-- The record of a kill for a failed unit (R431). -/
def unitWords (s : State) (gang core : Nat) : List W32 :=
  let gg := gangAt s gang
  let n (x : Nat) : W32 := BitVec.ofNat 32 x
  [n (0x33 * 2 ^ 24 + 2 ^ 16 + 0xFF), 0, 0, 0, 0, 0, 0, 0, n gg.gx, n gg.gy, whoWord core 0 0, 0, 0, 0, 0, 0]

/-- Removes a running gang. `core` is the failed unit's core plus 1, 0 for a request that is not made by fencing; `since` the clock of the
request. -/
def removeRunning (s : State) (gang core since : Nat) : State :=
  let gg := gangAt s gang
  match removalChoice s gang (core != 0) with
  | .drain => if gg.removal = .none then setGangAt s gang { gg with removal := .drain, removalAt := since } else s
  | .flush => flushGang s gang 0
  | .save => beginSave s gang
  | .kill => killGang s gang 0x33 (unitWords s gang (core - 1))
  | .none => s

/-- Asks for a gang's removal (R421). A gang in its start actions, or in a restore, is removed after them (R78); one that has reached completion, or
is being saved or is saved, is no candidate. -/
def removeGang (s : State) (gang core : Nat) : State :=
  let gg := gangAt s gang
  match gg.phase with
  | .running => removeRunning s gang core s.now
  | .placing | .restoring =>
    setGangAt s gang { gg with removal := .drain, removalAt := if gg.removal = .none then s.now else gg.removalAt,
                               removalCore := if core = 0 then gg.removalCore else core }
  | _ => s

/-- A removal that waited is made when the gang runs. -/
def removeWaiting (s : State) (gang : Nat) : State :=
  let gg := gangAt s gang
  if gg.removal = .none then s
  else removeRunning (setGangAt s gang { gg with removal := .none, removalCore := 0 }) gang gg.removalCore gg.removalAt

/-- DRAIN_LIMIT (R422, R423): a drained gang of class 0 or 1 that has not retired in time is saved; without a save routine it is flushed where
that is allowed, and else drains on. -/
def execDrainLimit (gang : Nat) (s : State) : Out :=
  let gg := gangAt s gang
  let due := gg.phase = .running ∧ gg.removal = .drain ∧ (taskAt s gg.task).lpb.pclass ≠ 2 ∧ gg.removalAt + s.mgmt.pdlim * 1024 ≤ s.now
  if due then
    .next (if canSave s then beginSave s gang else if flushable s gang then flushGang s gang 0 else s)
  else .next s

end Sys2Proof.Machine
end

