-- ==== Sys2Proof/Machine/Landing.lean ====
section
/-!
DEFINITION. Events that end what the streams began: variable-latency write-backs, park entries in the Beacon units and Lantern stages, the release
of barrier waiters, event posts, and the end of a page walk (spec/06 R150, R151, R161 to R164, spec/14 R390, spec/09 R242, R254, spec/15
R433).
-/

namespace Sys2Proof.Machine

/-! ## Write-backs (R150, R151) -/

/-- Whether an access to host memory that a flight stands for still awaits its response: one of its own, for a DRAINNT an earlier `STNT`'s of
the group (R274), or one that a FENCE waits for. -/
def flightWaits (s : State) (gang blk grp : Nat) (f : Flight) : Bool :=
  s.hostAccs.any fun a => a.strm == 0 && a.gang == gang && a.blk == blk && a.grp == grp && a.kind != 5 && a.kind != 6
    && (a.flight == f.id || (f.drains && a.nt && decide (a.flight < f.id)) || fenceBehind f a)

/-- Replaces the flight of a number, or removes it. -/
def putFlight (g : Group) (id : Nat) (f : Option Flight) : Group :=
  { g with flights := g.flights.filterMap fun x => if x.id = id then f else some x }

/-- A flight with nothing left to deliver ends: its counter is lowered and its flags are set (R151, R164). -/
def endFlight (g : Group) (f : Flight) : Group :=
  setFlags (lowerCounter (putFlight g f.id none) f.cnt) f.idx f.flags

/-- The undelayed results of a flight are written; it ends unless lanes are parked. -/
def writeFlight (g : Group) (f : Flight) : Group :=
  let g1 := if f.written then g else applyWrites g f.ws
  if f.parked.isEmpty then endFlight g1 f else putFlight g1 f.id (some { f with written := true })

/-- The end of a rounding test (R157, R159): the undecided lanes take the lowest free park entries, with this clock as `PTIME`, and what the word
had reserved is free again. The flight that stays, and the core's record. -/
def endTest (c : Core) (now : Nat) (f : Flight) : Flight × Core :=
  let placed := (freeEntries c f.toPark.length).zip f.toPark
  ({ f with parked := f.parked ++ placed.map (fun e => (e.1, e.2.2)), toPark := [], held := 0 },
   { c with park := placed.foldl (fun m e => m.set none e.1 (some { e.2.1 with ptime := now })) c.park, reserved := c.reserved - f.held })

/-- The accesses of a KV word are performed, in lane order (R362, R364): the state and the registers that the reads write. -/
def performKv : List KvAcc → State → State × List RegWrite
  | [], s => (s, [])
  | a :: r, s =>
    match a.val with
    | some x =>
      let s1 := a.write x s
      performKv r (match a.fill with
        | some (pa, n) => raiseFill s1 pa n
        | none => s1)
    | none =>
      let y := performKv r s
      (y.1, .v a.reg a.lane (BitVec.ofNat 32 (a.read s)) :: y.2)
/-- Whether a KV word reads a poisoned line (R74). -/
def Flight.consumes (s : State) (f : Flight) : Bool := f.kv.any fun a => a.val.isNone && a.pas.any (poisoned s)
/-- Whether a KV word of the group that issued before f has an access in flight to a byte that f accesses (R362). -/
def kvBehind (g : Group) (f : Flight) : Bool :=
  g.flights.any fun o => decide (o.id < f.id) && o.kv.any fun a => f.kv.any fun b => a.pas.any b.pas.contains

/-- Flight f of a group lands: after every fixed-latency write whose clock has come (R88), its KV accesses are performed, its rounding test ends and its
results are written. -/
def landFlight (s0 : State) (gang blk grp : Nat) (f : Flight) : State :=
  let core := coreOf s0 gang blk
  let k := performKv f.kv s0
  let s := k.1
  let home (e : ParkEntry) : ParkEntry := { e with part := partOf s gang blk grp, slot := slotOf s gang blk grp }
  let r := endTest (coreAt s core) s.now { f with ws := f.ws ++ k.2, kv := [], toPark := f.toPark.map fun e => (home e.1, e.2) }
  setGroupAt (if f.held = 0 ∧ f.toPark = [] then s else setCoreAt s core r.2) gang blk grp (writeFlight (landAt s.now (groupAt s gang blk grp)) r.1)

/-- Whether a word that is executed again, and so has no reservation, finds too few free park entries yet (R155, R159). -/
def noEntries (s : State) (core : Nat) (f : Flight) : Bool := f.held == 0 && decide (512 < parkUsed s core + f.toPark.length) && !f.toPark.isEmpty

/-- VARIABLE_LATENCY_WRITEBACK: flight k of a group lands, once its least latency has passed (R151, R157), the host has answered its accesses and the
earlier KV words have made theirs. One that reads a poisoned line kills its gang (R419). -/
def execVariableLatencyWriteback (gang blk grp k : Nat) (s : State) : Out :=
  let g := groupAt s gang blk grp
  match g.flights.find? fun f => f.id == k with
  | none => .next s
  | some f => .next (
      if flightWaits s gang blk grp f ∨ s.now < f.due ∨ kvBehind g f ∨ noEntries s (coreOf s gang blk) f then s
      else if f.consumes s then killGang s gang 0x31 (faultWords s gang 0 blk grp f.idx (guardMask g) (FaultInfo.plain 0x31))
      else landFlight s gang blk grp f)

/-! ## Park entries (R160 to R164) -/

/-- A park entry by its reference, core × 512 + entry number. -/
def entryAt (s : State) (ref : Nat) : Option ParkEntry := (coreAt s (ref / 512)).park.get none (ref % 512)
def setEntry (s : State) (ref : Nat) (e : Option ParkEntry) : State :=
  let c := coreAt s (ref / 512)
  setCoreAt s (ref / 512) { c with park := c.park.set none (ref % 512) e }
def setStage (s : State) (ref : Nat) (st : Stage) : State :=
  match entryAt s ref with
  | some e => setEntry s ref (some { e with stage := st })
  | none => s

/-- The lane of a resolved entry is written, and its word ends with its last entry (R164). -/
def resolveLane (g : Group) (f : Flight) (n : Nat) : Group :=
  match f.parked.find? fun e => e.1 == n with
  | none => g
  | some (_, ws, fl) =>
    let f1 := { f with parked := f.parked.filter fun e => e.1 != n, flags := f.flags ||| fl }
    let g1 := applyWrites g ws
    if f1.parked.isEmpty && f1.written then endFlight g1 f1 else putFlight g1 f.id (some f1)

/-- The engine word that an entry belongs to. -/
def entryWord (s : State) (p : ParkEntry) : Option EngWord := (blockAt s p.gang p.blk).mat.queue.find? fun w => w.seq == p.flight
/-- An entry of an engine word is resolved: a contribution is applied to its element's record (R332), while a round-out and an entry of ATT return a
value that the engine takes from the exact one. An empty exact-sum pool fails the task (R334). -/
def resolveEngine (s : State) (p : ParkEntry) : State :=
  match entryWord s p with
  | none => s
  | some w =>
    if p.kind ≠ 2 ∨ p.op2 ≠ 0 then s
    else match applyWindow s p with
      | .ok s1 => s1
      | .full => failTask s (gangAt s p.gang).task 6 0 []
      | .bad => killGang (countAt s 1 (coreOf s p.gang p.blk) 0) p.gang 0x31 (faultWords s p.gang 2 p.blk 0 w.idx 0 (FaultInfo.plain 0x31))

/-- Resolves an entry: the result of a gang that is gone is discarded (R426). -/
def resolveEntry (s : State) (ref : Nat) : State :=
  match entryAt s ref with
  | none => s
  | some e =>
    let s := setEntry s ref none
    if e.grp = engineGrp then resolveEngine s e
    else
    let g := groupAt s e.gang e.blk e.grp
    match g.flights.find? fun f => f.id == e.flight with
    | none => s
    | some f => setGroupAt s e.gang e.blk e.grp (resolveLane (landAt s.now g) f (ref % 512))

/-- An uncorrectable error in a park entry that is consumed (R419): the gang of its word is killed, and the core counts the error (R432). -/
def parkError (core entry : Nat) (s0 : State) : State :=
  let s := countAt s0 1 core 0
  match entryAt s0 (core * 512 + entry % 512) with
  | none => s0
  | some p =>
    if p.grp = engineGrp then match entryWord s p with
      | some w => killGang s p.gang 0x31 (faultWords s p.gang 2 p.blk 0 w.idx 0 (FaultInfo.plain 0x31))
      | none => s0
    else
      let g := groupAt s p.gang p.blk p.grp
      match g.flights.find? fun f => f.id == p.flight with
      | some f => killGang s p.gang 0x31 (faultWords s p.gang 0 p.blk p.grp f.idx (guardMask g) (FaultInfo.plain 0x31))
      | none => s0

/-- The cluster of an entry, and the other cluster of a compute die. -/
def clusterOfRef (ref : Nat) : Nat := ref / 512 / 16
def partnerOf (cl : Nat) : Nat := if cl % 2 = 0 then cl + 1 else cl - 1

/-- The unresolved entries of a cluster's cores. -/
def entriesOf (s : State) (cl : Nat) : List (Nat × ParkEntry) :=
  (List.range 16).flatMap fun i => (coreAt s (cl * 16 + i)).park.filterMap fun e => e.2.map fun p => ((cl * 16 + i) * 512 + e.1, p)
/-- Whether a gang holds cores in the sense of a unit under it (R433). -/
def placedOn (g : Gang) : Bool := g.phase != .vacant && g.phase != .removed
/-- The gangs that hold unresolved entries of a cluster. -/
def holdersOf (s : State) (cl : Nat) : List Nat :=
  (((entriesOf s cl).map fun e => e.2.gang).eraseDups).filter fun g => placedOn (gangAt s g)
/-- Drops the unresolved entries of a cluster's cores. -/
def dropEntries (s : State) (cl : Nat) : State :=
  let s1 := (List.range 16).foldl (fun s k =>
    setCoreAt s (cl * 16 + k) { coreAt s (cl * 16 + k) with park := [] }) s
  let own (r : Nat) : Bool := clusterOfRef r == cl
  { s1 with clusters := s1.clusters.mapVals Cluster.vacant fun c => { c with
      beacon := c.beacon.filter fun r => !own r
      lantern := c.lantern.filter fun r => !own r
      inStage := if c.inStage.any own then none else c.inStage } }
/-- With no unit left to serve a cluster's entries, the gangs that hold them are killed and the entries go. -/
def killHolders (s : State) (cl : Nat) : State :=
  dropEntries ((holdersOf s cl).foldl (fun s g => killGang s g 0x33 (unitWords s g (cl * 16))) s) cl
/-- Whether a cluster whose units have failed has entries and no partner to serve them: its units are fenced, by counting too, or have failed. -/
def noServer (s : State) (cl : Nat) : Bool :=
  ((clusterAt s (partnerOf cl)).fenced || (clusterAt s (partnerOf cl)).passOn) && !(entriesOf s cl).isEmpty

/-- The waiting entries of a core's queue in order of parking. -/
def waitingEntries (s : State) (core : Nat) : List Nat :=
  let es := (coreAt s core).park.filterMap fun e => match e.2 with
    | some p => if p.stage = .waiting then some (p.ptime, core * 512 + e.1) else none
    | none => none
  (es.mergeSort fun a b => decide (a.1 < b.1 ∨ (a.1 = b.1 ∧ a.2 ≤ b.2))).map Prod.snd

/-- The first core of a cluster from the round-robin position on whose queue has waiting entries. -/
def nextQueue (s : State) (cl rr : Nat) : Option Nat :=
  ((List.range 16).map fun k => cl * 16 + (rr + k) % 16).find? fun c => !(waitingEntries s c).isEmpty

/-- The core that a Beacon unit serves next: of its own cluster, then of its partner when that has failed (R433). -/
def beaconQueue (s : State) (cl : Nat) : Option Nat :=
  match nextQueue s cl (clusterAt s cl).rr with
  | some c => some c
  | none => if (clusterAt s (partnerOf cl)).passOn then nextQueue s (partnerOf cl) (clusterAt s (partnerOf cl)).rr else none

/-- BEACON_TAKE (R161): up to two entries of one queue, while slots are free. A failed unit takes none; its cluster's entries are its partner's to serve,
and where the partner's units are fenced or have failed too, the gangs that hold them are killed (R433). -/
def execBeaconTake (cluster : Nat) (s : State) : Out :=
  let c := clusterAt s cluster
  if c.passOn then .next (if noServer s cluster then killHolders s cluster else s)
  else match if 320 ≤ c.beacon.length then none else beaconQueue s cluster with
    | none => .next s
    | some core =>
      let refs := (waitingEntries s core).take (min 2 (320 - c.beacon.length))
      let s1 := refs.foldl (fun s r => setStage s r .beacon) s
      let s2 := setClusterAt s1 cluster { clusterAt s1 cluster with beacon := c.beacon ++ refs }
      .next (setClusterAt s2 (core / 16) { clusterAt s2 (core / 16) with rr := (core + 1) % 16 })

/-- The unit that holds an entry: its own cluster's or the partner's. -/
def beaconHolder (s : State) (ref : Nat) : Option Nat :=
  [clusterOfRef ref, partnerOf (clusterOfRef ref)].find? fun cl => (clusterAt s cl).beacon.contains ref

/-- Whether a contribution has to wait for an earlier one to its element (R332): for any that is unresolved, or, on its way to the Lantern stage, which
keeps the order itself (R162), for one that has not gone there. -/
def contribBehind (s : State) (ref : Nat) (toList : Bool) : Bool :=
  match entryAt s ref with
  | none => false
  | some p => p.kind == 2 && p.op2 == 0 && (coreAt s (ref / 512)).park.any fun x => match x.2 with
      | some o => o.contributes p.gang p.blk p.eidx && decide (o.ptime < p.ptime ∨ (o.ptime = p.ptime ∧ x.1 < ref % 512))
          && (!toList || o.stage == .waiting || o.stage == .beacon)
      | none => false

/-- BEACON_COMPLETE (R161): a decided entry is resolved, another goes on the Lantern list. An entry whose exact result is a point of R157's list is
never decided here. Contributions to an element are applied in the order in which they were parked (R332). -/
def execBeaconComplete (core entry : Nat) (decides : Bool) (s : State) : Out :=
  let ref := core * 512 + entry % 512
  let decided := decides && !((entryAt s ref).any ParkEntry.tie)
  match if contribBehind s ref (!decided) then none else beaconHolder s ref with
  | none => .next s
  | some cl =>
    let c := clusterAt s cl
    let s1 := setClusterAt s cl { c with beacon := c.beacon.filter fun r => r != ref }
    if decided then .next (resolveEntry s1 ref)
    else
      let c1 := clusterAt s1 cl
      .next (setStage (setClusterAt s1 cl { c1 with lantern := c1.lantern ++ [ref] }) ref .list)

/-- `PTIME` of an entry. -/
def ptimeOf (s : State) (ref : Nat) : W32 := BitVec.ofNat 32 (((entryAt s ref).map ParkEntry.ptime).getD 0)
/-- The order in which the Lantern stage takes entries (R162): its own cluster's first, then by `PTIME` as a signed difference, then core
and entry number. -/
def lanternBefore (s : State) (cl a b : Nat) : Bool :=
  let own (r : Nat) : Bool := clusterOfRef r == cl
  if own a != own b then own a
  else
    let d := (ptimeOf s a - ptimeOf s b).toInt
    decide (d < 0) || (d == 0 && decide (a < b))
/-- The entry that the stage takes. -/
def lanternPick (s : State) (cl : Nat) : List Nat → Option Nat
  | [] => none
  | r :: rest =>
    match lanternPick s cl rest with
    | none => some r
    | some b => if lanternBefore s cl r b then some r else some b

/-- LANTERN_TAKE. -/
def execLanternTake (cluster : Nat) (s : State) : Out :=
  let c := clusterAt s cluster
  match c.inStage, lanternPick s cluster c.lantern with
  | none, some r =>
    if c.passOn then .next s
    else .next (setStage (setClusterAt s cluster { c with lantern := c.lantern.filter fun x => x != r, inStage := some r }) r .lantern)
  | _, _ => .next s

/-- LANTERN_COMPLETE (R162): the stage decides every entry. -/
def execLanternComplete (cluster : Nat) (s : State) : Out :=
  let c := clusterAt s cluster
  match c.inStage with
  | some r => .next (resolveEntry (setClusterAt s cluster { c with inStage := none }) r)
  | none => .next s

/-- Whether entries of a gang are parked anywhere, or entries of flushed gangs on a core: that core is not released before they resolve
(R426). -/
def orphanOn (s : State) (core : Nat) : Bool :=
  (coreAt s core).park.any fun e => match e.2 with
    | some p => if p.grp = engineGrp then (entryWord s p).isNone else !((groupAt s p.gang p.blk p.grp).flights.any fun f => f.id == p.flight)
    | none => false

/-! ## Barriers, events, walks -/

/-- BARRIER_RELEASE (R390): the waiters of the completed phases of a barrier are released; b is 16 to 19 for g0 to g3. -/
def execBarrierRelease (gang blk b : Nat) (s : State) : Out :=
  let x := barAt s gang blk b
  if x.rel < x.gen then .next (setBarAt s gang blk b { x with rel := x.gen }) else .next s

/-- EVENT_POST (R254): the oldest waiting record enters the queue when there is room. -/
def execEventPost (gang blk : Nat) (s : State) : Out :=
  let b := blockAt s gang blk
  match b.posts with
  | (_, r) :: rest =>
    if b.events.length < 64 then .next (setBlockAt s gang blk { b with events := b.events ++ [r], posts := rest }) else .next s
  | [] => .next s

/-- PAGE_WALK_END (R242): a walk ends and its group may fetch again. A word's translation is made with the word here, so only time passes
(log entry 4). -/
def execPageWalkEnd (_gang _blk _grp : Nat) (s : State) : Out := .next s

end Sys2Proof.Machine
end

