-- ==== Sys2Proof/Machine/Fit.lean ====
section
/-!
DEFINITION. Where blocks and handler slots fit, and the order in which the gangs of a task are offered (spec/01 R15, R20, R21, spec/02 R48, R49,
R51, spec/03 R71, spec/09 R243, spec/15 R407).
-/

namespace Sys2Proof.Machine

/-! ## What a core holds -/

/-- Vector registers per lane of a task's groups. -/
def regsOf (l : Lpb) : Nat := 16 * (l.regsC + 1)
/-- Whether a gang holds cores: from its placement to its retirement or its save. -/
def onCores (g : Gang) : Bool := g.phase != .vacant && g.phase != .removed

/-- The blocks on a core. -/
def blocksOn (s : State) (core : Nat) : List Block := (s.blocks.filter fun e => e.2.used && e.2.core == core).map Prod.snd
/-- The partitions of the handler slots on a core. -/
def handlersOn (s : State) (core : Nat) : List Nat := (s.gangs.filter fun e => onCores e.2 && e.2.hcore == core).map fun e => e.2.hpart

/-- Groups and vector registers per lane in each of a core's eight partitions, handler slots counted with 64 registers. -/
abbrev Loads := List (Nat × Nat)
def coreLoads (s : State) (core : Nat) : Loads :=
  let bs := blocksOn s core
  let hs := handlersOn s core
  (List.range 8).map fun p =>
    (bs.foldl (fun n b => n + b.parts.count p) (hs.count p), bs.foldl (fun n b => n + b.parts.count p * b.nv) (64 * hs.count p))
/-- The loads of an empty core. -/
def emptyLoads : Loads := List.replicate 8 (0, 0)

/-- A partition holds one more group of nv registers per lane (R21). -/
def roomFor (nv : Nat) (x : Nat × Nat) : Bool := decide (x.1 < 8) && decide (x.2 + nv ≤ 512)
def loadAtPart (ls : Loads) (p : Nat) : Nat × Nat := (ls[p]?).getD (8, 512)
/-- The first partition from p on, in turn, that is not fenced and has room. -/
def nextPart (fenced : List Nat) (nv p : Nat) (ls : Loads) : Option Nat :=
  ((List.range 8).map fun k => (p + k) % 8).find? fun q => !fenced.contains q && roomFor nv (loadAtPart ls q)

/-- Deals n groups to partitions in turn (R21): their partitions, and the loads with them. -/
def dealGroups (fenced : List Nat) (nv : Nat) : Nat → Nat → Loads → Option (List Nat × Loads)
  | 0, _, ls => some ([], ls)
  | n + 1, p, ls =>
    match nextPart fenced nv p ls with
    | none => none
    | some q =>
      let x := loadAtPart ls q
      match dealGroups fenced nv n (q + 1) (ls.set q (x.1 + 1, x.2 + nv)) with
      | none => none
      | some r => some (q :: r.1, r.2)

/-- The slots of a partition in use: those of the blocks on the core, and of the handler groups of other gangs. -/
def slotsUsed (s : State) (gang core p : Nat) : List Nat :=
  ((blocksOn s core).flatMap fun b => (b.parts.zip b.slots).filterMap fun x => if x.1 = p then some x.2 else none)
    ++ (s.gangs.filter fun e => e.1 != gang && onCores e.2 && e.2.hcore == core && e.2.hpart == p).map fun e => e.2.hslot
/-- The lowest slot of a partition's eight that is free. -/
def freeGroupSlot (used : List Nat) : Nat := ((List.range 8).find? fun k => !used.contains k).getD 0
/-- The slots of groups dealt to partitions, in group order: each takes the lowest that is free (log entry 119). -/
def takeSlots (used : Nat → List Nat) : List Nat → List (Nat × Nat) → List Nat
  | [], _ => []
  | p :: r, taken =>
    let k := freeGroupSlot (used p ++ (taken.filter fun x => x.1 == p).map Prod.snd)
    k :: takeSlots used r ((p, k) :: taken)

/-- The lowest start of a free range of n units below `limit`, beside the ranges (start, length) in use (R243). -/
def freeRange (used : List (Nat × Nat)) (n limit : Nat) : Option Nat :=
  if n = 0 then some 0
  else (List.range (limit + 1 - n)).find? fun p => used.all fun u => decide (p + n ≤ u.1) || decide (u.1 + u.2 ≤ p) || u.2 == 0

/-- A place for one block: its core, its groups' partitions, its buffer ranges, and the core's loads with it. -/
structure Spot where
  core : Nat
  parts : List Nat
  abase : Nat
  wbase : Nat
  cbase : Nat
  loads : Loads
deriving DecidableEq, Repr

/-- The buffer units a block of a gang holds. -/
def blockUnits (s : State) (e : Nat × Block) : Nat × Nat × Nat :=
  let l := (taskAt s (gangAt s (e.1 / 32)).task).lpb
  (l.abuf, l.wbuf, l.cbuf)

/-- Whether a core can hold one more block of a task (R15, R21, R71), and where. A core is not used while entries of gangs that left it are still
parked (R426). -/
def blockFits (s : State) (l : Lpb) (nregion core : Nat) : Option Spot :=
  let c := coreAt s core
  let bs := s.blocks.filter fun e => e.2.used && e.2.core == core
  if c.fenced || decide (4 ≤ bs.length) || orphanOn s core || decide (16 < c.filter.foldl (fun n e => n + e.2.2.length) nregion) then none
  else
    match freeRange (bs.map fun e => (e.2.abase, (blockUnits s e).1)) l.abuf 124,
          freeRange (bs.map fun e => (e.2.wbase, (blockUnits s e).2.1)) l.wbuf 128,
          freeRange (bs.map fun e => (e.2.cbase, (blockUnits s e).2.2)) l.cbuf 64,
          dealGroups c.fencedParts (regsOf l) l.groups 0 (coreLoads s core) with
    | some a, some w, some k, some r => some ⟨core, r.1, a, w, k, r.2⟩
    | _, _, _, _ => none

/-- The lowest partition with room for a handler slot (R407). -/
def handlerPart (s : State) (core : Nat) (ls : Loads) : Option Nat :=
  if (coreAt s core).fenced then none
  else (List.range 8).find? fun p => !(coreAt s core).fencedParts.contains p && roomFor 64 (loadAtPart ls p)

/-! ## Runs (R51, R53, R407) -/

/-- Core i of a run that starts at core `first` of a cluster. -/
def runCore (cl first i : Nat) : Nat := cl * 16 + (first + i) % 16
/-- Whether a core of the cluster is reserved for another gang than the one at (task, seq). -/
def reservedFor (s : State) (cl core task seq : Nat) : Bool :=
  match (clusterAt s cl).resv with
  | some (first, n, t, q) => (decide (t ≠ task) || decide (q ≠ seq)) && ((List.range n).any fun i => runCore cl first i == core)
  | none => false

/-- The handler slot of a gang whose run is `spots`: the first core from block 0's on round the ring that has room. -/
def handlerSlot (s : State) (cl first task seq : Nat) (spots : List Spot) : Option (Nat × Nat) :=
  (List.range 16).findSome? fun k =>
    let core := runCore cl first k
    if reservedFor s cl core task seq || orphanOn s core then none
    else
      let ls := match spots.find? fun x => x.core == core with
        | some x => x.loads
        | none => coreLoads s core
      (handlerPart s core ls).map fun p => (core, p)

/-- A run with its handler slot. -/
structure Run where
  cluster : Nat
  first : Nat
  spots : List Spot
  hcore : Nat
  hpart : Nat
deriving DecidableEq, Repr

/-- The run that starts at a core of a cluster, for the gang at (task, seq). -/
def runAt (s : State) (cl first task seq : Nat) : Option Run :=
  let t := taskAt s task
  let spots := (List.range t.lpb.blocks).map fun i =>
    let core := runCore cl first i
    if reservedFor s cl core task seq then none else blockFits s t.lpb t.regions.length core
  if spots.any Option.isNone then none
  else
    let sp := spots.filterMap id
    (handlerSlot s cl first task seq sp).map fun h => ⟨cl, first, sp, h.1, h.2⟩

/-- The run with the lowest starting core of a cluster that is not fenced. -/
def runOn (s : State) (task seq cl : Nat) : Option Run :=
  if (clusterAt s cl).fenced then none else (List.range 16).findSome? fun c => runAt s cl c task seq

/-- Check 0x0A of R22: some cluster, as fenced, with a core that can hold one block when empty, and a core that can hold the handler slot. -/
def feasible (s : State) (l : Lpb) : Bool :=
  (List.range 16).any fun cl => !(clusterAt s cl).fenced && ((List.range 16).any fun i =>
    let c := coreAt s (cl * 16 + i)
    !c.fenced && (match dealGroups c.fencedParts (regsOf l) l.groups 0 emptyLoads with
      | none => false
      | some r => (List.range 16).any fun j => (handlerPart s (cl * 16 + j) (if i = j then r.2 else emptyLoads)).isSome))

/-! ## Traversal (R48, R49) -/

/-- The least k with m ≤ 2^k. -/
def ceilLog (m : Nat) : Nat := if m ≤ 1 then 0 else Nat.log2 (m - 1) + 1

/-- Morton decoding of i bits a coordinate. -/
def mortonXY : Nat → Nat → Nat × Nat
  | 0, _ => (0, 0)
  | i + 1, c =>
    let r := mortonXY i (c / 4)
    (c % 2 + 2 * r.1, c / 2 % 2 + 2 * r.2)

/-- The loop of `HilbertXY` with i rounds left at side s. -/
def hilbertFrom : Nat → Nat → Nat → Nat → Nat → Nat × Nat
  | 0, _, _, u, v => (u, v)
  | i + 1, s, t, u, v =>
    let a := t / 2 % 2
    let b := (t + a) % 2
    let p := if b = 0 then (if a = 1 then (s - 1 - v, s - 1 - u) else (v, u)) else (u, v)
    hilbertFrom i (2 * s) (t / 4) (p.1 + s * a) (p.2 + s * b)

/-- The j-th code from c on whose point lies in the w × h panel. -/
def nthKept (xy : Nat → Nat × Nat) (w h : Nat) : Nat → Nat → Nat → Nat × Nat
  | 0, _, _ => (0, 0)
  | fuel + 1, c, j =>
    let p := xy c
    if p.1 < w ∧ p.2 < h then (if j = 0 then p else nthKept xy w h fuel (c + 1) (j - 1)) else nthKept xy w h fuel (c + 1) j

/-- The local order over a w × h panel. -/
def localXY (order w h j : Nat) : Nat × Nat :=
  let k := ceilLog (max w h)
  match order with
  | 0 => (j % w, j / w)
  | 1 => (j / h, j % h)
  | 2 => nthKept (mortonXY k) w h (4 ^ k) 0 j
  | _ => nthKept (fun d => hilbertFrom k 1 d 0 0) w h (4 ^ k) 0 j

/-- The gang at a sequence number. -/
def gangOfSeq (l : Lpb) (seq : Nat) : Nat × Nat :=
  let w := if l.panel = 0 then l.gridx else 2 ^ l.panel
  let p := seq / (w * l.gridy)
  let x := localXY l.order (min w (l.gridx - p * w)) l.gridy (seq % (w * l.gridy))
  (p * w + x.1, x.2)

/-- The linear index of the gang at a sequence number (R28), and its key in the state. -/
def indexOfSeq (l : Lpb) (seq : Nat) : Nat := let g := gangOfSeq l seq; g.2 * l.gridx + g.1
def gangKeyOf (task ix : Nat) : Nat := task * 2 ^ 40 + ix

end Sys2Proof.Machine
end

