-- ==== Sys2Proof/Machine/Dequeue.lean ====
section
/-!
DEFINITION. How a task leaves its queue: the choice of the queue, the launch parameter block and its tables, the launch checks, the record of a task
that ends, dependences and serialisation (spec/01 R17 to R31, spec/02 R40 to R46, spec/03 R81, spec/05 R125, spec/16 R436, R438).
-/

namespace Sys2Proof.Machine

/-! ## The completion record (R22, R436) -/

/-- The 16 bytes of a record. -/
def completionBytes (kind code tfl cfidx cfw0 cfwho : Nat) : List Byte :=
  bytesOf 4 (2 ^ 31 + kind % 16 * 2 ^ 24 + code % 256 * 2 ^ 16 + tfl % 256) ++ bytesOf 4 cfidx ++ bytesOf 4 cfw0 ++ bytesOf 4 cfwho
/-- Writes a record at its kept physical address, where there is one: a device-class write (R435), which an MWAIT on its line sees (R399). -/
def putCompletion (s : State) (at_ : Option Nat) (bs : List Byte) : State :=
  match at_ with
  | some pa => memWrite s pa bs
  | none => s

/-! ## The launch parameter block (R18, R19) -/

/-- The block's fields from its 256 bytes. -/
def parseLpb (b : List Byte) : Lpb :=
  let n (o k : Nat) : Nat := natAt b o k
  let fl := n 0x2A 2
  { gentry := n 0 8, mentry := n 8 8, tentry := n 0x10 8, gridx := n 0x18 4, gridy := n 0x1C 4, blocks := n 0x20 1, groups := n 0x21 1,
    regsC := n 0x22 1 % 16, order := n 0x23 1 % 4, panel := n 0x23 1 / 4 % 16, abuf := n 0x24 2, wbuf := n 0x26 2, cbuf := n 0x28 2,
    job := fl / 256 % 2 == 1, pclass := fl / 64 % 4, mirror := fl / 8 % 2 == 1, checked := fl / 4 % 2 == 1, idem := fl / 2 % 2 == 1,
    repro := fl % 2 == 1, prio := n 0x2C 1 % 4, barcnt := (List.range 16).map fun i => n (0x30 + i) 1,
    gbarcnt := (List.range 4).map fun i => n (0x40 + 2 * i) 2, ebudget := n 0x60 4, asid := n 0x64 2, hclog := n 0x66 1 % 32, spill := n 0x68 8,
    save := n 0x70 8, pager := n 0x78 8, hcring := n 0x80 8, kvdesc := n 0x88 8, seed := BitVec.ofNat 64 (n 0x90 8), argp := n 0x98 8,
    done := n 0xA0 8, cbmap := n 0xA8 8, jcount := n 0xB0 4, jsize := n 0xB4 2, jmin := n 0xB6 2, slots := n 0xB8 4,
    nfdt := (List.range 16).map fun i => BitVec.ofNat 32 (n (0xC0 + 4 * i) 4) }

/-- The addresses of the tables and the numbers of their records. -/
structure Tables where
  nhandle : Nat
  nregion : Nat
  ndep : Nat
  htab : Nat
  rtab : Nat
  dtab : Nat
deriving DecidableEq, Repr
def parseTables (b : List Byte) : Tables := ⟨natAt b 0x2F 1, natAt b 0x2D 1, natAt b 0x2E 1, natAt b 0x48 8, natAt b 0x50 8, natAt b 0x58 8⟩

/-- Check 0x01 on the block. -/
def lpbReserved (b : List Byte) : Bool :=
  let n (o k : Nat) : Nat := natAt b o k
  n 0x67 1 != 0 || n 0xBC 4 != 0 || n 0x22 1 / 16 != 0 || n 0x23 1 / 64 != 0 || n 0x2C 1 / 4 != 0 || n 0x66 1 / 32 != 0
    || (n 0x2A 2 &&& 0xFE30) != 0

/-- Check 0x02: the counts are in their ranges. -/
def countsOk (l : Lpb) (t : Tables) : Bool :=
  let between (lo x hi : Nat) : Bool := decide (lo ≤ x) && decide (x ≤ hi)
  between 1 l.gridx (2 ^ 20) && between 1 l.gridy (2 ^ 20) && decide (l.gridx * l.gridy ≤ 2 ^ 28) && between 1 l.blocks 16
    && between 1 l.groups 64 && decide (t.nregion ≤ 16) && decide (t.ndep ≤ 8) && decide (t.nhandle ≤ 64) && decide (l.hclog ≤ 15)
    && between 1 l.slots (2 ^ 16) && decide (l.abuf ≤ 124) && decide (l.wbuf ≤ 128) && decide (l.cbuf ≤ 64)

/-- Check 0x03 on the block. -/
def lpbAligned (l : Lpb) (t : Tables) : Bool :=
  l.gentry != 0 && [(l.gentry, 32), (l.mentry, 4), (l.tentry, 4), (t.htab, 16), (t.rtab, 32), (t.dtab, 32), (l.spill, 256), (l.save, 256),
    (l.hcring, 64), (l.done, 16), (l.cbmap, 8)].all fun e => e.1 % e.2 == 0

/-! ## The copied tables (R23 to R27, R125) -/

/-- Record k of a table of n-byte records. -/
def tableRec (bs : List Byte) (n k : Nat) : List Byte := (bs.drop (n * k)).take n

/-- A handle record: words 0 to 2 are the entry's (R247), word 3 names the handle. -/
def handleRec (b : List Byte) : Nat × BitVec 128 :=
  (natAt b 12 4 % 64, BitVec.ofNat 128 (natAt b 0 4 * 2 ^ 96 + natAt b 4 4 * 2 ^ 64 + natAt b 8 4 * 2 ^ 32))
def handleRsv (b : List Byte) : Bool :=
  natAt b 0 4 / 2 ^ 20 % 128 != 0 || natAt b 4 4 / 2 ^ 20 != 0 || (natAt b 8 4 &&& 0x7F0F0) != 0 || natAt b 12 4 / 64 != 0
def handleBufOf (b : List Byte) : Nat := natAt b 0 4 / 2 ^ 30
def handleMisaligned (b : List Byte) : Bool := handleBufOf b == 2 && (natAt b 0 4 % 2 ^ 20 % 16 != 0 || natAt b 4 4 % 2 ^ 20 % 16 != 0)
/-- Check 0x07. -/
def handleOutside (l : Lpb) (b : List Byte) : Bool :=
  let alloc := match handleBufOf b with | 0 => l.abuf | 1 => l.wbuf | _ => l.cbuf
  decide (4096 * alloc < natAt b 0 4 % 2 ^ 20 + natAt b 4 4 % 2 ^ 20)

/-- A signed field of n bytes. -/
def intAt (b : List Byte) (o n : Nat) : Int := (BitVec.ofNat (8 * n) (natAt b o n)).toInt

/-- A region record (R23). -/
def regionRec (b : List Byte) : Region :=
  let w := natAt b 0 8
  { base := w % 2 ^ 52, ext := natAt b 8 8 % 2 ^ 52, sx := intAt b 16 8, sy := intAt b 24 8, kind := w / 2 ^ 56 % 8,
    fl := w / 2 ^ 59 % 2 == 1, inv := w / 2 ^ 60 % 2 == 1, fwd := w / 2 ^ 61 % 2 == 1 }
def regionRsv (b : List Byte) : Bool := natAt b 0 8 / 2 ^ 62 != 0 || natAt b 0 8 / 2 ^ 52 % 16 != 0 || natAt b 8 8 / 2 ^ 52 != 0
def regionMisaligned (r : Region) : Bool := r.base % 128 != 0 || r.ext == 0 || r.ext % 128 != 0 || r.sx % 128 != 0 || r.sy % 128 != 0

/-- The bases of the instances of the four corner gangs (R24). -/
def cornerBases (l : Lpb) (r : Region) : List Int :=
  [(0, 0), (l.gridx - 1, 0), (0, l.gridy - 1), (l.gridx - 1, l.gridy - 1)].map fun g => (r.base : Int) + (g.1 : Int) * r.sx + (g.2 : Int) * r.sy
/-- Check 0x06. -/
def regionLeaves (l : Lpb) (r : Region) : Bool := (cornerBases l r).any fun b => decide (b < 0) || decide (2 ^ 52 < b + (r.ext : Int))

/-- A dependence record (R27); the producer is filled in when the task starts. -/
def depRec (b : List Byte) : Dep :=
  { pbmap := natAt b 0 8, pgx := natAt b 8 4, pgy := natAt b 12 4, kind := natAt b 16 1, ax := intAt b 0x14 2, bx := intAt b 0x16 2,
    cx := intAt b 0x18 2, ay := intAt b 0x1A 2, byy := intAt b 0x1C 2, cy := intAt b 0x1E 2, producer := none }
def depRsv (b : List Byte) : Bool := natAt b 0x11 3 != 0

/-- The companding tables that the descriptors of `NFDT` name (R125). -/
def namedCurves (l : Lpb) : List Nat := ((l.nfdt.map fun d => (NFmt.ofBits d []).cmp).filter fun j => j != 0).eraseDups

/-- The tables read: handle records, region records, dependence records, companding tables by number. -/
structure Copied where
  hs : List (List Byte)
  rs : List (List Byte)
  ds : List (List Byte)
  cs : List (Nat × List Byte)

/-- A table of n records of k bytes; one of no records is not read. -/
def readTable (s : State) (asid va n k : Nat) : Option (List (List Byte)) :=
  if n = 0 then some []
  else match readVirtual s asid true va (n * k) with
    | .ok bs => some ((List.range n).map fun i => tableRec bs k i)
    | .error _ => none
/-- The companding tables, from the end of the dependence table on. -/
def readCurves (s : State) (asid base : Nat) : List Nat → Option (List (Nat × List Byte))
  | [] => some []
  | j :: r =>
    match readVirtual s asid true (base + 128 * (j - 1)) 128, readCurves s asid base r with
    | .ok bs, some l => some ((j, bs) :: l)
    | _, _ => none

/-- Check 0x0B: the tables, where every one can be translated. -/
def readTables (s : State) (l : Lpb) (t : Tables) : Option Copied :=
  match readTable s l.asid t.htab t.nhandle 16, readTable s l.asid t.rtab t.nregion 32, readTable s l.asid t.dtab t.ndep 32,
        readCurves s l.asid (t.dtab + 32 * t.ndep) (namedCurves l) with
  | some h, some r, some d, some c => some ⟨h, r, d, c⟩
  | _, _, _, _ => none

/-! ## The checks in their order (R22) -/

/-- Checks of the tables and the later codes; none when all pass. -/
def tableChecks (s : State) (l : Lpb) (c : Copied) : Option Nat :=
  let rs := c.rs.map regionRec
  let ds := c.ds.map depRec
  if c.hs.any handleRsv || c.rs.any regionRsv || c.ds.any depRsv then some 0x01
  else if c.hs.any handleMisaligned || rs.any regionMisaligned then some 0x03
  else if decide (10 < l.panel) || l.pclass == 3 || (rs.any fun r => decide (5 ≤ r.kind)) || (ds.any fun d => decide (2 < d.kind))
      || (c.hs.any fun b => handleBufOf b == 3) then some 0x04
  else if (l.barcnt.any fun n => decide (l.groups + 2 < n)) || (l.gbarcnt.any fun n => decide (l.blocks * (l.groups + 2) < n)) then some 0x05
  else if rs.any (regionLeaves l) then some 0x06
  else if c.hs.any (handleOutside l) then some 0x07
  else if ds.any fun d => d.kind != 0 && d.pbmap == 0 then some 0x08
  else if l.job && (l.gridy != 1 || l.jcount == 0 || decide (l.jsize < 4) || decide (256 < l.jsize) || l.jsize % 4 != 0 || l.jmin == 0)
    then some 0x09
  else if !feasible s l then some 0x0A
  else none

/-- The launch checks: the code of the first that fails, or the copied tables. -/
def launchCheck (s : State) (b : List Byte) : Except Nat Copied :=
  let l := parseLpb b
  let t := parseTables b
  if lpbReserved b then .error 0x01
  else if !countsOk l t then .error 0x02
  else if !lpbAligned l t then .error 0x03
  else match readTables s l t with
    | none => .error 0x0B
    | some c => match tableChecks s l c with
      | some code => .error code
      | none => .ok c

/-! ## Dependences and serialisation (R27, R81) -/

/-- The task that a bitmap names: of the active and the recorded ones (R52) with that `CBMAP`, the one dequeued last. -/
def producerOf (s : State) (pbmap : Nat) : Option Nat :=
  ((s.tasks.filter fun t => (t.2.active || s.recent.contains t.1) && t.2.lpb.cbmap == pbmap).getLast?).map Prod.fst
def nameProducer (s : State) (d : Dep) : Dep := if d.kind = 0 then d else { d with producer := producerOf s d.pbmap }

/-- The hull of a record (R81). -/
def hullOf (l : Lpb) (r : Region) : Int × Int :=
  let b := cornerBases l r
  (b.foldl min (r.base : Int), b.foldl max (r.base : Int) + r.ext)
/-- Two records whose hulls overlap, one at least on the write side, not both of kind 3. -/
def recordsConflict (l1 : Lpb) (r1 : Region) (l2 : Lpb) (r2 : Region) : Bool :=
  let a := hullOf l1 r1
  let b := hullOf l2 r2
  !(r1.kind == 0 && r2.kind == 0) && !(r1.kind == 3 && r2.kind == 3) && decide (a.1 < b.2) && decide (b.1 < a.2)
/-- A new task against an active one dequeued before it. -/
def tasksConflict (t : Task) (k : Nat) (e : Task) (id : Nat) : Bool :=
  !(t.deps.any fun d => d.producer == some k) && !(e.deps.any fun d => d.producer == some id)
    && t.regions.any fun r1 => e.regions.any fun r2 => recordsConflict t.lpb r1 e.lpb r2

/-! ## Starting a task -/

/-- The task of a block that passed its checks. -/
def newTask (s : State) (q n at_ : Nat) (l : Lpb) (pa : Option Nat) (c : Copied) : Task :=
  let t : Task := { Task.vacant with
    used := true, active := true, dequeuedAt := s.now, lpb := l, lpbAt := at_, queue := q, seqNo := n, donePA := pa
    regions := c.rs.map regionRec, deps := c.ds.map fun b => nameProducer s (depRec b), handles := c.hs.map handleRec
    curves := c.cs.foldl (fun m e => m.set [] e.1 ((List.range 32).map fun i => BitVec.ofNat 32 (natAt e.2 (4 * i) 4))) [] }
  { t with serial := (s.tasks.filter fun e => e.2.active && tasksConflict t e.1 e.2 s.nextTask).map Prod.fst }

/-- Keeps the clusters of the gangs of the 256 most recently active tasks (R52). What an older task wrote still counts for R76. -/
def pruneRecent (s : State) : State :=
  let n := (s.tasks.filter fun t => t.2.active).length
  let gone := s.recent.take (s.recent.length + n - 256)
  { s with recent := s.recent.drop (s.recent.length + n - 256)
           tasks := s.tasks.map fun t => if gone.contains t.1 then (t.1, { t.2 with clusters := [] }) else t }

/-! ## Dependence rectangles and eligibility (R27, R46) -/

/-- Gangs of a task. -/
def gangCount (l : Lpb) : Nat := l.gridx * l.gridy
/-- Whether the gang at a sequence number is unplaced. -/
def isOpen (t : Task) (seq : Nat) : Bool :=
  match t.stats.get .unplaced (indexOfSeq t.lpb seq) with
  | .unplaced => true
  | .saved => true
  | _ => false

/-- The clamped range of one coordinate: first and last, empty when last is below first. -/
def depRange (a b c : Int) (x pg : Nat) : Int × Int := (max (a * x + b) 0, min (a * x + c) ((pg : Int) - 1))
/-- Whether the producer gang (px, py) is in a record's rectangle for the consumer gang (x, y). -/
def inRect (d : Dep) (x y px py : Nat) : Bool :=
  if d.kind = 1 then true
  else
    let u := depRange d.ax d.bx d.cx x d.pgx
    let v := depRange d.ay d.byy d.cy y d.pgy
    decide (u.1 ≤ (px : Int)) && decide ((px : Int) ≤ u.2) && decide (v.1 ≤ (py : Int)) && decide ((py : Int) ≤ v.2)

/-- Bit i of a producer's bitmap as the dispatcher reads it at the memory side; a page that cannot be read has no bit set. DESIGN CHOICE (log
entry 106): `PBMAP` is translated in the consumer's ASID, which R22 and R27 do not name. -/
def bitmapBit (s : State) (asid pbmap i : Nat) : Bool :=
  match translateBare s asid (pbmap + i / 8) .read true with
  | .ok pa => (memByte s pa).getLsbD (i % 8)
  | .error _ => false
/-- The condition of one record. -/
def depMet (s : State) (asid x y : Nat) (d : Dep) : Bool :=
  d.kind == 0 || (List.range d.pgy).all fun py => (List.range d.pgx).all fun px =>
    !inRect d x y px py || bitmapBit s asid d.pbmap (py * d.pgx + px)
/-- A gang's eligibility as the bitmaps stand. -/
def eligible (s : State) (t : Task) (x y : Nat) : Bool := t.deps.all (depMet s t.lpb.asid x y)

/-- The re-test of a task's unplaced gangs: one that tests as eligible keeps the clock in which it first did so. -/
def retestTask (s : State) (t : Task) : Task :=
  if !t.active || t.deps.isEmpty then t
  else { t with elig := (List.range (gangCount t.lpb)).foldl (fun m q =>
    if !isOpen t q then m
    else
      let g := gangOfSeq t.lpb q
      if !eligible s t g.1 g.2 then m.set 0 q 0 else if m.get 0 q = 0 then m.set 0 q (s.now + 1) else m) t.elig }
/-- The dispatcher re-tests eligibility: at a dequeue and after every gang retirement (R46, R434 step 5). -/
def retest (s : State) : State := { s with tasks := s.tasks.mapVals Task.vacant (retestTask s) }
/-- The clock from which the gang at a sequence number is eligible; none while it is not. -/
def eligibleSince (t : Task) (q : Nat) : Option Nat :=
  if t.deps.isEmpty then some t.dequeuedAt else if t.elig.get 0 q = 0 then none else some (t.elig.get 0 q - 1)

/-- A task that does not start: its record, if it has one, and the task-error interrupt. -/
def refuseTask (s : State) (q kind code done : Nat) (pa : Option Nat) : State :=
  sendIntr (putCompletion s pa (completionBytes kind code 0 0 0 0)) 3 q done

/-- The dispatcher copies the block at the queue's head and starts the task or refuses it (R22, R438). -/
def admitTask (s : State) (q n at_ : Nat) (cancelled : Bool) (b : List Byte) : State :=
  let l := parseLpb b
  match if l.done = 0 then Except.ok none else (translateBare s l.asid l.done .write true).map some with
  | .error _ => sendIntr s 3 q l.done
  | .ok pa =>
    if cancelled then refuseTask s q 7 0 l.done pa
    else match launchCheck s b with
      | .error code => refuseTask s q 1 code l.done pa
      | .ok c => pruneRecent { s with tasks := s.tasks.set Task.vacant s.nextTask (newTask s q n at_ l pa c), nextTask := s.nextTask + 1 }

/-! ## The choice of a queue (R45) -/

/-- A queue that has a task to give: a notify has found the task at its head (R43). -/
def queueReady (s : State) (q : Nat) : Bool :=
  let d := readQueue s q
  d.enabled && (queueView s q).seen.any fun e => e.1 == d.head
/-- `PRIO` of a queue's head task. -/
def headPrio (s : State) (q : Nat) : Nat :=
  let d := readQueue s q
  memNat s (d.slot d.head + 0x2C) 1 % 4
/-- The clock from which the head task has waited. -/
def headSince (s : State) (q : Nat) : Nat := (((queueView s q).seen.find? fun e => e.1 == (readQueue s q).head).map Prod.snd).getD s.now
/-- The effective class. -/
def effectiveClass (s : State) (q : Nat) : Nat :=
  let p := headPrio s q
  if p = 0 ∨ s.mgmt.dage = 0 then p else max 1 (p - (s.now - headSince s q) / (s.mgmt.dage * 2 ^ 16))

/-- The descriptors of the queues that have tasks to give are read, and those in error are disabled (R42). The tail is read at a notify only
(R43), so the tasks counted are those that a notify has found. -/
def disableBad (s : State) : State :=
  (List.range 64).foldl (fun s q =>
    if queueReady s q && (readQueue s q).badFor (queueView s q).seen.length then disableQueue s q (readQueue s q) else s) s

/-- The queue served next, with its class. DESIGN CHOICE (log entry 107): before a class has been served, queue 63 counts as served last, so its
round starts with queue 0. -/
def chooseQueue (s : State) : Option (Nat × Nat) :=
  (List.range 4).findSome? fun c =>
    (((List.range 64).map fun k => ((s.served.get 63 c) + 1 + k) % 64).find? fun q => queueReady s q && effectiveClass s q == c).map
      fun q => (q, c)

/-- Takes the head of a queue; whatever becomes of its task, the dequeue re-tests the waiting gangs (R46). -/
def dequeueFrom (s : State) (q c : Nat) : State :=
  let d := readQueue s q
  let v := queueView s q
  let b := (List.range 256).map fun k => memByte s (d.slot d.head + k)
  let s1 := memPut s (queueDescAt s q + 8) (bytesOf 4 (d.head + 1))
  let s2 := setQueueView s1 q { v with seen := v.seen.filter fun e => e.1 != d.head, cancelled := v.cancelled.filter fun n => n != d.head }
  retest (admitTask { s2 with served := s2.served.set 63 c q } q d.head (d.slot d.head) (v.cancelled.contains d.head) b)

/-- TASK_DEQUEUE: with fewer than 128 active tasks, one task leaves its queue. -/
def execTaskDequeue (s : State) : Out :=
  if s.mgmt.mstate ≠ 2 ∨ 128 ≤ (s.tasks.filter fun t => t.2.active).length then .next s
  else
    let s1 := disableBad s
    match chooseQueue s1 with
    | none => .next s1
    | some (q, c) => .next (dequeueFrom s1 q c)

/-- AGEING: time goes on to the clock at which the head task of a queue has waited one more whole interval. -/
def execAgeing (queue : BitVec 6) (s : State) : Out :=
  let q := queue.toNat
  let step := s.mgmt.dage * 2 ^ 16
  if step ≠ 0 ∧ queueReady s q ∧ 1 < effectiveClass s q then
    .next { s with now := headSince s q + ((s.now - headSince s q) / step + 1) * step }
  else .next s

end Sys2Proof.Machine
end

