-- ==== Sys2Proof/Machine/Supervisor.lean ====
section
/-!
DEFINITION. STOP, TRAP, BKPT and the special-register words; the supervisor words and registers, with the events that writes to XREL, XFAIL,
TINVCTL and KVINVCTL are (spec/07 R176 to R186, spec/09 R241, spec/13 R361, spec/15 R408, R409, R416, R417, R424, R425).
-/

namespace Sys2Proof.Machine

/-! ## The end of a group and of a handler run -/

/-- Marks the store-buffer lines whose latest store came from a group that exits (R256). -/
def markRetired (m : SMap (Option StoreLine)) (blk grp : Nat) : SMap (Option StoreLine) :=
  m.mapVals none fun o => match o with
    | some l => if l.blk == blk && l.grp == grp then some { l with iret := true } else some l
    | none => none

/-- Whether the stream that pager work is for is still stopped (R417); a suspended stream may have been stopped since. -/
def workOpen (s : State) (gang : Nat) (w : HandlerWork) : Bool :=
  let t := (blockAt s gang w.blk).tnd
  let m := (blockAt s gang w.blk).mat
  match w.strm with
  | 0 => (groupAt s gang w.blk w.grp).st == .fault
  | 1 => t.st == .suspended || (t.st == .stopped && t.back == .suspended)
  | _ => m.st == .suspended || (m.st == .stopped && m.back == .suspended)

/-- Releases a suspended Tender: its faulting words go on from their progress (R317). One that an all-stop has stopped since goes on with it (R415). -/
def releaseTender (s : State) (gang blk : Nat) : State :=
  let b := blockAt s gang blk
  if b.tnd.st = .suspended then checkRecords (setBlockAt s gang blk { b with tnd := { b.tnd with st := .running } }) gang blk
  else if b.tnd.st = .stopped ∧ b.tnd.back = .suspended then setBlockAt s gang blk { b with tnd := { b.tnd with back := .running } }
  else s
/-- Releases a suspended matrix sequencer at its restart point (R348). -/
def releaseMatrix (s : State) (gang blk : Nat) : State :=
  let b := blockAt s gang blk
  let go (m : Matrix) : Matrix := { m with queue := m.queue.map fun w => { w with stuck := false } }
  if b.mat.st = .suspended then checkRecords (setBlockAt s gang blk { b with mat := go { b.mat with st := .running } }) gang blk
  else if b.mat.st = .stopped ∧ b.mat.back = .suspended then setBlockAt s gang blk { b with mat := go { b.mat with back := .running } }
  else s

/-- A group released while its gang is being saved, or is held by an all-stop, stops again before its next word (R416, R424 step 1). -/
def releaseHeldBack (s : State) (gang blk grp : Nat) : State :=
  setGroupAt s gang blk grp { resumed (groupAt s gang blk grp) s.now with st := .savePoint }
/-- A group released in its gang. The handler group, which no save and no all-stop holds, goes on. -/
def releaseIn (s : State) (gang blk grp : Nat) : State :=
  if blk ≠ handlerBlk ∧ ((gangAt s gang).phase = .saving ∨ (gangAt s gang).allStop) then releaseHeldBack s gang blk grp else releaseGroup s gang blk grp

/-- A handler run has released a stream: the records of its stop are served no more (R417). -/
def noteFreed (s : State) (gang strm blk grp : Nat) : State :=
  let gg := gangAt s gang
  let mine (w : HandlerWork) : Bool := w.reason == 0 && w.strm == strm && w.blk == blk && w.grp == grp
  setGangAt s gang { gg with work := gg.work.filter (fun w => !mine w), busy := gg.busy.map fun w => { w with freed := w.freed || mine w } }

/-- What a host's reply with `RACT` = 0 does to the stream that waits for it (R415). -/
def resumeByReply (s : State) (c : HostCall) (mask : Nat) (vs : List W32) : State :=
  match c.strm with
  | 0 =>
    let g := groupAt s c.gang c.blk c.grp
    let g := (List.range 8).foldl (fun g i => if mask / 2 ^ i % 2 = 1 then writeS g i ((vs[i]?).getD 0) else g) (landAt s.now g)
    releaseIn (setGroupAt s c.gang c.blk c.grp g) c.gang c.blk c.grp
  | 1 => releaseTender s c.gang c.blk
  | 2 => releaseMatrix s c.gang c.blk
  | _ => s
/-- The reply to a breakpoint under all-stop releases the whole gang in one clock (R416), whoever has released its group meanwhile; a save that has
begun since keeps the streams stopped (R424). -/
def answerCall (s : State) (c : HostCall) (mask : Nat) (vs : List W32) : State :=
  let s1 := resumeByReply s c mask vs
  if !c.allStop then s1
  else if (gangAt s1 c.gang).phase = .running then releaseStreams s1 c.gang
  else setGangAt s1 c.gang { gangAt s1 c.gang with allStop := false }

/-- Applies a host reply kept while a gang was saved. -/
def applyReply (s : State) (c : HostCall) : State :=
  match c.reply with
  | none => s
  | some (m, vs) =>
    let s := { s with calls := s.calls.filter fun x => x != c }
    if c.strm ≠ 0 ∨ (groupAt s c.gang c.blk c.grp).st = .savePoint then answerCall s c m vs else s

/-- At a restoring handler's STOP, the released groups, the Tenders and the sequencers resume together (R425 step 4). -/
def restoreDone (s : State) (gang : Nat) : State :=
  let s := (groupIds s gang).foldl (fun s e =>
    let g := groupAt s gang e.1 e.2
    if g.freed then setGroupAt s gang e.1 e.2 (redone { resumed g s.now with freed := false } s.now) else s) s
  let s := (blockIds s gang).foldl (fun s b => resumeEngines s gang b) s
  let s := setGangAt s gang { gangAt s gang with phase := .running, savePoint := false }
  removeWaiting ((s.calls.filter fun c => c.gang == gang && c.reply.isSome).foldl applyReply s) gang

/-- A handler group's STOP (R407, R417, R424, R425). Work whose stream the run has not released, and which is still stopped, is served again after
the rest. -/
def handlerStop (s : State) : State :=
  let gang := s.cur.gang
  let gg := gangAt s gang
  let s := { s with groups := s.groups.erase (groupKey gang handlerBlk 0) }
  match gg.busy with
  | none => s
  | some w =>
    match w.reason with
    | 0 => setGangAt s gang { gg with busy := none, work := if !w.freed && workOpen s gang w then gg.work ++ [w] else gg.work }
    | 1 => setGangAt s gang { gg with busy := none, savePoint := false, phase := .saved }
    | _ => restoreDone (setGangAt s gang { gg with busy := none }) gang

/-- STOP (R176): waits for the counters and locks, then the group exits; STOP retires as a word. It does not wait for the fixed-latency words in
flight, whose flags then trap no more. -/
def execStop (s : State) : Out :=
  issue (wordOf s .stop)
    (fun s =>
      let g := curGroup s
      if g.vmc != 0 || g.bfc != 0 || g.sfc != 0 || anyLocked g then .wait s
      else if g.handler then .stop (handlerStop s)
      else
        let gg := curGang s
        let s := setCurGang s { gg with store := markRetired gg.store s.cur.blk s.cur.grp }
        .stop (setCurGroup s { g with st := .exited, lclk := g.lclk + 1, sel := none })) s

/-! ## TRAP and BKPT (R177, R178, R416) -/

/-- TRAP (R177): waits for the counters, releases at system scope, and hands its record to the ring; it is parked when the record is
written, and resumes at the next word, the loop stack unchanged (R173). -/
def execTrap (imm : BitVec 24) (s : State) : Out :=
  issue (wordOf s (.trap imm))
    (fun s =>
      let g := curGroup s
      let l := curLpb s
      if l.hcring = 0 then .flt (FaultInfo.plain 0x02)
      else if g.vmc != 0 || g.bfc != 0 || g.sfc != 0 || g.called || releaseHeld s 5 then .wait s
      else
        let words := faultWords s s.cur.gang 0 s.cur.blk s.cur.grp g.pc (guardMask g) { FaultInfo.plain 0x22 with imm := imm.toNat }
        let s1 := commitGang (setCurGroup s { g with called := true, resume := nextWord g.pc 0 }) s.cur.gang
        .wait { s1 with calls := s1.calls ++ [⟨words, l.hcring, l.hclog, s.cur.gang, 0, s.cur.blk, s.cur.grp, none, false, none⟩] }) s

/-- BKPT (R178): the group stops; the report carries imm24, the code index and the guard mask. Under all-stop the gang's other streams stop
with it (R416); for a handler group in a save or a restore they stand stopped already. One that a handler group reaches while an all-stop holds is made
after its release. -/
def execBkpt (imm : BitVec 24) (s : State) : Out :=
  issue (wordOf s (.bkpt imm))
    (fun s =>
      let g := curGroup s
      let words := faultWords s s.cur.gang 0 s.cur.blk s.cur.grp g.pc (guardMask g) { FaultInfo.plain 0x21 with imm := imm.toNat }
      let s1 := setCurGroup s { g with st := .brk, owed := true, resume := nextWord g.pc 0 }
      if (curGang s).allStop then .wait s
      else if s.mgmt.dbgctl % 2 = 1 && (!g.handler || (curGang s).phase == .running) then
        let s1 := stopStreams false s1 s.cur.gang
        let s2 := setGangAt s1 s.cur.gang { gangAt s1 s.cur.gang with allStop := true }
        let s3 := routeRecord s2 s.cur.gang 0 s.cur.blk s.cur.grp 0x21 words
        .stop { s3 with calls := s3.calls.map fun c =>
                  if c.gang == s.cur.gang && c.strm == 0 && c.blk == s.cur.blk && c.grp == s.cur.grp then { c with allStop := true } else c }
      else .stop (routeRecord s1 s.cur.gang 0 s.cur.blk s.cur.grp 0x21 words)) s

/-! ## The target of a supervisor group (R182, R186) -/

/-- Whether a target register still awaits a write. -/
def targetBusy (t : Group) (r : Reg) : Bool :=
  lockedFor t [r] [r] || t.pend.any fun p => (p.ws.filterMap RegWrite.reg).contains r

/-- XSEL (R182). -/
def execXsel (sa : BitVec 9) (s : State) : Out :=
  issue (wordOf s (.xsel sa))
    (fun s =>
      let g := curGroup s
      let x := (readS g sa.toNat).toNat
      let l := curLpb s
      if 1024 ≤ x ∨ l.blocks ≤ x / 64 ∨ l.groups ≤ x % 64 then .flt (FaultInfo.plain 0x09)
      else .ok (setCurGroup s { g with sel := some (x / 64, x % 64) })) s

/-- ERET (R185): releases the target; during a restore it is made ready without issuing (R425). -/
def execEret (s : State) : Out :=
  issue (wordOf s .eret)
    (fun s =>
      match targetOf s true with
      | .error f => .flt f
      | .ok (b, k, t) =>
        let gang := s.cur.gang
        let s1 := { s with calls := (s.calls.filter fun c => !(c.gang == gang && c.strm == 0 && c.blk == b && c.grp == k && c.num.isSome && !c.allStop)).map
                              fun c => if c.gang == gang && c.strm == 0 && c.blk == b && c.grp == k then { c with strm := 3 } else c }
        let s2 := if (curGang s1).phase = .restoring then setGroupAt s1 gang b k { t with freed := true } else releaseIn s1 gang b k
        let s3 := noteFreed s2 gang 0 b k
        .ok (setCurGroup s3 { curGroup s3 with sel := none })) s

/-- XRV (R183): all 32 lanes of the target's register. -/
def execXrv (own target : BitVec 8) (s : State) : Out :=
  issue (wordOf s (.xrv own target))
    (fun s =>
      match targetOf s true with
      | .error f => .flt f
      | .ok (_, _, t) =>
        if t.nv ≤ target.toNat then .flt (FaultInfo.plain 0x02)
        else if targetBusy t (.v target.toNat) then .wait s
        else variableResult s ((List.range 32).map fun l => .v own.toNat l (readV t target.toNat l)) 0 .none) s

/-- XWV (R183). -/
def execXwv (own target : BitVec 8) (s : State) : Out :=
  issue (wordOf s (.xwv own target))
    (fun s =>
      match targetOf s true with
      | .error f => .flt f
      | .ok (b, k, t) =>
        if t.nv ≤ target.toNat then .flt (FaultInfo.plain 0x02)
        else if targetBusy t (.v target.toNat) then .wait s
        else
          let g := curGroup s
          .ok (setGroupAt s s.cur.gang b k ((List.range 32).foldl (fun t l => writeV t target.toNat l (readV g own.toNat l)) t))) s

/-- The index range of a space of XRS and XWS (R184). -/
def xrRangeOk (space idx : Nat) : Bool :=
  match space with
  | 0 => decide (idx < 384)
  | 1 => decide (idx < 16)
  | 2 => decide (idx < 8)
  | _ => decide (idx ≤ 0x12)
/-- The target register that a space and index name, for its locks. -/
def xrReg (space idx : Nat) : Option Reg :=
  match space with
  | 0 => some (.s idx)
  | 1 => some (.p idx)
  | 3 => if idx = 2 then some .sf else if idx = 3 then some .psd else none
  | _ => none

/-- XRS (R184). Reading the target's clock low half latches its high half, as the target's own read does. -/
def execXrs (sd idx : BitVec 9) (space : BitVec 3) (s : State) : Out :=
  issue (wordOf s (.xrs sd idx space))
    (fun s =>
      match targetOf s true with
      | .error f => .flt f
      | .ok (b, k, t) =>
        let n := idx.toNat
        if !xrRangeOk space.toNat n then .flt (FaultInfo.plain 0x02)
        else if ((xrReg space.toNat n).map (targetBusy t)).getD false then .wait s
        else
          match space.toNat with
          | 0 => variableResult s [.s sd.toNat (readS t n)] 0 .none
          | 1 => variableResult s [.s sd.toNat (readP t n)] 0 .none
          | 2 => variableResult s [.s sd.toNat (if n < t.depth then t.stk.get 0 n else 0)] 0 .none
          | _ =>
            match readSpecial s s.cur.gang b k t n with
            | none => .flt (FaultInfo.plain 0x02)
            | some x => variableResult (setGroupAt s s.cur.gang b k (latchSpecial s.now t n)) [.s sd.toNat x] 0 .none) s

/-- XWS to a special register of the target (R184). -/
def writeTargetSpecial (t : Group) (n : Nat) (x : W32) : Option Group :=
  match n with
  | 0x003 => if x.toNat ≤ 8 then some { t with depth := x.toNat, psd := x.toNat } else none
  | 0x004 => some { t with lclk := BitVec.ofNat 64 (t.lclk.toNat / 2 ^ 32 * 2 ^ 32 + x.toNat) }
  | 0x005 => some { t with lclk := BitVec.ofNat 64 (x.toNat * 2 ^ 32 + t.lclk.toNat % 2 ^ 32) }
  | _ => writeSpecial t n x

/-- XWS (R184). -/
def execXws (sd idx : BitVec 9) (space : BitVec 3) (s : State) : Out :=
  issue (wordOf s (.xws sd idx space))
    (fun s =>
      match targetOf s true with
      | .error f => .flt f
      | .ok (b, k, t) =>
        let n := idx.toNat
        let x := readS (curGroup s) sd.toNat
        if !xrRangeOk space.toNat n then .flt (FaultInfo.plain 0x02)
        else if ((xrReg space.toNat n).map (targetBusy t)).getD false then .wait s
        else
          match space.toNat with
          | 0 => .ok (setGroupAt s s.cur.gang b k (writeS t n x))
          | 1 => .ok (setGroupAt s s.cur.gang b k (writeP t n x))
          | 2 => .ok (setGroupAt s s.cur.gang b k { t with stk := t.stk.set 0 n x })
          | _ =>
            match writeTargetSpecial t n x with
            | none => .flt (FaultInfo.plain 0x02)
            | some t => .ok (setGroupAt s s.cur.gang b k t)) s

/-! ## Supervisor registers (R409, R241, R361) -/

/-- XSTOP's code. -/
def stopCode : StopKind → Nat
  | .fault => 1 | .trap => 2 | .brk => 3 | .savePoint => 4 | .exited => 5 | _ => 0

/-- XARR: bit n for an arrival at bn, bits 16 to 19 for g0 to g3. -/
def arrWord (a : SMap Nat) : W32 := BitVec.ofNat 32 ((List.range 20).foldl (fun n b => n + (if a.get 0 b = 1 then 2 ^ b else 0)) 0)
def arrOfWord (x : W32) : SMap Nat := ((List.range 20).filter fun b => x.getLsbD b).map fun b => (b, 1)
/-- Arrivals set by XARR also count as having arrived. -/
def everOfWord (e : SMap Nat) (x : W32) : SMap Nat := (List.range 20).foldl (fun m b => if x.getLsbD b then m.set 0 b 1 else m) e

/-- XBST: the count and the phase bit. -/
def barWord (b : Bar) : W32 := BitVec.ofNat 32 (b.count % 65536 + b.gen % 2 * 65536)
def barOfWord (b : Bar) (x : W32) : Bar :=
  let gen := if b.gen % 2 = x.toNat / 65536 % 2 then b.gen else b.gen + 1
  ⟨x.toNat % 65536, gen, gen⟩

/-- The barrier that XBSEL names: gn as 16 + n. -/
def xbselBar (g : Group) : Nat := if g.xbsel.toNat / 16 % 2 = 1 then 16 + g.xbsel.toNat % 16 else g.xbsel.toNat % 16

/-- The bits of an entry that are not reserved (R247). -/
def handleMask : BitVec 128 := BitVec.ofNat 128
  (2 ^ 128 - 2 ^ 118 + (2 ^ 116 - 2 ^ 96) + (2 ^ 84 - 2 ^ 64) + (2 ^ 64 - 2 ^ 51) + (2 ^ 48 - 2 ^ 32))

/-- A read of a supervisor register by the group in focus. -/
def supRead (s : State) (n : Nat) : Except FaultInfo W32 :=
  let g := curGroup s
  let w (x : Nat) : W32 := BitVec.ofNat 32 x
  let grp (f : Group → W32) : Except FaultInfo W32 := (targetOf s true).map fun t => f t.2.2
  let blk (f : Nat → W32) : Except FaultInfo W32 := (targetOf s false).map fun t => f t.1
  if n = 0x110 then .ok g.tinvlo
  else if n = 0x111 then .ok g.tinvhi
  else if n = 0x112 then .ok (if s.tinvs.isEmpty then 0 else 1)
  else if n = 0x114 then .ok g.kvinvlo
  else if n = 0x115 then .ok g.kvinvhi
  else if n = 0x116 then .ok (if s.kvinvs.isEmpty then 0 else 1)
  else if n = 0x100 then grp Group.mode
  else if n = 0x101 then grp Group.resume
  else if n = 0x102 then (targetOf s false).map fun t => w (stopCode t.2.2.st)
  else if n = 0x103 then grp fun t => arrWord t.arr
  else if n = 0x118 then blk fun _ => w ((curLpb s).cbuf % 4096)
  else if n = 0x11A ∨ n = 0x11B then .ok 0
  else if n = 0x120 then blk fun _ => g.xhsel
  else if 0x121 ≤ n ∧ n ≤ 0x124 then blk fun b => w (bitsOf (handleAt (blockAt s s.cur.gang b) g.xhsel.toNat) (32 * (n - 0x121)) 32)
  else if n = 0x128 then blk fun _ => g.xbsel
  else if n = 0x129 then blk fun b => barWord (barAt s s.cur.gang b (xbselBar g))
  else if n = 0x130 then grp fun t => w t.loopd
  else if 0x131 ≤ n ∧ n ≤ 0x13C then
    grp fun t =>
      let e := t.loops.get LoopEntry.zero ((n - 0x131) / 3)
      match (n - 0x131) % 3 with | 0 => e.start | 1 => e.last | _ => e.count
  else .error (FaultInfo.plain 0x02)

/-- Whether a supervisor register only reads (R409). -/
def supReadOnly (n : Nat) : Bool := n == 0x102 || n == 0x118

/-- XREL: bit 0 the Tender, bit 1 the sequencer, of the selected block. A stream that is not SUSPENDED is left unchanged, and with it the record of its
stop. -/
def writeXrel (s : State) (x : W32) : Except FaultInfo State :=
  (targetOf s false).map fun t =>
    let gang := s.cur.gang
    let s1 := if x.getLsbD 0 && (blockAt s gang t.1).tnd.st == .suspended then noteFreed (releaseTender s gang t.1) gang 1 t.1 0 else s
    if x.getLsbD 1 && (blockAt s1 gang t.1).mat.st == .suspended then noteFreed (releaseMatrix s1 gang t.1) gang 2 t.1 0 else s1

/-- XFAIL: a non-zero code fails the task. -/
def writeXfail (s : State) (x : W32) : State :=
  if x.toNat % 256 = 0 then s else failTask s (curGang s).task 3 (x.toNat % 256) []

/-- TINVCTL (R241): starts an invalidation; none while one is in progress. -/
def writeTinvctl (s : State) (x : W32) : Except FaultInfo (Option State) :=
  if x.toNat / 65536 % 4 = 3 then .error (FaultInfo.plain 0x02)
  else if !s.tinvs.isEmpty then .ok none
  else
    let g := curGroup s
    .ok (some { s with tinvs := [(x, g.tinvhi.toNat * 2 ^ 32 + g.tinvlo.toNat, 0)] })

/-- KVINVCTL (R361): writing 1 starts an invalidation of the space that KVINVLO and KVINVHI name. -/
def writeKvinvctl (s : State) (x : W32) : State :=
  if !x.getLsbD 0 then s
  else
    let g := curGroup s
    { s with kvinvs := s.kvinvs ++ [devicePa s (curLpb s).asid (g.kvinvhi.toNat * 2 ^ 32 + g.kvinvlo.toNat) .read] }

/-- What a supervisor write answers. -/
inductive SupOut where
  | ok (s : State)
  | wait
  | gone (s : State)
  | flt (f : FaultInfo)

/-- A write of a supervisor register by the group in focus. DESIGN CHOICE (log entry 145): `TINVLO`, `TINVHI`, `KVINVLO` and `KVINVHI` are each handler
group's own, zero when it starts; that an invalidation is in progress is the device's. -/
def supWrite (s : State) (n : Nat) (x : W32) : SupOut :=
  let g := curGroup s
  let gang := s.cur.gang
  let own (g : Group) : SupOut := .ok (setCurGroup s g)
  let grp (f : Group → Option Group) : SupOut :=
    match targetOf s true with
    | .error e => .flt e
    | .ok (b, k, t) => match f t with
      | some t => .ok (setGroupAt s gang b k t)
      | none => .flt (FaultInfo.plain 0x02)
  let blk (f : Nat → SupOut) : SupOut := match targetOf s false with
    | .error e => .flt e
    | .ok t => f t.1
  let atSave (o : SupOut) : SupOut := if (curGang s).savePoint then o else .flt (FaultInfo.plain 0x09)
  if supReadOnly n then .flt (FaultInfo.plain 0x02)
  else if n = 0x110 then own { g with tinvlo := x &&& 0xFFFFF000 }
  else if n = 0x111 then own { g with tinvhi := x &&& 0x000FFFFF }
  else if n = 0x112 then
    match writeTinvctl s x with
    | .error f => .flt f
    | .ok none => .wait
    | .ok (some s1) => .ok s1
  else if n = 0x114 then own { g with kvinvlo := x &&& 0xFFFFFF80 }
  else if n = 0x115 then own { g with kvinvhi := x &&& 0x000FFFFF }
  else if n = 0x116 then .ok (writeKvinvctl s x)
  else if n = 0x100 then grp fun t => if modeOk x then some { t with mode := x } else none
  else if n = 0x101 then grp fun t => some { t with resume := x }
  else if n = 0x103 then grp fun t => some { t with arr := arrOfWord x, ever := everOfWord t.ever x }
  else if n = 0x11A then
    match writeXrel s x with
    | .error f => .flt f
    | .ok s1 => .ok s1
  else if n = 0x11B then if x.toNat % 256 = 0 then .ok s else .gone (writeXfail s x)
  else if n = 0x120 then blk fun _ => own { g with xhsel := x &&& 0x3F }
  else if 0x121 ≤ n ∧ n ≤ 0x124 then
    blk fun b => atSave (
      let k := blockAt s gang b
      let e := putBits (handleAt k g.xhsel.toNat) (32 * (n - 0x121)) 32 x.toNat
      .ok (setBlockAt s gang b (setHandle k g.xhsel.toNat (e &&& handleMask))))
  else if n = 0x128 then
    blk fun _ => if x.toNat / 16 % 2 = 1 ∧ 4 ≤ x.toNat % 16 then .flt (FaultInfo.plain 0x02) else own { g with xbsel := x &&& 0x1F }
  else if n = 0x129 then
    blk fun b => atSave (.ok (setBarAt s gang b (xbselBar g) (barOfWord (barAt s gang b (xbselBar g)) x)))
  else if n = 0x130 then grp fun t => if x.toNat ≤ 4 then some { t with loopd := x.toNat } else none
  else if 0x131 ≤ n ∧ n ≤ 0x13C then
    grp fun t =>
      let k := (n - 0x131) / 3
      let e := t.loops.get LoopEntry.zero k
      let e := match (n - 0x131) % 3 with | 0 => { e with start := x } | 1 => { e with last := x } | _ => { e with count := x }
      some { t with loops := t.loops.set LoopEntry.zero k e }
  else .flt (FaultInfo.plain 0x02)

/-! ## RDSR and WRSR (R105, R181) -/

/-- RDSR. -/
def execRdsr (sd num : BitVec 9) (s : State) : Out :=
  issue (wordOf s (.rdsr sd num))
    (fun s =>
      let g := curGroup s
      let n := num.toNat
      if 0x100 ≤ n then
        match supRead s n with
        | .error f => .flt f
        | .ok x => fixedResult s 2 [.s sd.toNat x] 0
      else match readSpecial s s.cur.gang s.cur.blk s.cur.grp g n with
        | none => .flt (FaultInfo.plain 0x02)
        | some x => fixedResult (setCurGroup s (latchSpecial s.now g n)) 2 [.s sd.toNat x] 0) s

/-- WRSR. -/
def execWrsr (sd num : BitVec 9) (s : State) : Out :=
  issue (wordOf s (.wrsr sd num))
    (fun s =>
      let g := curGroup s
      let n := num.toNat
      let x := readS g sd.toNat
      if 0x100 ≤ n then
        match supWrite s n x with
        | .flt f => .flt f
        | .wait => .wait s
        | .gone s1 => .stop s1
        | .ok s1 => .ok s1
      else match writeSpecial g n x with
        | none => .flt (FaultInfo.plain 0x02)
        | some g => .ok (setCurGroup s g)) s

/-! ## The same writes as events of the supervisor group in focus -/

/-- A supervisor write taken as an event: its effect alone; nothing where it would fault or wait, or where no handler group is in focus. -/
def supEvent (n : Nat) (x : W32) (s : State) : Out :=
  if (curGroup s).handler then
    match supWrite s n x with
    | .ok s1 => .next s1
    | .gone s1 => .next s1
    | .wait => .next s
    | .flt f => .next (takeFault s f)
  else .next s

/-- XREL (R409). -/
def execXrel (val : W32) (s : State) : Out := supEvent 0x11A val s
/-- XFAIL (R409, R420). -/
def execXfail (val : W32) (s : State) : Out := supEvent 0x11B val s
/-- TINVCTL (R241). -/
def execTinvctl (val : W32) (s : State) : Out := supEvent 0x112 val s
/-- KVINVCTL (R361). -/
def execKvinvctl (val : W32) (s : State) : Out := supEvent 0x116 val s

/-- Whether an invalidation covers a translation (R241). -/
def tinvCovers (x : W32) (va : Nat) (e : TlbEntry) : Bool :=
  match x.toNat / 65536 % 4 with
  | 0 => e.asid == x.toNat % 65536 && e.va == va / 2 ^ e.size * 2 ^ e.size
  | 1 => e.asid == x.toNat % 65536
  | _ => true

/-- TRANSLATION_INVALIDATION_DONE (R241, R440): the covered entries are gone from every TLB and translation unit, and busy clears; a host
request is answered. -/
def execTranslationInvalidationDone (s : State) : Out :=
  match s.tinvs with
  | [] => .next s
  | (x, va, tag) :: r =>
    let keep (l : List TlbEntry) : List TlbEntry := l.filter fun e => !tinvCovers x va e
    .next { s with
      cores := s.cores.mapVals Core.vacant fun c => { c with tlb := keep c.tlb }
      clusters := s.clusters.mapVals Cluster.vacant fun c => { c with tlb := keep c.tlb }
      tinvs := r
      outbox := if tag = 0 then s.outbox else s.outbox ++ [⟨0x85, 0, tag - 1, 0, 0, []⟩] }

/-- KV_INVALIDATION_DONE (R361): the space's entries are gone from every cluster, and busy clears. -/
def execKvInvalidationDone (s : State) : Out :=
  match s.kvinvs with
  | [] => .next s
  | k :: r => .next (kvInvalidate { s with kvinvs := r } fun e => k == some e.desc)

end Sys2Proof.Machine
end

