-- ==== Sys2Proof/Machine/Handler.lean ====
section
/-!
DEFINITION. The handler group's start, the device's part of a save and of a restore with the save-area map, the end of a save, and commits with an
uncorrectable error (spec/15 R407, R417, R418, R424, R425, R427 to R429, R465).
-/

namespace Sys2Proof.Machine

/-! ## The save-area map (R427) -/

def vregsOf (l : Lpb) : Nat := 16 * (l.regsC + 1)
def groupRecordSize (l : Lpb) : Nat := 2304 + 128 * vregsOf l
def blockRecordSize (l : Lpb) : Nat := 8192 + l.groups * groupRecordSize l + 4096 * (l.cbuf + l.abuf + l.wbuf)
def saveSlotSize (l : Lpb) : Nat := 4096 + l.blocks * blockRecordSize l
def saveBase (l : Lpb) (slot : Nat) : Nat := l.save + slot * saveSlotSize l
/-- The start of a block record, and of its A-buffer part. -/
def blockRecordAt (l : Lpb) (slot b : Nat) : Nat := saveBase l slot + 4096 + b * blockRecordSize l
def savedABuf (l : Lpb) (slot b : Nat) : Nat := blockRecordAt l slot b + 8192 + l.groups * groupRecordSize l + 4096 * l.cbuf

/-! ## Dumps (R429) -/

def SeqState.code : SeqState → Nat
  | .idle => 0 | .running => 1 | .waiting => 2 | .suspended => 3 | .stopped => 4 | .ended => 5
def SeqState.ofCode : Nat → SeqState
  | 0 => .idle | 1 => .running | 2 => .waiting | 3 => .suspended | 4 => .stopped | _ => .ended

/-- The state fields: the state in [11:8], the state to return to in [15:12]. -/
def statePair (st back : SeqState) : Nat :=
  if st = .stopped then 4 * 256 + back.code * 4096 else st.code * 256 + st.code * 4096

/-- Bytes of the device's own encoding, from free-value index k on. -/
def ownBytes (k n : Nat) : List Byte := (List.range (n / 8)).flatMap fun j => bytesOf 8 (Config.freeWord (k + j)).toNat
/-- Free values that one block's dumps take: 64 bytes of bindings, 256 of queue entries, 128 of loop records and 1,024 of copy records. -/
def ownPerBlock : Nat := 184

def geometryWord (m : Matrix) : Nat := m.tm % 16 + m.tn % 16 * 16 + m.tk % 512 * 256

/-- The sequencer dump. -/
def matrixDump (m : Matrix) (k : Nat) : List Byte :=
  ((List.range 32).flatMap fun i => bytesOf 4 (m.m.get 0 i).toNat)
    ++ bytesOf 4 m.mpc.toNat ++ bytesOf 4 m.mfmt.toNat ++ bytesOf 4 (geometryWord m) ++ bytesOf 4 (m.mflags.toNat + statePair m.st m.back)
    ++ bytesOf 4 m.epc.toNat ++ bytesOf 4 m.qord.toNat ++ bytesOf 4 m.nwid.toNat ++ bytesOf 4 m.nclip.toNat ++ bytesOf 4 (arrWord m.arr).toNat
    ++ bytesOf 28 0 ++ ownBytes k 64 ++ ownBytes (k + 8) 256 ++ bytesOf 512 0

/-- The Tender dump. -/
def tenderDump (t : Tender) (k : Nat) : List Byte :=
  ((List.range 64).flatMap fun i => bytesOf 8 (readT t i).toNat) ++ ((List.range 16).flatMap fun i => bytesOf 32 (readD t i).toNat)
    ++ bytesOf 4 t.tpc.toNat ++ bytesOf 4 (t.tflags.toNat + statePair t.st t.back) ++ bytesOf 4 (arrWord t.arr).toNat ++ bytesOf 116 0
    ++ ownBytes (k + 40) 128 ++ ownBytes (k + 56) 1024 ++ bytesOf 1792 0

/-- The groups of a block that have exited, by bit. -/
def exitedMask (s : State) (gang b : Nat) : Nat :=
  (List.range (blockAt s gang b).ngroups).foldl (fun n g => n + if (groupAt s gang b g).st = .exited then 2 ^ g else 0) 0

/-- The parts of a save slot that the device writes, in address order (R428, R429). -/
def dumpParts (s : State) (gang k : Nat) : List (Nat × List Byte) :=
  let gg := gangAt s gang
  let l := (taskAt s gg.task).lpb
  let header := (saveBase l gg.slot + 0x10,
    bytesOf 4 gg.budget ++ bytesOf 4 (if gg.window then 1 else 0) ++ bytesOf 8 (gangProgress s gang))
  header :: (List.range l.blocks).flatMap fun b =>
    let x := blockAt s gang b
    let a := blockRecordAt l gg.slot b
    [ (a + 0x80, bytesOf 4 x.events.length ++ bytesOf 4 0 ++ bytesOf 8 (exitedMask s gang b)),
      (a + 0x500, x.events.flatMap fun r => bytesOf 16 r.toNat),
      (a + 0x900, matrixDump x.mat (k + b * ownPerBlock)),
      (a + 0xD00, tenderDump x.tnd (k + b * ownPerBlock)),
      (savedABuf l gg.slot b, (List.range (4096 * l.abuf)).map (bufByte x 0)),
      (savedABuf l gg.slot b + 4096 * l.abuf, (List.range (4096 * l.wbuf)).map (bufByte x 1)) ]

def writeParts (asid cl : Nat) : List (Nat × List Byte) → State → Except (PageCause × Nat) State
  | [], s => .ok s
  | p :: r, s =>
    match writeVirtual s asid true cl p.1 p.2 with
    | .error e => .error e
    | .ok s1 => writeParts asid cl r s1

/-- The record of a failed access of the device itself (R434, R465). -/
def deviceRecord (s : State) (gang cls : Nat) (c : PageCause) (va : Nat) : List W32 :=
  let gg := gangAt s gang
  let n (x : Nat) : W32 := BitVec.ofNat 32 x
  [n (0x10 * 2 ^ 24 + c.code * 2 ^ 20 + 2 ^ 16 + cls), 0, 0, 0, n va, n (va % 2 ^ 52 / 2 ^ 32), 0, 0, n gg.gx, n gg.gy, 0, 0, 0, 0, 0, 0]

/-- The device's part of a save, or the task's failure (R424 step 2, R465). -/
def writeDumps (s : State) (gang : Nat) : Bool × State :=
  let gg := gangAt s gang
  let l := (taskAt s gg.task).lpb
  let k := s.fresh
  match writeParts l.asid gg.cluster (dumpParts s gang k) { s with fresh := k + l.blocks * ownPerBlock } with
  | .ok s1 => (true, setGangAt s1 gang { gangAt s1 gang with dumpAt := k })
  | .error (c, va) => (false, failTask s gg.task 2 0x10 (deviceRecord s gang 1 c va))

/-! ## Restoring the dumps (R425 step 2) -/

/-- A sequencer from its dump. `kept` holds what the device's own records stand for; a record that was changed fails its check. -/
def matrixRestore (kept : Matrix) (bs : List Byte) (k : Nat) : Matrix × Bool :=
  let st := natAt bs 0x8C 4
  let geo := natAt bs 0x88 4
  let same := geo == geometryWord kept
  ({ kept with
      m := (List.range 32).foldl (fun m i => m.set 0 i (BitVec.ofNat 32 (natAt bs (4 * i) 4))) []
      mpc := BitVec.ofNat 32 (natAt bs 0x80 4), mfmt := BitVec.ofNat 32 (natAt bs 0x84 4)
      tm := if same then kept.tm else geo % 16, tn := if same then kept.tn else geo / 16 % 16, tk := if same then kept.tk else geo / 256 % 512
      mflags := BitVec.ofNat 8 st, st := SeqState.ofCode (st / 256 % 16), back := SeqState.ofCode (st / 4096 % 16)
      epc := BitVec.ofNat 32 (natAt bs 0x90 4), qord := BitVec.ofNat 32 (natAt bs 0x94 4), nwid := BitVec.ofNat 32 (natAt bs 0x98 4)
      nclip := BitVec.ofNat 32 (natAt bs 0x9C 4), arr := arrOfWord (BitVec.ofNat 32 (natAt bs 0xA0 4)) },
    (bs.drop 0xC0).take 64 == ownBytes k 64 && (bs.drop 0x100).take 256 == ownBytes (k + 8) 256)

/-- A Tender from its dump. -/
def tenderRestore (kept : Tender) (bs : List Byte) (k : Nat) : Tender × Bool :=
  let st := natAt bs 0x404 4
  ({ kept with
      t := (List.range 63).foldl (fun m i => m.set 0 (i + 1) (BitVec.ofNat 64 (natAt bs (8 * (i + 1)) 8))) []
      d := (List.range 16).foldl (fun m i => m.set 0 i (BitVec.ofNat 256 (natAt bs (0x200 + 32 * i) 32))) []
      tpc := BitVec.ofNat 32 (natAt bs 0x400 4), tflags := BitVec.ofNat 8 st, st := SeqState.ofCode (st / 256 % 16)
      back := SeqState.ofCode (st / 4096 % 16), arr := arrOfWord (BitVec.ofNat 32 (natAt bs 0x408 4)) },
    (bs.drop 0x480).take 128 == ownBytes (k + 40) 128 && (bs.drop 0x500).take 1024 == ownBytes (k + 56) 1024)

/-- Reads parts of a slot in order. -/
def readParts (s : State) (asid : Nat) : List (Nat × Nat) → Except (PageCause × Nat) (List (List Byte))
  | [] => .ok []
  | p :: r =>
    match readVirtual s asid true p.1 p.2 with
    | .error e => .error e
    | .ok bs => match readParts s asid r with
      | .error e => .error e
      | .ok l => .ok (bs :: l)

/-- Reloads one block from the slot: its event queue, dumps and typed buffers, its groups stopped at a save point or exited. -/
def loadBlock (s : State) (gang b : Nat) : Except (PageCause × Nat) State :=
  let gg := gangAt s gang
  let l := (taskAt s gg.task).lpb
  let a := blockRecordAt l gg.slot b
  let k := gg.dumpAt + b * ownPerBlock
  match readParts s l.asid [(a + 0x80, 16), (a + 0x500, 1024), (a + 0x900, 1024), (a + 0xD00, 4096),
      (savedABuf l gg.slot b, 4096 * l.abuf), (savedABuf l gg.slot b + 4096 * l.abuf, 4096 * l.wbuf)] with
  | .error e => .error e
  | .ok [h, ev, md, td, ab, wb] =>
    let x := blockAt s gang b
    let n := min (natAt h 0 4) 64
    let m := matrixRestore x.mat md k
    let t := tenderRestore x.tnd td k
    let x1 := { x with
      events := (List.range n).map fun i => BitVec.ofNat 128 (natAt ev (16 * i) 16)
      abuf := SMap.setList (0 : Byte) [] 0 ab, wbuf := SMap.setList (0 : Byte) [] 0 wb
      -- a record that fails its check faults its stream when it resumes, which an IDLE or ENDED one never does
      mat := { m.1 with bad := m.1.bad || (!m.2 && !m.1.back.finished) }, tnd := { t.1 with bad := t.1.bad || (!t.2 && !t.1.back.finished) } }
    let exited := natAt h 8 8
    .ok ((List.range l.groups).foldl (fun s g =>
      let y := groupAt s gang b g
      setGroupAt s gang b g { y with st := if exited / 2 ^ g % 2 = 1 then .exited else .savePoint }) (setBlockAt s gang b x1))
  | .ok _ => .ok s

def loadBlocks (gang : Nat) : List Nat → State → Except (PageCause × Nat) State
  | [], s => .ok s
  | b :: r, s =>
    match loadBlock s gang b with
    | .error e => .error e
    | .ok s1 => loadBlocks gang r s1

/-- The device's part of a restore, and the restoring handler's work; or the task's failure (R465). -/
def loadGang (s : State) (gang : Nat) : State :=
  let gg := gangAt s gang
  match loadBlocks gang (List.range (taskAt s gg.task).lpb.blocks) s with
  | .error (c, va) => failTask (setGangAt s gang { gg with phase := .restoring }) gg.task 2 0x10 (deviceRecord s gang 0 c va)
  | .ok s1 =>
    let g1 := gangAt s1 gang
    setGangAt s1 gang { g1 with phase := .restoring, savePoint := true, work := ⟨2, List.replicate 16 0, 0, 0, 0, s1.now, false⟩ :: g1.work }

/-! ## HANDLER_START (R407, R417, R424) -/

/-- A stopped Tender has nothing left to do (R318): no host access, no matched message, no transition whose condition is met. -/
def tenderSettled (s : State) (gang blk : Nat) : Bool :=
  let t := (blockAt s gang blk).tnd
  !(s.hostAccs.any fun a => a.strm == 1 && a.gang == gang && a.blk == blk
      && (a.got.isNone || (a.kind == 5 && (t.recs.get none a.flight).any fun r => !r.stuck)))
    && !(s.ports.any fun p => (p.2.sends ++ p.2.recvs).any fun m => m.gang == gang && m.blk == blk && m.granted)
    && !(t.recs.any fun e => match e.2 with
          | some r =>
            !r.stuck && (match r.loop with
              | some l => match l.live with
                | (j, p) :: _ => r.count == p && !finishWaits s gang r.seq (blk, dHnd r.desc + j % l.ring, hsFull)
                | [] => false
              | none => r.op != 0x23 && r.op != 0x24 && r.prog == r.count && r.ended == 0 && (match (finishSides blk r)[r.fins]? with
                | some x => !finishWaits s gang r.seq x
                | none => true))
          | none => false)
/-- A stopped sequencer's words have no parked entries left, the engine's word stands at a rest point, and the oldest has nothing left that can be done
(R349). -/
def matrixSettled (s : State) (gang blk : Nat) : Bool :=
  let q := (blockAt s gang blk).mat.queue
  (q.all fun w => w.atRest && !w.late && !entriesLeft s gang blk w) && match q with
    | w :: _ => w.stage != 1 || (if w.ended < 2 then (engineFinish s gang blk w w.ended).isNone else w.ended == 3 && postWaits s gang blk (posterEngine blk))
    | [] => true

/-- A stopped group's words have completed (R232, R424 step 3): none is in flight. -/
def groupSettled (now : Nat) (g : Group) : Bool := g.flights.isEmpty && g.pend.all fun p => decide (p.land ≤ now)
/-- No event record waits beside room in its block's queue (R254): what waits then stays behind a full queue until the reload. -/
def postsSettled (b : Block) : Bool := b.posts.isEmpty || decide (64 ≤ b.events.length)
/-- Steps 1 to 3 of R424 have ended. -/
def gangSettled (s : State) (gang : Nat) : Bool :=
  ((gangGroups s gang).all fun e => groupSettled s.now e.2.2)
    && (blockIds s gang).all fun b => tenderSettled s gang b && matrixSettled s gang b && postsSettled (blockAt s gang b)

/-- The handler group as it starts (R407). -/
def handlerGroup (l : Lpb) (slot : Nat) (now : Nat) (w : HandlerWork) : Group :=
  let b := saveBase l slot
  let g : Group := { Group.vacant with st := .running, handler := true, nv := 64, readyAt := now }
  let g := { g with s := SMap.setList (0 : W32) [] 0 (w.words.take 16) }
  writeS (writeS (writeS g 16 (BitVec.ofNat 32 b)) 17 (BitVec.ofNat 32 (b / 2 ^ 32))) 18 (BitVec.ofNat 32 w.reason)

/-- Starts the handler group for the oldest work. -/
def startHandler (s : State) (gang : Nat) (w : HandlerWork) : State :=
  let gg := gangAt s gang
  let l := (taskAt s gg.task).lpb
  setGroupAt (setGangAt s gang { gg with busy := some w, work := gg.work.tail }) gang handlerBlk 0 (handlerGroup l gg.slot s.now w)

/-- HANDLER_START. -/
def execHandlerStart (gang : Nat) (s : State) : Out :=
  let gg := gangAt s gang
  match gg.busy, gg.work with
  | none, w :: _ =>
    if gg.phase ≠ .running ∧ gg.phase ≠ .saving ∧ gg.phase ≠ .restoring then .next s
    else if w.reason = 0 then
      -- the records of a clock are in their order when it is over (R407); work whose stream has gone on meanwhile is over
      if s.now ≤ w.at_ then .next s
      else if workOpen s gang w then .next (startHandler s gang w) else .next (setGangAt s gang { gg with work := gg.work.tail })
    else if w.reason = 1 then
      if gangSettled s gang then
        let r := writeDumps s gang
        .next (if r.1 then startHandler r.2 gang w else r.2)
      else .next s
    else .next (startHandler s gang w)
  | _, _ => .next s

/-! ## SAVE_COMPLETE (R424 step 5) -/

/-- What the device keeps of a saved block: the meaning of its own records, and the event records that wait behind its full event queue, which the
reload fills again. -/
def keptBlock (b : Block) : Block :=
  { Block.vacant with
    events := b.events, posts := b.posts, nv := b.nv, ngroups := b.ngroups
    tnd := { Tender.idle with recs := b.tnd.recs, held := b.tnd.held, got := b.tnd.got, ever := b.tnd.ever, tested := b.tnd.tested
                              sides := b.tnd.sides, bad := b.tnd.bad }
    mat := { Matrix.idle with tm := b.mat.tm, tn := b.mat.tn, tk := b.mat.tk, binds := b.mat.binds, queue := b.mat.queue, held := b.mat.held,
                              ever := b.mat.ever, bad := b.mat.bad } }
/-- What the device keeps of a saved group: the barriers it has ever arrived at (R391), its logical clock, which an exited group has no record
for (R58, R429), whether a TRAP or BKPT has yet to retire (R177, R178), a pending arithmetic trap (R135), and the words that it executes again (R155). -/
def keptGroup (g : Group) : Group :=
  { Group.vacant with st := .savePoint, nv := g.nv, ever := g.ever, lclk := g.lclk, owed := g.owed, atrap := g.atrap, redo := g.redo, again := g.again }

/-- The gang leaves its cores and is unplaced with its sequence number (R50). -/
def leaveCores (s0 : State) (gang : Nat) : State :=
  let s := keepPosted s0 gang
  let gg := gangAt s gang
  let t := taskAt s gg.task
  let s := { s with
    groups := s.groups.map fun e => if e.1 / 2048 = gang then (e.1, keptGroup (landAt s.now e.2)) else e
    blocks := s.blocks.map fun e => if e.1 / 32 = gang then (e.1, keptBlock e.2) else e
    cores := s.cores.mapVals Core.vacant fun c => { c with filter := c.filter.filter fun x => x.1 != gang } }
  let s := setTaskAt s gg.task { t with stats := t.stats.set .unplaced (gangIndexOf s gang) .saved, cursor := min t.cursor gg.seqNo }
  setGangAt s gang { gg with phase := .removed, bars := [], savedOn := gg.cluster + 1, removal := .none, removalCore := 0,
                             work := gg.work.filter fun w => w.reason = 0 ∧ w.strm ≠ 0 }

/-- SAVE_COMPLETE: the store buffer commits, the cores are released. -/
def execSaveComplete (gang : Nat) (s : State) : Out :=
  if (gangAt s gang).phase = .saved then .next (leaveCores (commitGang s gang) gang) else .next s

/-! ## COMMIT (R257, R418) -/

/-- A commit that finds an uncorrectable error in a line: with the window open nothing is merged and the gang is killed, with it closed the rest
is merged and the task fails. The store buffer's cluster counts the error (R432, log entry 130). -/
def badCommit (s0 : State) (gang : Nat) (line : Nat) (l : StoreLine) : State :=
  let s := countAt s0 2 (gangAt s0 gang).cluster 0
  let gg := gangAt s gang
  let words := faultWords s gang 0 l.blk l.grp l.idx 0 { FaultInfo.plain 0x30 with iret := l.iret, impr := true }
  if gg.window then killGang s gang 0x30 words
  else failTask (commitGang (setGangAt s gang { gg with store := gg.store.erase line }) gang) gg.task 2 0x30 words

/-- A commit that finds an uncorrectable error in a line of the gang's store buffer. -/
def commitError (gang line : Nat) (s : State) : State :=
  let gg := gangAt s gang
  if gg.phase = .vacant ∨ gg.phase = .removed then s
  else match gg.store.get none line with
    | some l => badCommit s gang line l
    | none => s

/-- COMMIT: the gang's store buffer merges into the cluster cache; `bad` says that its first line holds an uncorrectable error. -/
def execCommit (gang : Nat) (bad : Bool) (s : State) : Out :=
  let gg := gangAt s gang
  if gg.phase = .vacant ∨ gg.phase = .removed then .next s
  else match bad, gg.store with
    | true, (line, some l) :: _ => .next (badCommit s gang line l)
    | _, _ => .next (commitGang s gang)

end Sys2Proof.Machine
end

