-- ==== Sys2Proof/Machine/Host.lean ====
section
/-!
DEFINITION. The Fokoas link: host reads, writes and notifies, responses to the device's accesses of host memory, host-call records and their
replies, cancellation and discarded flits (spec/16 R438 to R443, spec/15 R414, R415).
-/

namespace Sys2Proof.Machine

/-! ## Discarded flits (R440, R464) -/

/-- A discarded flit is counted, saturating. -/
def countLinkError (s : State) : State := { s with mgmt := { s.mgmt with linkerr := min (s.mgmt.linkerr + 1) 0xFFFFFFFF } }

/-- DISCARDED_FLIT. -/
def execDiscardedFlit (_ftype : BitVec 8) (s : State) : Out := .next (countLinkError s)

/-! ## Host reads and writes (R440, R442) -/

/-- The `HRDATA` answer: the bytes at their place in the line, with their mask; status 1 for a line that holds a poisoned byte. -/
def hostAnswer (s : State) (tag n pa : Nat) : Flit :=
  { ftype := 0x81, stat := if poisoned s pa then 1 else 0, tag := tag, flen := n, faddr := pa,
    data := linePayload pa ((List.range n).map fun k => memByte s (pa + k)) }

/-- HREAD: at the memory side. A length outside 1 to 128, a range that leaves its line, or an address beyond the 48 bits of a physical one is a
flit with an illegal field (log entry 102). -/
def execHread (tag : BitVec 16) (flen : BitVec 32) (faddr : BitVec 64) (s : State) : Out :=
  let n := flen.toNat
  let pa := faddr.toNat
  if 2 ^ 48 ≤ pa ∨ n = 0 ∨ 128 < pa % 128 + n then .next (countLinkError s)
  else .next { s with outbox := s.outbox ++ [hostAnswer s tag.toNat n pa] }

/-- The bytes of a line write that its mask enables, one by one. -/
def hostPut (s : State) (line : Nat) (data : BitVec 1024) (mask : BitVec 128) : State :=
  let mem := (List.range 128).foldl (fun m k =>
    if mask.getLsbD k && decide (line < memSize / 128) then SMap.set memDefault m (128 * line + k) (BitVec.ofNat 8 (bitsOf data (8 * k) 8)) else m) s.mem
  -- a line written whole loses an error mark (R419)
  if mask = 0 then s else noteWatch { s with mem := mem, poison := if mask = BitVec.allOnes 128 then s.poison.set 0 line 0 else s.poison } line

/-- HWRITE: posted, at the memory side. -/
def execHwrite (faddr : BitVec 64) (data : BitVec 1024) (mask : BitVec 128) (s : State) : Out :=
  if 2 ^ 48 ≤ faddr.toNat then .next (countLinkError s)
  else .next (hostPut s (lineOf faddr.toNat) data mask)

/-- NOTIFY (R43). -/
def execNotify (flen : BitVec 32) (s : State) : Out :=
  if flen.toNat < 64 then .next (notifyQueue s flen.toNat) else .next (countLinkError s)

/-- TINV (R440): joins the invalidations; it is answered when its own is done. -/
def execTinv (tag : BitVec 16) (flen : BitVec 32) (faddr : BitVec 64) (s : State) : Out :=
  if 2 ^ 18 ≤ flen.toNat ∨ flen.toNat / 65536 % 4 = 3 ∨ faddr.toNat % 4096 ≠ 0 ∨ 2 ^ 52 ≤ faddr.toNat then .next (countLinkError s)
  else .next { s with tinvs := s.tinvs ++ [(flen, faddr.toNat, tag.toNat + 1)] }

/-! ## Responses (R441, R442) -/

/-- The access that a response answers. -/
def accessOf (s : State) (tag : BitVec 16) : Option HostAcc := s.hostAccs.find? fun a => a.tag == tag.toNat && a.got.isNone
/-- Takes an access off the list. -/
def dropAccess (s : State) (a : HostAcc) : State := { s with hostAccs := s.hostAccs.filter fun x => x != a }

/-- The place held for a lane's value in a flight takes it. -/
def fillLane (f : Flight) (a : HostAcc) (x : Nat) : Flight :=
  let mine (w : RegWrite) : Bool := match w with
    | .v r l _ => l == a.lane && (r == a.reg || (a.len == 8 && r == a.reg + 1))
    | _ => false
  { f with ws := f.ws.filter (fun w => !mine w) ++ loadWrites a.etype a.reg a.lane x }

/-- The value that the host returns for a lane reaches its flight. -/
def deliverLane (s : State) (a : HostAcc) (x : Nat) : State :=
  let g := groupAt s a.gang a.blk a.grp
  setGroupAt s a.gang a.blk a.grp { g with flights := g.flights.map fun f => if f.id = a.flight then fillLane f a x else f }

/-- SRDATA: a load's value, or bytes held until they are used. -/
def execSrdata (tag : BitVec 16) (data : BitVec 1024) (s : State) : Out :=
  match accessOf s tag with
  | none => .next s
  | some a =>
    let bs := (List.range a.len).map fun k => BitVec.ofNat 8 (bitsOf data (8 * ((a.addr + k) % 128)) 8)
    if a.kind = 5 ∨ a.kind = 6 then
      .next { s with hostAccs := s.hostAccs.map fun x => if x = a then { a with got := some bs } else x }
    else if a.kind = 0 ∨ a.kind = 4 then
      .next (if a.strm = 0 then deliverLane (dropAccess s a) a (natOf bs) else dropAccess s a)
    else .next s

/-- SWACK: a write has been performed. -/
def execSwack (tag : BitVec 16) (s : State) : Out :=
  match accessOf s tag with
  | some a => .next (if a.kind = 1 then dropAccess s a else s)
  | none => .next s

/-- SARES: an atomic's old value; status 1 gives 0 (R441). -/
def execSares (tag : BitVec 16) (stat : BitVec 8) (old : BitVec 64) (s : State) : Out :=
  match accessOf s tag with
  | none => .next s
  | some a =>
    let x := if stat = 0 then old.toNat % 2 ^ (8 * a.len) else 0
    if a.kind = 2 then .next (if a.strm = 0 then deliverLane (dropAccess s a) a x else dropAccess s a)
    else if a.kind = 3 then .next (dropAccess s a)
    else .next s

/-! ## Host-call records (R414) -/

/-- An access of the device itself. -/
def deviceAcc (kind addr len : Nat) : HostAcc :=
  { tag := 0, strm := 2, gang := 0, blk := 0, grp := 0, flight := 0, kind := kind, lane := 0, reg := 0, etype := 0, addr := addr, len := len,
    got := none }
/-- A write of the device itself to host memory. -/
def deviceHostWrite (s : State) (pa : Nat) (bs : List Byte) : State :=
  hostRequest s 0xA1 bs.length (linePayload pa bs) (deviceAcc 1 pa bs.length)

/-- The first call whose record is not yet in a ring. -/
def nextCall (s : State) (ring : Nat) : Option HostCall := s.calls.find? fun c => c.num.isNone && c.ring == ring
/-- The rings with a record to write or in progress. -/
def ringsOf (s : State) : List Nat := ((s.calls.filter fun c => c.num.isNone).map HostCall.ring ++ s.rings.map Prod.fst).eraseDups
def setRing (s : State) (ring : Nat) (x : RingOp) : State := { s with rings := s.rings.set .idle ring x }
/-- The device's own access of a kind at an address, while it awaits its response or is not used yet. -/
def deviceAccAt (s : State) (kind addr : Nat) : Option HostAcc :=
  s.hostAccs.find? fun a => a.strm == 2 && a.task.isNone && a.kind == kind && a.addr == addr

/-- The slot of record m. -/
def recordSlot (c : HostCall) (m : Nat) : Nat := c.ring + 64 * (1 + m % 2 ^ c.log)
/-- Record m is performed: `HCWR` becomes m + 1, and a calling group is stopped (R177). -/
def putCount (s : State) (c : HostCall) (m : Nat) : State :=
  let s := setRing (deviceHostWrite s c.ring (bytesOf 4 (m + 1))) c.ring .count
  let mark (x : HostCall) : HostCall := if x = c then { x with num := some m } else x
  let s := { s with calls := if c.strm = 3 ∧ !c.allStop then s.calls.erase c else s.calls.map mark }
  if c.strm = 0 then
    let g := groupAt s c.gang c.blk c.grp
    if g.called then setGroupAt s c.gang c.blk c.grp { g with st := .trap, owed := true, called := false } else s
  else s

/-- The next step of a ring (R414): its counts are read from the host; the record is written unless the ring is full, which holds its writer; when
that is performed `HCWR` is advanced; and when that is performed the interrupt is sent (R443). A call that is withdrawn before `HCWR` is advanced
leaves its slot to the next. -/
def ringStep (s : State) (ring : Nat) : State :=
  match s.rings.get .idle ring with
  | .count => if (deviceAccAt s 1 ring).isSome then s else sendIntr (setRing s ring .idle) 1 0 ring
  | .record c m =>
    if (deviceAccAt s 1 (recordSlot c m)).isSome then s
    else if nextCall s ring = some c then putCount s c m
    else setRing s ring .idle
  | .idle => match nextCall s ring with
    | none => s
    | some c => match deviceAccAt s 5 ring with
      | none => hostRequest s 0xA0 8 [] (deviceAcc 5 ring 8)
      | some a => match a.got with
        | none => s
        | some bs =>
          let wr := natOf (bs.take 4)
          let rd := natOf ((bs.drop 4).take 4)
          let s1 := dropAccess s a
          if (wr + 2 ^ 32 - rd) % 2 ^ 32 < 2 ^ c.log then
            setRing (deviceHostWrite s1 (recordSlot c wr) (c.words.flatMap fun w => bytesOf 4 w.toNat)) ring (.record c wr)
          else s1

/-- HOST_CALL_RECORD: each ring goes on by one step; a full one holds no other. -/
def execHostCallRecord (s : State) : Out := .next ((ringsOf s).foldl ringStep s)

/-! ## REPLY (R415) -/

/-- Word k of a reply. -/
def replyWord (p : BitVec 512) (k : Nat) : W32 := BitVec.ofNat 32 (bitsOf p (32 * k) 32)
/-- Reserved fields, and reserved codes of `RACT`. -/
def replyBad (p : BitVec 512) : Bool := bitsOf p (32 + 9) 23 != 0 || bitsOf p 64 192 != 0

/-- The call that a reply answers: of the ring of an active task, and awaiting a reply. -/
def callOf (s : State) (ring num : Nat) : Option HostCall :=
  if s.tasks.any fun t => t.2.active && t.2.lpb.hcring == ring && ring != 0 then
    s.calls.find? fun c => c.ring == ring && c.num == some num && c.reply.isNone && (c.strm != 3 || c.allStop)
  else none

/-- REPLY. A reply for a gang that is being saved, is saved or is being restored is kept until it runs (log entry 33). -/
def execReply (faddr : BitVec 64) (payload : BitVec 512) (s : State) : Out :=
  if replyBad payload then .next (countLinkError s)
  else match callOf s faddr.toNat (replyWord payload 0).toNat with
    | none => .next (countLinkError s)
    | some c =>
      let mask := bitsOf payload 32 8
      let vs := (List.range 8).map fun i => replyWord payload (8 + i)
      if bitsOf payload 40 2 = 1 then
        .next (failTask s (gangAt s c.gang).task 4 (((c.words[0]?).getD 0).toNat / 2 ^ 24) c.words)
      else if (gangAt s c.gang).phase = .running ∨ c.blk = handlerBlk then
        .next (answerCall { s with calls := s.calls.erase c } c mask vs)
      else .next { s with calls := s.calls.map fun x => if x = c then { c with reply := some (mask, vs) } else x }

/-! ## CANCEL (R438) -/

/-- The active task of a queue and count. -/
def taskNamed (s : State) (q n : Nat) : Option Nat :=
  (s.tasks.find? fun t => t.2.active && t.2.queue == q && t.2.seqNo == n).map Prod.fst

/-- CANCEL. -/
def execCancel (flen : BitVec 32) (faddr : BitVec 64) (s : State) : Out :=
  let q := flen.toNat
  let n := faddr.toNat
  if 64 ≤ q ∨ 2 ^ 32 ≤ n then .next (countLinkError s)
  else match taskNamed s q n with
    | some t => .next (failTask s t 7 0 [])
    | none =>
      let ahead := (n + 2 ^ 32 - (readQueue s q).head) % 2 ^ 32
      let v := queueView s q
      if ahead < 2 ^ 31 ∧ !v.cancelled.contains n then .next (setQueueView s q { v with cancelled := v.cancelled ++ [n] }) else .next s

end Sys2Proof.Machine
end

