-- ==== Sys2Proof/Machine/Placement.lean ====
section
/-!
DEFINITION. Placement: eligibility, the gang that is offered, the clusters and runs tried, reservations, and the pre-emption that a realtime gang asks
for (spec/02 R46 to R54, spec/03 R73, R79, spec/15 R421, R431).
-/

namespace Sys2Proof.Machine

/-! ## The gang a task offers (R50) -/

/-- The first eligible unplaced gang of the window of 64. -/
def offered (t : Task) : Option Nat :=
  ((List.range 64).map fun k => t.cursor + k).find? fun q => decide (q < gangCount t.lpb) && isOpen t q && (eligibleSince t q).isSome
/-- The lowest open sequence number from one on. -/
def firstOpen (t : Task) : Nat → Nat → Nat
  | 0, q => q
  | fuel + 1, q => if isOpen t q then q else firstOpen t fuel (q + 1)

/-- The tasks that may place gangs, by class and then in dequeue order. -/
def tasksInOrder (s : State) : List Nat :=
  (List.range 4).flatMap fun c => (s.tasks.filter fun e =>
    e.2.active && !e.2.failed && e.2.lpb.prio == c && e.2.serial.all fun k => !(taskAt s k).active).map Prod.fst

/-- The lowest free live-gang slot (R20). -/
def freeSlot (t : Task) : Option Nat := (List.range (min t.lpb.slots (t.slots.length + 1))).find? fun j => t.slots.get 0 j == 0
/-- The slot of the gang at an index: a saved gang keeps its own. -/
def slotFor (s : State) (task ix : Nat) : Option Nat :=
  let t := taskAt s task
  if t.stats.get .unplaced ix = .saved then some (gangAt s (gangKeyOf task ix)).slot else freeSlot t

/-! ## Clusters in their order (R52, R431) -/

/-- The recorded gangs of a producer in any of a gang's rectangles over it, with the cluster + 1 of each. -/
def producersOn (s : State) (t : Task) (x y p : Nat) : List Nat :=
  let pt := taskAt s p
  (pt.clusters.filter fun e =>
    t.deps.any fun d => d.producer == some p && inRect d x y (e.1 % pt.lpb.gridx) (e.1 / pt.lpb.gridx)).map Prod.snd
/-- The forwarding cluster: the one that ran the most producer gangs. -/
def forwardingCluster (s : State) (t : Task) (x y : Nat) : Option Nat :=
  let cs := (t.deps.filterMap Dep.producer).eraseDups.flatMap (producersOn s t x y)
  (List.range 16).foldl (fun b c =>
    if cs.count (c + 1) = 0 then b
    else match b with
      | none => some c
      | some k => if cs.count (k + 1) < cs.count (c + 1) then some c else b) none
/-- The clusters in the order tried; the one that a killed gang avoids comes last. -/
def clusterOrder (s : State) (t : Task) (x y ix : Nat) : List Nat :=
  let cs := match forwardingCluster s t x y with
    | some f => f :: (List.range 16).filter fun c => c != f
    | none => List.range 16
  let a := t.avoid.get 0 ix
  if a = 0 then cs else (cs.filter fun c => c + 1 != a) ++ [a - 1]

/-- The run for the gang of a task at a sequence number. -/
def findRun (s : State) (task seq : Nat) : Option Run :=
  let t := taskAt s task
  let g := gangOfSeq t.lpb seq
  (clusterOrder s t g.1 g.2 (indexOfSeq t.lpb seq)).findSome? (runOn s task seq)

/-! ## Placing a gang -/

/-- The handles of a block at its start (R25): a later record of a handle stands. -/
def initialHandles (t : Task) : SMap (BitVec 128) := t.handles.foldl (fun m e => m.set 0 e.1 e.2) []
/-- The lowest context number that no block on a core has (R333 `BSLT`, log entry 124). -/
def freeContext (s : State) (core : Nat) : Nat :=
  ((List.range 4).find? fun k => !(s.blocks.any fun e => e.2.used && e.2.core == core && e.2.ctx == k)).getD 0
/-- A block on its spot. -/
def seatBlock (t : Task) (fresh : Bool) (slots : List Nat) (ctx : Nat) (b : Block) (x : Spot) : Block :=
  { (if fresh then { Block.vacant with handles := initialHandles t } else b) with
    used := true, core := x.core, ctx := ctx, nv := regsOf t.lpb, ngroups := t.lpb.groups, parts := x.parts, slots := slots, abase := x.abase,
    wbase := x.wbase, cbase := x.cbase }
/-- Seats block i: its record, and its filter entries (R71). -/
def seatAt (t : Task) (fresh : Bool) (gang gx gy : Nat) (s : State) (e : Nat × Spot) : State :=
  let slots := takeSlots (slotsUsed s gang e.2.core) e.2.parts []
  let s1 := setBlockAt s gang e.1 (seatBlock t fresh slots (freeContext s e.2.core) (blockAt s gang e.1) e.2)
  let c := coreAt s1 e.2.core
  setCoreAt s1 e.2.core { c with filter := c.filter ++ [(gang, e.1, t.regions.map fun r => instanceOf r gx gy)] }

/-- Asks a cluster's engine for an edge action (R77). -/
def pushEdge (s : State) (cl : Nat) (a : EdgeAction) : State :=
  let c := clusterAt s cl
  setClusterAt s cl { c with edges := c.edges ++ [a] }

/-- Ends the reservation of the gang at (task, seq) (R53). -/
def endReservation (s : State) (task seq : Nat) : State :=
  { s with clusters := s.clusters.mapVals Cluster.vacant fun c =>
      match c.resv with
      | some (_, _, t, q) => if t = task ∧ q = seq then { c with resv := none } else c
      | none => c }

/-- The gang's record as it is placed. -/
def placedGang (s : State) (task seq slot : Nat) (r : Run) (g : Gang) : Gang :=
  let t := taskAt s task
  let x := gangOfSeq t.lpb seq
  { (if g.phase = .removed then g else { Gang.vacant with budget := t.lpb.ebudget }) with
    phase := .placing, task := task, gx := x.1, gy := x.2, seqNo := seq, cluster := r.cluster, first := r.first, hcore := r.hcore,
    hpart := r.hpart, slot := slot, placedAt := s.now }

/-- Places a gang on a run: its blocks and filter entries stand, and its edge actions are asked for; a gang saved on another cluster migrates
first (R79). -/
def placeGang (s : State) (task seq slot : Nat) (r : Run) : State :=
  let t := taskAt s task
  let ix := indexOfSeq t.lpb seq
  let gang := gangKeyOf task ix
  let g0 := gangAt s gang
  let fresh := g0.phase != .removed
  let g := placedGang s task seq slot r g0
  let s1 := setGangAt s gang g
  let s2a := (r.spots.mapIdx fun i x => (i, x)).foldl (seatAt t fresh gang g.gx g.gy) s1
  let s2 := setGangAt s2a gang { g with hslot := freeGroupSlot (slotsUsed s2a gang r.hcore r.hpart) }
  let t1 := { t with stats := t.stats.set .unplaced ix .placed, slots := t.slots.set 0 slot 1, clusters := t.clusters.set 0 ix (r.cluster + 1)
                     passed := t.passed.set 0 seq 0, avoid := t.avoid.set 0 ix 0 }
  let s3 := endReservation (setTaskAt s2 task { t1 with cursor := firstOpen t1 (gangCount t.lpb - t1.cursor) t1.cursor }) task seq
  if fresh || g.savedOn == r.cluster + 1 then pushEdge s3 r.cluster ⟨0, gang, !fresh⟩ else pushEdge s3 (g.savedOn - 1) ⟨2, gang, false⟩

/-! ## Gangs passed over, and pre-emption (R50, R53, R54) -/

/-- Marks a gang as passed over. -/
def markPassed (s : State) (task seq : Nat) : State :=
  let t := taskAt s task
  setTaskAt s task { t with passed := t.passed.set 0 seq 1 }

/-- Whether a gang holds a reservation. -/
def hasReservation (s : State) (task seq : Nat) : Bool := s.clusters.any fun c => match c.2.resv with
  | some (_, _, t, q) => t == task && q == seq
  | none => false

/-- Whether a gang may be stopped for a realtime gang: of class 1 to 3, and not on its way out. -/
def stoppable (s : State) (g : Gang) : Bool :=
  (g.phase == .running || g.phase == .placing || g.phase == .restoring) && (taskAt s g.task).lpb.prio != 0
/-- The gangs that may be stopped to free a run: those with a block on it, and those with a handler slot on its cluster. -/
def stopCandidates (s : State) (cl first n : Nat) : List Nat :=
  (s.gangs.filter fun e => stoppable s e.2 && e.2.cluster == cl
    && (e.2.hcore / 16 == cl || (s.blocks.any fun b => b.1 / 32 == e.1 && b.2.used && (List.range n).any fun i => runCore cl first i == b.2.core))).map
    Prod.fst
/-- The device as it would stand without some gangs, once their parked entries have resolved. -/
def without (s : State) (gs : List Nat) : State :=
  let s1 := gs.foldl dropGang s
  { s1 with cores := s1.cores.mapVals Core.vacant fun c => { c with park := [] } }

/-- How good a set of gangs is to stop: the worst classes first, then the latest tasks. -/
def stopRank (s : State) (gs : List Nat) : List (Nat × Nat) :=
  (gs.map fun g => let t := (gangAt s g).task; ((taskAt s t).lpb.prio, t)).mergeSort fun a b => decide (b.1 < a.1 ∨ (a.1 = b.1 ∧ b.2 ≤ a.2))
/-- Whether the first of two ranks is preferred. -/
def rankBefore : List (Nat × Nat) → List (Nat × Nat) → Bool
  | a :: r, b :: q => if a = b then rankBefore r q else decide (b.1 < a.1 ∨ (a.1 = b.1 ∧ b.2 < a.2))
  | _, _ => false
/-- The preferred of several sets, the first among equals. -/
def bestStop (s : State) : List (Nat × List Nat) → Option (Nat × List Nat)
  | [] => none
  | x :: r => match bestStop s r with
    | none => some x
    | some y => if rankBefore (stopRank s y.2) (stopRank s x.2) then some y else some x

/-- The ways to choose k of a list. -/
def chooseOf : List Nat → Nat → List (List Nat)
  | _, 0 => [[]]
  | [], _ + 1 => []
  | a :: r, k + 1 => (chooseOf r k).map (fun l => a :: l) ++ chooseOf r (k + 1)
/-- On one cluster, the runs that stopping k gangs frees, with those gangs. -/
def freedBy (s : State) (task seq cl k : Nat) : List (Nat × List Nat) :=
  let n := (taskAt s task).lpb.blocks
  (List.range 16).flatMap fun c =>
    ((chooseOf (stopCandidates s cl c n) k).filter fun gs => (runAt (without s gs) cl c task seq).isSome).map fun gs => (c, gs)
/-- The run to free on a cluster: the fewest gangs, then the preference. -/
def freeableOn (s : State) (task seq cl : Nat) : Option (Nat × Nat × List Nat) :=
  let c := clusterAt s cl
  if c.fenced || c.resv.isSome then none
  else ((List.range (s.gangs.length + 1)).findSome? fun k => bestStop s (freedBy s task seq cl k)).map fun x => (cl, x.1, x.2)

/-- Whether a run is being freed for a gang already. -/
def beingFreed (s : State) (task seq : Nat) : Bool := s.clusters.any fun c => c.2.freeing && match c.2.resv with
  | some (_, _, t, q) => t == task && q == seq
  | none => false
/-- A realtime gang that is passed over has the fewest gangs removed, and the freed run is reserved for it, in place of a run that it may have reserved
for want of cores alone (R53). -/
def preemptFor (s : State) (task seq : Nat) : State :=
  if beingFreed s task seq then s
  else
    let s0 := endReservation s task seq
    match (List.range 16).findSome? (freeableOn s0 task seq) with
    | none => s
    | some (cl, first, gs) =>
      let s1 := setClusterAt s0 cl { clusterAt s0 cl with resv := some (first, (taskAt s task).lpb.blocks, task, seq), freeing := true }
      gs.foldl (fun s g => removeGang s g 0) s1

/-- A gang that fits nowhere. -/
def passOver (s : State) (task seq : Nat) : State :=
  let s1 := markPassed s task seq
  if (taskAt s task).lpb.prio = 0 then preemptFor s1 task seq else s1

/-- One placement decision over tasks in order. A gang without a free live-gang slot is not placed, and is not passed over for want of cores. -/
def placeFrom : List Nat → State → State
  | [], s => s
  | k :: r, s =>
    match offered (taskAt s k) with
    | none => placeFrom r s
    | some q =>
      match slotFor s k (indexOfSeq (taskAt s k).lpb q) with
      | none => placeFrom r s
      | some slot =>
        match findRun s k q with
        | some run => placeGang s k q slot run
        | none => placeFrom r (passOver s k q)

/-- GANG_PLACEMENT. -/
def execGangPlacement (s : State) : Out := .next (placeFrom (tasksInOrder s) s)

/-! ## RESERVATION (R53) -/

/-- Whether each core of a cluster can hold the task's block. -/
def ableCores (s : State) (task cl : Nat) : List Bool :=
  let t := taskAt s task
  (List.range 16).map fun i => (blockFits s t.lpb t.regions.length (cl * 16 + i)).isSome
/-- The length of the run of able cores from core i on round the ring. -/
def ableFrom (l : List Bool) : Nat → Nat → Nat
  | 0, _ => 0
  | fuel + 1, i => if (l[i % 16]?).getD false then ableFrom l fuel (i + 1) + 1 else 0
def longestAble (l : List Bool) : Nat := (List.range 16).foldl (fun m i => max m (ableFrom l 16 i)) 0

/-- The cluster to reserve on. -/
def reserveCluster (s : State) (task : Nat) : Option Nat :=
  (List.range 16).foldl (fun b cl =>
    let c := clusterAt s cl
    if c.fenced || c.resv.isSome then b
    else match b with
      | none => some cl
      | some k => if longestAble (ableCores s task k) < longestAble (ableCores s task cl) then some cl else b) none
/-- The run to reserve on a cluster: no core of it fenced, the most able cores. -/
def reserveRun (s : State) (task cl : Nat) : Option Nat :=
  let n := (taskAt s task).lpb.blocks
  let l := ableCores s task cl
  let count (c : Nat) : Nat := ((List.range n).filter fun i => (l[(c + i) % 16]?).getD false).length
  (List.range 16).foldl (fun b c =>
    if (List.range n).any fun i => (coreAt s (runCore cl c i)).fenced then b
    else match b with
      | none => some c
      | some k => if count k < count c then some c else b) none

/-- The gangs, by task order and sequence number, that are passed over, first became eligible 2^16 clocks ago or more, and hold no reservation. -/
def overdue (s : State) : List (Nat × Nat) :=
  (tasksInOrder s).flatMap fun k =>
    let t := taskAt s k
    (t.passed.filter fun e => (match eligibleSince t e.1 with
      | some c => decide (c + 2 ^ 16 ≤ s.now)
      | none => false) && !hasReservation s k e.1).map fun e => (k, e.1)

/-- Reserves a run for an overdue gang. It stays passed over when every cluster is fenced or holds a reservation; and, DESIGN CHOICE (log entry 139),
when the cluster picked has no run of its size without a fenced core: no other cluster is tried for it. -/
def reserveFor (s : State) (e : Nat × Nat) : State :=
  match reserveCluster s e.1 with
  | none => s
  | some cl => match reserveRun s e.1 cl with
    | none => s
    | some c => setClusterAt s cl { clusterAt s cl with resv := some (c, (taskAt s e.1).lpb.blocks, e.1, e.2), freeing := false }

/-- RESERVATION. -/
def execReservation (s : State) : Out := .next ((overdue s).foldl reserveFor s)

end Sys2Proof.Machine
end

