-- ==== Sys2Proof/Machine/Edge.lean ====
section
/-!
DEFINITION. Edge actions, the start and completion of a gang, and the retirement of gangs and tasks (spec/03 R73 to R80, spec/04 R106, spec/15 R420,
R422, R425, spec/16 R434 to R437).
-/

namespace Sys2Proof.Machine

/-! ## The lines of an instance -/

/-- A line of an instance: its virtual and its physical line number. -/
structure EdgeLine where
  va : Nat
  line : Nat
deriving DecidableEq, Repr

/-- The lines of an instance that are mapped to device memory: others have nothing cached (R74). Instances are whole lines. -/
def instanceLines (s : State) (asid : Nat) (r : Region) : List EdgeLine :=
  (List.range (r.ext / 128)).filterMap fun k =>
    match walk s asid (r.base + 128 * k) with
    | .ok e => if e.mt = 1 then none else some ⟨r.base + 128 * k, lineOf (e.paOf (r.base + 128 * k))⟩
    | .error _ => none

/-- Whether a line lies inside an instance of another task: by its virtual address in the same address space, else by its physical line. -/
def lineInside (s : State) (asid : Nat) (x : EdgeLine) (asid2 : Nat) (r : Region) : Bool :=
  if asid = asid2 then r.holds x.va else (instanceLines s asid2 r).any fun y => y.line == x.line

/-- The cores of a gang's run. -/
def runCores (s : State) (gang : Nat) : List Nat :=
  let g := gangAt s gang
  (List.range (taskAt s g.task).lpb.blocks).map fun i => runCore g.cluster g.first i
/-- Takes a line out of the read caches of cores. -/
def dropRead (s : State) (cores : List Nat) (line : Nat) : State :=
  cores.foldl (fun s c => let x := coreAt s c; setCoreAt s c { x with rcache := x.rcache.set Line.empty line Line.empty }) s

/-! ## Forwarding (R76) -/

/-- Write-side kinds of cached data. -/
def cachedWrite (r : Region) : Bool := r.kind == 1 || r.kind == 2
def cachedRead (r : Region) : Bool := r.kind == 0 || r.kind == 2
/-- Kinds that hold cached data. -/
def cachedKind (r : Region) : Bool := decide (r.kind ≤ 2)

/-- The completed producer gangs of a gang in one task: all of them for a serialised task, else those of the rectangles; each with its cluster + 1, or 0
where that is no longer recorded (R52), which counts as another cluster. -/
def producerGangs (s : State) (t : Task) (x y p : Nat) : List (Nat × Nat) :=
  let pt := taskAt s p
  (pt.stats.filter fun e => e.2 == .retired && (t.serial.contains p
    || t.deps.any fun d => d.producer == some p && inRect d x y (e.1 % pt.lpb.gridx) (e.1 / pt.lpb.gridx))).map fun e => (e.1, pt.clusters.get 0 e.1)
/-- The producer tasks. -/
def producerTasks (t : Task) : List Nat := (t.deps.filterMap Dep.producer ++ t.serial).eraseDups

/-- Whether a line lies inside a write instance of a completed producer gang whose cluster satisfies a test. -/
def wroteOn (s : State) (t : Task) (x y : Nat) (l : EdgeLine) (on : Nat → Bool) : Bool :=
  (producerTasks t).any fun p =>
    let pt := taskAt s p
    (producerGangs s t x y p).any fun e => on e.2 && pt.regions.any fun r =>
      cachedWrite r && lineInside s t.lpb.asid l pt.lpb.asid (instanceOf r (e.1 % pt.lpb.gridx) (e.1 / pt.lpb.gridx))

/-- Whether gang start keeps a line of record r in the cluster's cache. -/
def keepsLine (s : State) (gang : Nat) (resume : Bool) (r : Region) (l : EdgeLine) : Bool :=
  let g := gangAt s gang
  let t := taskAt s g.task
  (resume && t.regions.any fun q => cachedWrite q && (instanceOf q g.gx g.gy).holds l.va)
    || (r.fwd && wroteOn s t g.gx g.gy l (fun c => c == g.cluster + 1) && !wroteOn s t g.gx g.gy l (fun c => c != g.cluster + 1))

/-! ## The three actions (R73, R75) -/

/-- Gang start for one record. -/
def startRecord (gang cluster : Nat) (resume : Bool) (s : State) (r : Region) : State :=
  let g := gangAt s gang
  let t := taskAt s g.task
  if !cachedKind r then s
  else (instanceLines s t.lpb.asid (instanceOf r g.gx g.gy)).foldl (fun s l =>
    let s1 := dropRead s (runCores s gang) l.line
    if keepsLine s gang resume r l then s1 else invalidateLine s1 cluster l.line) s

/-- Gang completion for one record: write-back, then the retention hints. -/
def completeRecord (gang cluster : Nat) (s : State) (r : Region) : State :=
  let g := gangAt s gang
  let t := taskAt s g.task
  if !cachedKind r then s
  else (instanceLines s t.lpb.asid (instanceOf r g.gx g.gy)).foldl (fun s l =>
    let s1 := if cachedWrite r then writeBack s cluster l.line else s
    let s2 := if cachedWrite r && r.fl && !r.fwd then invalidateLine s1 cluster l.line else s1
    if cachedRead r && r.inv then dropRead (invalidateLine s2 cluster l.line) (runCores s2 gang) l.line else s2) s

/-- Migration for one record, on the old cluster: the lines stay as clean copies (R80). -/
def migrateRecord (gang cluster : Nat) (s : State) (r : Region) : State :=
  let g := gangAt s gang
  if cachedWrite r then
    (instanceLines s (taskAt s g.task).lpb.asid (instanceOf r g.gx g.gy)).foldl (fun s l => writeBack s cluster l.line) s
  else s

/-- One action, its gang's records in order. -/
def performEdge (s : State) (cluster : Nat) (a : EdgeAction) : State :=
  let rs := (taskAt s (gangAt s a.gang).task).regions
  match a.kind with
  | 0 => rs.foldl (startRecord a.gang cluster a.resume) s
  | 1 => rs.foldl (completeRecord a.gang cluster) s
  | _ => pushEdge (rs.foldl (migrateRecord a.gang cluster) s) (gangAt s a.gang).cluster ⟨0, a.gang, false⟩

/-- The record of a poisoned write-back (R74, R412): it stops at no word, and names the line by its address in the gang's instances. -/
def poisonWords (s : State) (gang line : Nat) : List W32 :=
  let g := gangAt s gang
  let t := taskAt s g.task
  let va := (((t.regions.filter cachedKind).flatMap fun r => instanceLines s t.lpb.asid (instanceOf r g.gx g.gy)).find? fun x =>
    x.line == line).map EdgeLine.va
  faultWords s gang 0 0 0 0 0 { FaultInfo.plain 0x32 with va := va.getD 0, impr := true }

/-- A line that was written back with an uncorrectable error: it stands at the memory side marked poisoned, and the gang's task fails (R74); the cluster counts
the error (R432, log entry 130). -/
def poisonLine (s : State) (gang line : Nat) : State :=
  failTask (countAt { s with poison := s.poison.set 0 line 1 } 2 (gangAt s gang).cluster 0) (gangAt s gang).task 2 0x32 (poisonWords s gang line)

/-- The gang of a cluster in whose write instances a line lies. -/
def writerOf (s : State) (cluster line : Nat) : Option Nat :=
  (s.gangs.find? fun e => e.2.cluster == cluster && (taskAt s e.2.task).regions.any fun r =>
    cachedWrite r && (instanceLines s (taskAt s e.2.task).lpb.asid (instanceOf r e.2.gx e.2.gy)).any fun x => x.line == line).map Prod.fst
/-- A cache replaces a line in which the write-back finds an uncorrectable error (R74): there is one only where the line was dirty. -/
def replaceBad (s : State) (read : Bool) (unit : Nat) (line : Option Nat) : State :=
  let t := replaceLine s read unit line
  match if read then none else lineToReplace (clusterAt s unit).lines line (takeFresh s).1 with
  | none => t
  | some l =>
    if (clusterLine s unit l).dirty = 0 then t
    else match writerOf s unit l with
      | some gang => poisonLine t gang l
      | none => countAt { t with poison := t.poison.set 0 l 1 } 2 unit 0

/-- The completion actions of a gang have ended: it retires after those of its task that ended before (R434). -/
def noteEnded (s : State) (a : EdgeAction) : State :=
  if a.kind ≠ 1 then s
  else
    let k := (gangAt s a.gang).task
    let t := taskAt s k
    setTaskAt s k { t with ending := t.ending ++ [a.gang] }

/-- EDGE_ACTION (R77): the first action of a cluster's queue. `bad` names a line of the cluster cache that holds an uncorrectable error, which is
found when the action writes the line back. -/
def execEdgeAction (cluster : Nat) (bad : Option Nat) (s : State) : Out :=
  let c := clusterAt s cluster
  match c.edges with
  | [] => .next s
  | a :: rest =>
    let t := noteEnded (performEdge (setClusterAt s cluster { c with edges := rest }) cluster a) a
    match bad with
    | none => .next t
    | some l => .next (if (clusterLine s cluster l).dirty ≠ 0 ∧ (clusterLine t cluster l).dirty = 0 then poisonLine t a.gang l else t)

/-- Whether an edge action of a gang is still to be made. -/
def edgePending (s : State) (gang : Nat) : Bool := s.clusters.any fun c => c.2.edges.any fun a => a.gang == gang

/-! ## GANG_START (R73, R106, R425) -/

/-- A group at its start. -/
def startGroup (nv now : Nat) : Group := { Group.vacant with st := .running, nv := nv, readyAt := now }
/-- A block's streams begin (R14, R106). -/
def startBlock (s : State) (gang blk : Nat) : State :=
  let b := blockAt s gang blk
  let l := (taskAt s (gangAt s gang).task).lpb
  let b1 := { b with
    tnd := if l.tentry = 0 then Tender.idle else { Tender.idle with st := .running }
    mat := if l.mentry = 0 then Matrix.idle else { Matrix.idle with st := .running } }
  (List.range b.ngroups).foldl (fun s g => setGroupAt s gang blk g (startGroup b.nv s.now)) (setBlockAt s gang blk b1)

/-- The start of a placed gang whose start actions have ended. -/
def startGang (s : State) (gang : Nat) : State :=
  let g := gangAt s gang
  let t := taskAt s g.task
  if t.failed then dropGang s gang
  else if g.savedOn ≠ 0 then loadGang s gang
  else
    let s1 := (List.range t.lpb.blocks).foldl (fun s b => startBlock s gang b) s
    removeWaiting (setGangAt s1 gang { gangAt s1 gang with phase := .running }) gang

/-- GANG_START. -/
def execGangStart (gang : Nat) (s : State) : Out :=
  .next (if (gangAt s gang).phase = .placing ∧ !edgePending s gang then startGang s gang else s)

/-! ## GANG_COMPLETION (R73) -/

/-- Every stream of every block has ended, and nothing of the gang's is outstanding. -/
def gangDone (s : State) (gang : Nat) : Bool :=
  let g := gangAt s gang
  g.phase == .running && g.busy.isNone && !(s.hostAccs.any fun a => a.gang == gang && a.strm != 2)
    && (List.range (taskAt s g.task).lpb.blocks).all fun b =>
      blockEnded s gang b && (blockAt s gang b).mat.queue.isEmpty && !((blockAt s gang b).tnd.recs.any fun e => e.2.isSome)
        && (List.range (blockAt s gang b).ngroups).all fun k => (groupAt s gang b k).flights.isEmpty

/-- GANG_COMPLETION: the store buffer commits, and the completion actions are asked for. -/
def execGangCompletion (gang : Nat) (s : State) : Out :=
  if gangDone s gang then
    let s1 := commitGang s gang
    let g := gangAt s1 gang
    .next (pushEdge (setGangAt s1 gang { g with phase := .completing }) g.cluster ⟨1, gang, false⟩)
  else .next s

/-! ## GANG_RETIREMENT (R434) -/

/-- The gang's bit is set by an OR at the memory side (R28); a failed translation fails the task. -/
def setCompletionBit (s : State) (gang : Nat) : State :=
  let g := gangAt s gang
  let l := (taskAt s g.task).lpb
  let ix := gangIndexOf s gang
  let va := l.cbmap + ix / 64 * 8
  if l.cbmap = 0 then s
  else match translateBare s l.asid va .write true with
    | .ok pa => memWriteNat s pa 8 (memNat s pa 8 ||| 2 ^ (ix % 64))
    | .error c => failTask s g.task 2 0x10 (deviceRecord s gang 3 c va)

/-- Step 4: cores, filter entries and slots are released, and the clocks enter the mean E (R422). -/
def releaseGang (s : State) (gang : Nat) : State :=
  let g := gangAt s gang
  let t := taskAt s g.task
  let ix := gangIndexOf s gang
  dropGang (setTaskAt s g.task { t with
    stats := t.stats.set .unplaced ix .retired, slots := t.slots.set 0 g.slot 0, retired := t.retired + 1, ending := t.ending.erase gang
    sums := (gangProgress s gang :: t.sums).take 16 }) gang

/-- Whether it is a gang's turn to retire: its completion actions have ended, before those of the other gangs of its task that have not retired. -/
def retiresNext (s : State) (gang : Nat) : Bool :=
  (gangAt s gang).phase == .completing && !edgePending s gang && (taskAt s (gangAt s gang).task).ending.head? == some gang
/-- GANG_RETIREMENT (R434): after step 4 the dispatcher re-tests eligibility. -/
def execGangRetirement (gang : Nat) (s : State) : Out :=
  .next (if retiresNext s gang then retest (releaseGang (setCompletionBit s gang) gang) else s)

/-! ## TASK_RETIREMENT (R435, R436) -/

/-- Marks the device's own requests for a task's contributions to host memory. -/
def contribAcc (task pa len : Nat) : HostAcc := { deviceAcc 3 pa len with task := some task }
/-- Whether answers for a task's contributions, or for writes that a gang of it had sent when it was removed, are still to come (R437, R442). -/
def contribsOut (s : State) (task : Nat) : Bool := s.hostAccs.any fun a => a.task == some task && 1 ≤ a.kind && a.kind ≤ 3

/-- Applies one contribution (R61, R280): the flags, and the state after. An `ACAS` whose compare fails writes nothing (R277). -/
def applyContrib (task : Nat) (x : FlagSet × State) (c : Contrib) : FlagSet × State :=
  let o := AtomicOp.ofCode c.op
  let wide := etypeWide c.etype
  let z := if wide then 8 else 4
  if c.host then
    (x.1, hostRequest x.2 0xA2 (satomLen o wide) (satomData o c.val.toNat c.val2.toNat) (contribAcc task c.pa z))
  else
    let r := atomicNew o c.etype c.rnd c.lane (memNat x.2 c.pa z) c.val.toNat c.val2.toNat
    (x.1 ||| r.2, if casFails o (memNat x.2 c.pa z) c.val2.toNat then x.2 else memWriteNat x.2 c.pa z r.1)
/-- Contributions in the order of their keys. -/
def sortContribs (l : List Contrib) : List Contrib := l.mergeSort fun a b => decide (a.key ≤ b.key)
/-- Steps 1 and 2: every held contribution is applied, and its flags are collected. -/
def applyContribs (s : State) (task : Nat) : State :=
  let t := taskAt s task
  let r := (sortContribs t.contribs).foldl (applyContrib task) (0, s)
  let t1 := taskAt r.2 task
  setTaskAt r.2 task { t1 with contribs := [], contribFlags := t1.contribFlags ||| r.1.setWidth 32 }

/-- The task flags (R435): a failed task's hold none of its contributions'. -/
def taskFlags (t : Task) : W32 := if t.failed then t.flagsOr else t.flagsOr ||| t.contribFlags
/-- The record of a task. -/
def recordOf (t : Task) : List Byte :=
  let w (k : Nat) : Nat := if t.failKind = 2 ∨ t.failKind = 4 then ((t.failRec[k]?).getD 0).toNat else 0
  completionBytes t.failKind t.failCode (taskFlags t).toNat (w 2) (w 0) (w 10)

/-- Steps 3 to 5: the record, the end of the active task, and the interrupt. -/
def finishTask (s : State) (task : Nat) : State :=
  let t := taskAt s task
  let s1 := putCompletion s t.donePA (recordOf t)
  let s2 := pruneRecent { setTaskAt s1 task { t with active := false } with recent := s1.recent ++ [task] }
  sendIntr s2 (if t.failed then 3 else 2) t.queue t.lpb.done

/-- TASK_RETIREMENT: a failed task once its gangs are gone, another once all have retired and its contributions are performed. -/
def execTaskRetirement (task : Nat) (s : State) : Out :=
  let t := taskAt s task
  if !t.active then .next s
  else if t.failed then .next (if (gangsOf s task).isEmpty && !contribsOut s task then finishTask s task else s)
  else if t.retired < gangCount t.lpb then .next s
  else
    let s1 := if t.contribs.isEmpty then s else applyContribs s task
    .next (if contribsOut s1 task then s1 else finishTask s1 task)

end Sys2Proof.Machine
end

