-- ==== Sys2Proof/Machine/Errors.lean ====
section
/-!
DEFINITION. Checked issue, the counting of errors, and the fencing of faulty units (spec/06 R154, R155, spec/15 R431 to R433, spec/16 R443).
-/

namespace Sys2Proof.Machine

/-! ## The gangs under a unit (R433) -/

/-- The gangs with a group, or their handler slot, in a partition. -/
def gangsOfPart (s : State) (core part : Nat) : List Nat :=
  (s.gangs.filter fun e => placedOn e.2 && ((e.2.hcore == core && e.2.hpart == part)
    || s.blocks.any fun b => b.1 / 32 == e.1 && b.2.used && b.2.core == core && b.2.parts.contains part)).map Prod.fst
/-- The gangs with a block, or their handler slot, on a core. -/
def gangsOfCore (s : State) (core : Nat) : List Nat :=
  (s.gangs.filter fun e => placedOn e.2 && (e.2.hcore == core
    || s.blocks.any fun b => b.1 / 32 == e.1 && b.2.used && b.2.core == core)).map Prod.fst
/-- The gangs placed on a cluster. -/
def gangsOfCluster (s : State) (cl : Nat) : List Nat := (s.gangs.filter fun e => placedOn e.2 && e.2.cluster == cl).map Prod.fst

/-- Removes gangs for a unit of a core. -/
def removeUnder (s : State) (core : Nat) (gs : List Nat) : State := gs.foldl (fun s g => removeGang s g (core + 1)) s

/-- A partition declared faulty at once (R155); one that is fenced and holds no gang any more is out of use. -/
def failPart (s : State) (core part : Nat) : State :=
  if (coreAt s core).fencedParts.contains part && (gangsOfPart s core part).isEmpty then s
  else
    let s1 := declareFaulty s 0 (core + part * 256)
    fencePart (removeUnder s1 core (gangsOfPart s1 core part)) core part
/-- A core declared faulty at once. -/
def failCore (s : State) (core : Nat) : State :=
  let s1 := declareFaulty s 1 core
  fenceCore (removeUnder s1 core (gangsOfCore s1 core)) core

/-! ## A Beacon unit or Lantern stage (R433) -/

/-- A cluster's entries pass to its partner's units: those in its Beacon unit wait again, those for its Lantern stage go on the partner's list. -/
def passEntries (s : State) (cl : Nat) : State :=
  let c := clusterAt s cl
  let p := clusterAt s (partnerOf cl)
  let late := c.lantern ++ (match c.inStage with | some r => [r] | none => [])
  let s1 := c.beacon.foldl (fun s r => setStage s r .waiting) s
  let s2 := late.foldl (fun s r => setStage s r .list) s1
  let s3 := setClusterAt s2 cl { clusterAt s2 cl with beacon := [], lantern := [], inStage := none, passOn := true }
  setClusterAt s3 (partnerOf cl) { p with lantern := p.lantern ++ late }

/-- A cluster's Beacon unit or Lantern stage declared faulty at once. Its entries pass to the partner's units; the gangs that hold them are killed
where the partner's are fenced, and with them those whose entries had passed here from the partner. -/
def failCluster (s : State) (cl : Nat) : State :=
  let s1 := declareFaulty s 2 cl
  let p := clusterAt s1 (partnerOf cl)
  let alone (t : State) : State := setClusterAt t cl { clusterAt t cl with passOn := true }
  let s2 := if p.passOn then alone (killHolders (killHolders s1 cl) (partnerOf cl))
    else if p.fenced then alone (killHolders s1 cl)
    else passEntries s1 cl
  fenceCluster (removeUnder s2 (cl * 16) (gangsOfCluster s2 cl)) cl

/-! ## UNCORRECTABLE_ERROR_IN_LOGIC (R432, R433) -/

/-- A unit's own logic fails, by the kinds of R443. A unit that is out of use already, fenced and with no gang under it, and a place that the part does
not have, change nothing; one that was fenced by counting has its gangs removed now. -/
def failUnit (s : State) (kind unit : Nat) : State :=
  match kind with
  | 0 =>
    if unit / 2048 ≠ 0 then s else failPart s (unit % 256) (unit / 256)
  | 1 => if unit / 256 ≠ 0 ∨ ((coreAt s unit).fenced ∧ gangsOfCore s unit = []) then s else failCore s unit
  | 2 => if unit / 16 ≠ 0 ∨ (clusterAt s unit).passOn ∨ ((clusterAt s unit).fenced ∧ gangsOfCluster s unit = [] ∧ entriesOf s unit = []) then s
         else failCluster s unit
  | k => if placeExists k unit then declareOnce s k unit else s

/-- UNCORRECTABLE_ERROR_IN_LOGIC. -/
def execUncorrectableErrorInLogic (kind : BitVec 4) (unit : BitVec 16) (s : State) : Out := .next (failUnit s kind.toNat unit.toNat)

/-! ## REPLAY (R154, R155, R432) -/

/-- Whether the engine of a core computes a K-step under mirror checking: an MMA or MMAS of a task with `MIRROR` there has a computing cell whose
mirror cell is idle (R336). -/
def mirrors (s : State) (core : Nat) : Bool :=
  s.blocks.any fun b => b.2.used && b.2.core == core && (taskAt s (gangAt s (b.1 / 32)).task).lpb.mirror
    && b.2.mat.queue.any fun w => w.resv && mirroredStep s (b.1 / 32) (b.1 % 32) w

/-- A replayed K-step (R336): a match is a transient of the core's engine, a second mismatch declares the engine faulty. -/
def replayMirror (s : State) (core : Nat) (matched : Bool) : State :=
  if !mirrors s core then s
  else if matched then
    let c := coreAt s core
    countEvent (setCoreAt s core { c with mirror := c.mirror + 1 }) 1 core matrixSub
  else if (coreAt s core).fenced ∧ (gangsOfCore s core).isEmpty then s
  else failCore s core

/-- A word under comparison: of the group of a key, a fixed-latency word or a flight. -/
inductive Compared where
  | pend (k : Nat) (p : Pend)
  | flight (k : Nat) (f : Flight)
deriving DecidableEq, Repr

/-- The words whose results a unit compares at this clock, the one before their write-back (R152 to R154): of a scalar unit, the scalar and
predicate words of every task; of a partition, the vector words of checked tasks, and their words of the special-function path and the divider. -/
def comparedWords (s : State) (core part : Nat) (scalar : Bool) : List Compared :=
  s.groups.flatMap fun e =>
    let gang := e.1 / 2048
    let blk := e.1 % 2048 / 64
    if coreOf s gang blk = core ∧ partOf s gang blk (e.1 % 64) = part ∧ (scalar ∨ (taskAt s (gangAt s gang).task).lpb.checked) then
      ((e.2.pend.filter fun p => p.lat != 0 && p.land == s.now + 1 && (p.lat == 2) == scalar).map (.pend e.1))
        ++ (if scalar then [] else (e.2.flights.filter fun f => f.lat != 0 && !f.written && decide (f.due ≤ s.now + 1)).map (.flight e.1))
    else []

/-- The replay that matches (R154): it issues in the next clock with all of its passes, its results are written L clocks after its issue clock, and its
group is frozen until then. -/
def replayed (s : State) : Compared → State
  | .pend k p =>
    let at_ := s.now + p.passes + p.lat
    let g := s.groups.get Group.vacant k
    { s with groups := s.groups.set Group.vacant k { g with frozen := at_, pend := g.pend.map fun q => if q = p then { p with land := at_ } else q } }
  | .flight k f =>
    let at_ := s.now + 1 + f.lat
    let g := s.groups.get Group.vacant k
    let h := { g with frozen := at_, flights := g.flights.map fun x => if x.id = f.id then { f with due := at_ } else x }
    { s with groups := s.groups.set Group.vacant k h }

/-- The group of a word under comparison. -/
def Compared.key : Compared → Nat
  | .pend k _ => k
  | .flight k _ => k

/-- A word whose replay fails writes nothing; its group executes it again when it resumes (R155, log entry 118). A handler group, which the removal of
its gang does not stop, executes it again at once. -/
def unwritten (s : State) (c : Compared) : State :=
  let g := s.groups.get Group.vacant c.key
  if g.handler then replayed s c
  else match c with
  | .pend k p => { s with groups := s.groups.set Group.vacant k { g with pend := g.pend.erase p, redo := g.redo ++ [p] } }
  | .flight k f =>
    let core := coreOf s (k / 2048) (k % 2048 / 64)
    let s1 := setCoreAt s core { coreAt s core with reserved := (coreAt s core).reserved - f.held }
    let h := lowerCounter (putFlight g f.id none) f.cnt
    { s1 with groups := s1.groups.set Group.vacant k { h with again := h.again ++ [f] } }

/-- REPLAY of a word that a unit compares: a match is a transient; a second mismatch declares the unit faulty at once, its gangs stopped before
their next word. Where the unit compares no word nothing can mismatch. `unit`: 0 to 7 a partition, 8 to 15 the scalar unit of partition n − 8, 16 the
core's matrix engine (R336); and which of the words that it compares, in the order of `comparedWords`. -/
def execReplay (core : Nat) (unit : Nat × Nat) (matched : Bool) (s : State) : Out :=
  let c := core % 256
  let p := unit.1 % 8
  .next (if 16 ≤ unit.1 then replayMirror s c matched
    else match (comparedWords s c p (unit.1 / 8 == 1))[unit.2]? with
      | none => s
      | some w =>
        if matched then countEvent (replayed s w) 0 (c + p * 256) (unit.1 / 8 * scalarSub)
        else failPart (unwritten s w) c p)

/-! ## Events that are only counted (R432) -/

/-- A corrected error in a unit's SRAM, or an uncorrectable one in data that is never consumed: the unit counts it. A place that the part does not
have changes nothing. -/
def execUnitEvent (kind unit sub : Nat) (s : State) : Out :=
  .next (countAt s kind unit sub)

end Sys2Proof.Machine
end

