-- ==== Sys2Proof/Machine/Manage.lean ====
section
/-!
DEFINITION. The management interface, attestation, bring-up, power and temperature (spec/19 R459 to R464, spec/15 R432, R433).
-/

namespace Sys2Proof.Machine

/-! ## Reads (R464) -/

/-- A mask with bit k set where `f k` holds, for k below n. -/
def bitSum (n : Nat) (f : Nat → Bool) : Nat := (List.range n).foldl (fun m k => if f k then m + 2 ^ k else m) 0

/-- The value of a register; none at an unknown offset. A register that is only written reads 0 (log entry 37). -/
def mgmtRead (s : State) (off : Nat) : Option Nat :=
  let m := s.mgmt
  if off % 8 ≠ 0 then none
  else if 0x200 ≤ off ∧ off ≤ 0x718 then
    some (Config.identityKey.toNat / 2 ^ (8 * (off - 0x200)) % 2 ^ 64)
  else if 0x0B0 ≤ off ∧ off ≤ 0x0C8 then some (bitSum 64 fun j => (coreAt s (64 * ((off - 0xB0) / 8) + j)).fenced)
  else if 0x100 ≤ off ∧ off ≤ 0x118 then
    let k := 2 * ((off - 0x100) / 8)
    some (((m.mnonce[k]?).getD 0).toNat + ((m.mnonce[k + 1]?).getD 0).toNat * 2 ^ 32)
  else
    match off with
    | 0x000 => some m.mstate
    | 0x008 => some m.mfail
    | 0x010 => some m.tqbase
    | 0x018 => some m.astbase
    | 0x020 => some m.orlog
    | 0x028 => some m.orsize
    | 0x030 => some m.lxbase
    | 0x038 => some m.lxsize
    | 0x040 => some m.dage
    | 0x048 => some m.pdrain
    | 0x050 => some m.pdlim
    | 0x058 => some m.saveent
    | 0x060 => some m.restent
    | 0x068 => some m.dbgctl
    | 0x070 => some m.fwcnt
    | 0x078 => some m.fwtime
    | 0x080 => some m.irqen
    | 0x088 => some m.linkerr
    | 0x090 => some m.pcap
    | 0x098 => some m.mrtask
    | 0x0A0 => some 0
    | 0x0A8 => some (bitSum 16 fun k => (clusterAt s k).fenced)
    | 0x0D0 => some m.fnpsel
    | 0x0D8 => some (bitSum 8 fun k => (coreAt s m.fnpsel).fencedParts.contains k)
    -- 0 until bring-up has found the memory (log entry 49)
    | 0x0E0 => some (if m.mstate = 2 then m.fnmem + (if m.fnmem = 0 then 576 else Config.usableMemory m.fnmem % 2 ^ 32) * 2 ^ 32 else 0)
    | 0x0E8 => some m.fnpeer
    | 0x0F0 => some m.mattaddr
    | 0x0F8 => some (if m.mattbusy then 1 else 0)
    | _ => none

/-! ## Writes (R464) -/

/-- Whether any queue is enabled, and whether any task is active: the moments at which some registers may not be written. -/
def anyQueueOn (s : State) : Bool := (List.range 64).any fun q => (readQueue s q).enabled
def anyActive (s : State) : Bool := s.tasks.any fun t => t.2.active

/-- The nonce words with register k replaced. -/
def putNonce (l : List W32) (k v : Nat) : List W32 :=
  l.mapIdx fun i x => if i = 2 * k then BitVec.ofNat 32 v else if i = 2 * k + 1 then BitVec.ofNat 32 (v / 2 ^ 32) else x

/-- The gang of a task with a sequence number that has a record. -/
def gangNamed (s : State) (task seq : Nat) : Option Nat := (gangsOf s task).find? fun g => (gangAt s g).seqNo == seq

/-- MREMOVE's effect (R421): a gang that does not run is ignored. -/
def removeNamed (s : State) (seq : Nat) : State :=
  match taskNamed s (s.mgmt.mrtask % 64) (s.mgmt.mrtask / 2 ^ 32) with
  | none => s
  | some t => match gangNamed s t seq with
    | none => s
    | some g => if (gangAt s g).phase = .removed then s else removeGang s g 0

/-- The effect of a write of value v; none where it is refused: an unknown offset, a register that only reads, a reserved bit, a value out of
range, a forbidden moment. -/
def mgmtWrite (s : State) (off v : Nat) : Option State :=
  let m := s.mgmt
  let put (ok : Bool) (m : Mgmt) : Option State := if ok then some { s with mgmt := m } else none
  if 0x100 ≤ off ∧ off ≤ 0x118 ∧ off % 8 = 0 then put (!m.mattbusy) { m with mnonce := putNonce m.mnonce ((off - 0x100) / 8) v }
  else
    match off with
    | 0x010 => put (!anyQueueOn s) { m with tqbase := v }
    | 0x018 => put (!anyActive s) { m with astbase := v }
    | 0x020 => put (!anyActive s) { m with orlog := v }
    | 0x028 => put (!anyActive s) { m with orsize := v }
    | 0x030 => put (!anyActive s) { m with lxbase := v }
    | 0x038 => put (!anyActive s) { m with lxsize := v }
    | 0x040 => put (decide (v < 256)) { m with dage := v }
    | 0x048 => put (decide (v < 256)) { m with pdrain := v }
    | 0x050 => put (decide (v < 65536)) { m with pdlim := v }
    | 0x058 => put true { m with saveent := v }
    | 0x060 => put true { m with restent := v }
    | 0x068 => put (decide (v < 2)) { m with dbgctl := v }
    | 0x070 => put (decide (2 ≤ v ∧ v < 256)) { m with fwcnt := v }
    | 0x078 => put (decide (1 ≤ v ∧ v < 65536)) { m with fwtime := v }
    | 0x080 => put (v / 64 == 0 && v % 4 == 0) { m with irqen := v }
    | 0x088 => put (decide (v < 2 ^ 32)) { m with linkerr := v }
    | 0x090 => put (decide (300 ≤ v ∧ v ≤ 2000)) { m with pcap := v }
    | 0x098 => put (v % 2 ^ 32 / 64 == 0) { m with mrtask := v }
    | 0x0A0 => if v < 2 ^ 28 then some (removeNamed s v) else none
    | 0x0D0 => put (decide (v < 256)) { m with fnpsel := v }
    | 0x0F0 => put true { m with mattaddr := v }
    | 0x0F8 => put (decide (v < 2) && !m.mattbusy) { m with mattbusy := v == 1 }
    | _ => none

/-- The `MGMTR` answer. -/
def mgmtAnswer (s : State) (tag stat flen v : Nat) : State := { s with outbox := s.outbox ++ [⟨0x86, stat, tag, flen, v, []⟩] }

/-- One management access: before the device is ready only a read of `MSTATE` is good (R460). -/
def mgmtAccess (s : State) (tag flen v : Nat) : State :=
  let off := flen % 4096
  if flen / 8192 ≠ 0 then mgmtAnswer s tag 1 flen 0
  else if flen / 4096 % 2 = 1 then
    match if s.mgmt.mstate = 2 then mgmtWrite s off v else none with
    | some s1 => mgmtAnswer s1 tag 0 flen 0
    | none => mgmtAnswer s tag 1 flen 0
  else
    match if s.mgmt.mstate = 2 ∨ off = 0 then mgmtRead s off else none with
    | some x => mgmtAnswer s tag 0 flen x
    | none => mgmtAnswer s tag 1 flen 0

/-- MGMT_WRITE: a management flit. -/
def execMgmtWrite (tag : BitVec 16) (flen : BitVec 32) (faddr : BitVec 64) (s : State) : Out :=
  .next (mgmtAccess s tag.toNat flen.toNat faddr.toNat)
/-- MREMOVE: a write of that register. -/
def execMremove (tag : BitVec 16) (faddr : BitVec 64) (s : State) : Out := .next (mgmtAccess s tag.toNat 0x10A0 faddr.toNat)
/-- MATTCMD: a write of that register. -/
def execMattcmd (tag : BitVec 16) (faddr : BitVec 64) (s : State) : Out := .next (mgmtAccess s tag.toNat 0x10F8 faddr.toNat)

/-! ## Attestation (R462) -/

/-- The fenced summary: clusters in [15:0], the number of cores in [24:16]. -/
def fencedSummary (s : State) : Nat :=
  bitSum 16 (fun k => (clusterAt s k).fenced) + (((List.range 256).filter fun c => (coreAt s c).fenced).length) * 2 ^ 16
/-- Bytes 0x000 to 0x06F: the digests and versions of the firmware and the microcode that bring-up has loaded. -/
def reportBody (s : State) : List Byte :=
  bytesOf 4 0x41545331 ++ bytesOf 4 1 ++ (s.mgmt.mnonce.flatMap fun w => bytesOf 4 w.toNat)
    ++ bytesOf 32 (sha3 s.boot.ranFw.bytes).toNat ++ bytesOf 32 (sha3 s.boot.ranMc.bytes).toNat
    ++ bytesOf 4 (s.boot.ranFw.version.toNat + s.boot.ranMc.version.toNat * 2 ^ 16) ++ bytesOf 4 (fencedSummary s)

/-- ATTESTATION_REPORT: the signed report is written, and busy clears. -/
def execAttestationReport (s : State) : Out :=
  if s.mgmt.mattbusy then
    let body := reportBody s
    let s1 := memPut s s.mgmt.mattaddr (body ++ keySignature Config.identityKey (sha3 body))
    .next { s1 with mgmt := { s1.mgmt with mattbusy := false } }
  else .next s

/-! ## Bring-up, power and temperature (R459, R460, R463) -/

/-- An image that step 2 of bring-up takes (R461): its key is the one whose digest is fused, its signature over the digest of its bytes is right under
that key, and its version is not below the fused minimum. -/
def imageOk (b : Boot) (x : Image) : Bool :=
  keyDigest x.key == fusedKeyDigest && signatureOk x.key (sha3 x.bytes) x.sig && decide (b.minVersion.toNat ≤ x.version.toNat)
/-- The step that fails, 0 for none: step 2 when an image is refused, unless step 1 fails, and else the one that the event names. -/
def failedStep (b : Boot) (k : Nat) : Nat := if k ≠ 1 ∧ !(imageOk b b.fw && imageOk b b.mc) then 2 else k

/-- What bring-up leaves when step k fails, 0 for none: a device in reset, where what was sent stays sent and channels to be fenced at the next reset are
fenced (R433). One that succeeds runs the images in the flash. -/
def bringUp (k : Nat) (s : State) : State :=
  let r := State.reset
  let s1 := { r with outbox := s.outbox, fresh := s.fresh, turns := s.turns, parkMask := s.parkMask, boot := s.boot }
  if k ≠ 0 then { s1 with mgmt := { r.mgmt with mstate := 3, mfail := k, hbmFaulty := s.mgmt.hbmFaulty ||| s.mgmt.fnmem } }
  else sendIntr { s1 with boot := { s.boot with ranFw := s.boot.fw, ranMc := s.boot.mc },
                          mgmt := { r.mgmt with mstate := 2, fnmem := s.mgmt.fnmem ||| s.mgmt.hbmFaulty } } 6 0 0
/-- POWER_GOOD: bring-up; `failed` is the failing step, 0 for none. A module outside its limits does not start (R459). -/
def execPowerGood (failed : BitVec 4) (s : State) : Out :=
  .next (if 5 < failed.toNat ∨ s.boot.outside then s else bringUp (failedStep s.boot failed.toNat) s)

/-- POWER_CAP: the average power exceeds the cap, and idle clocks are inserted: only time changes. -/
def execPowerCap (s : State) : Out := .next { s with gaps := true }
/-- AVERAGE_BELOW_PCAP. -/
def execAverageBelowPcap (s : State) : Out := .next { s with gaps := false }
/-- OUTLET_ABOVE_60: the same gaps. -/
def execOutletAbove60 (s : State) : Out := .next { s with hot := max s.hot 1 }
/-- OUTLET_BELOW_60. -/
def execOutletBelow60 (s : State) : Out := .next { s with hot := 0 }
/-- Whether idle issue clocks are inserted. -/
def gapsOn (s : State) : Bool := s.gaps || s.hot != 0

/-- The device stops issuing, raises class 5 for every cluster, and stops. -/
def shutDown (s : State) : State := { (List.range 16).foldl (fun s c => sendIntr s 5 2 c) s with off := true }
/-- OUTLET_ABOVE_70. -/
def execOutletAbove70 (s : State) : Out := .next (shutDown { s with hot := 2 })
/-- MODULE_LIMITS_EXCEEDED (R459): a running device shuts down, one that has stopped only stays so, and until the module is within its limits again none
starts. -/
def execModuleLimitsExceeded (s : State) : Out :=
  let s1 := { s with boot := { s.boot with outside := true } }
  .next (if s.mgmt.mstate = 2 ∧ s.off = false then shutDown s1 else { s1 with off := true })
/-- The verified firmware, which runs once the device is ready, raises the fused minimum; nothing lowers it (R461). -/
def raiseMinimum (s : State) (v : BitVec 16) : State :=
  if s.mgmt.mstate = 2 then { s with boot := { s.boot with minVersion := BitVec.ofNat 16 (max s.boot.minVersion.toNat v.toNat) } } else s

end Sys2Proof.Machine
end

