-- ==== Sys2Proof/Machine/Peer.lean ====
section
/-!
DEFINITION. Peer messages between announce and completion, and the completion events of the copy words (spec/11 R302, R307, R314, R317, R318,
spec/16 R444, R445).
-/

namespace Sys2Proof.Machine

/-! ## Messages of a port -/

/-- Whether a Tender takes part in a new match: its gang runs and it is not stopped (R318). -/
def peerReady (s : State) (m : PeerMsg) : Bool :=
  (gangAt s m.gang).phase == .running && (blockAt s m.gang m.blk).tnd.st != .stopped
/-- A matched message goes on while its Tender is being stopped (R318 step 4). -/
def peerRuns (s : State) (m : PeerMsg) : Bool := (gangAt s m.gang).phase == .running || (gangAt s m.gang).phase == .saving

/-- The first element of a list that satisfies a test is changed, or removed. -/
def changeFirst {α : Type} (f : α → Bool) (g : α → Option α) : List α → List α
  | [] => []
  | x :: r => if f x then (match g x with | some y => y :: r | none => r) else x :: changeFirst f g r

/-- Pairs the announces of a channel with its receives in issue order (R445 step 2): a receive that is paired is granted with its length. -/
def pairChannel (port chan : Nat) : Nat → State → State
  | 0, s => s
  | fuel + 1, s =>
    let p := portAt s port
    match p.announced.find? (fun a => a.chan == chan), p.recvs.find? (fun r => r.chan == chan && !r.granted) with
    | some a, some r =>
      if !r.announced || !peerReady s r then s
      else
        let s1 := setPortAt s port { p with
          announced := changeFirst (fun x => x.chan == chan) (fun _ => none) p.announced
          recvs := changeFirst (fun x => x.chan == chan && !x.granted) (fun x => some { x with granted := true, len := min a.len x.len }) p.recvs }
        pairChannel port chan fuel (sendPeer s1 0xE1 port chan r.len [])
    | _, _ => s

/-- ANNOUNCE (R445). -/
def execAnnounce (port : BitVec 4) (chan : BitVec 8) (len : BitVec 64) (s : State) : Out :=
  let p := portAt s port.toNat
  if p.inactive then .next s
  else
    let m : PeerMsg := ⟨chan.toNat, len.toNat, [], 0, 0, 0, true, false, 0, false⟩
    .next (pairChannel port.toNat chan.toNat 64 (setPortAt s port.toNat { p with announced := p.announced ++ [m] }))

/-! ## Records of peer words -/

/-- Whether a message belongs to record k of the Tender in focus. -/
def ownMsg (s : State) (k : Nat) (m : PeerMsg) : Bool := m.gang == s.cur.gang && m.blk == s.cur.blk && m.rec_ == k
/-- The port and channel of a peer word. -/
def portOf (r : CopyRec) : Nat := ((r.args[0]?).getD 0).toNat % 16
def chanOf (r : CopyRec) : Nat := ((r.args[0]?).getD 0).toNat / 16 % 256

/-- Changes the record's own message of a send or a receive. -/
def setMsg (s : State) (k : Nat) (r : CopyRec) (m : Option PeerMsg) : State :=
  let p := portAt s (portOf r)
  setPortAt s (portOf r) (if r.op = 0x23 then { p with sends := changeFirst (ownMsg s k) (fun _ => m) p.sends }
                          else { p with recvs := changeFirst (ownMsg s k) (fun _ => m) p.recvs })
def msgOf (s : State) (k : Nat) (r : CopyRec) : Option PeerMsg :=
  let p := portAt s (portOf r)
  (if r.op = 0x23 then p.sends else p.recvs).find? (ownMsg s k)

/-- The messages of the channel that were issued before the record's own, and are not complete. -/
def msgsAhead (s : State) (k : Nat) (r : CopyRec) : List PeerMsg :=
  let p := portAt s (portOf r)
  ((if r.op = 0x23 then p.sends else p.recvs).takeWhile fun x => !ownMsg s k x).filter fun x => x.chan == chanOf r

/-- The message of a record is complete: its event carries the bytes written. -/
def completeMsg (s : State) (k : Nat) (r : CopyRec) (m : PeerMsg) : State :=
  setRec (setMsg s k r none) k (some { r with prog := r.count, moved := m.len })

/-- The data flits of a message, 224 bytes each. -/
def dataFlits (port chan : Nat) : Nat → List Byte → State → State
  | 0, _, s => s
  | fuel + 1, bs, s =>
    if bs.isEmpty then s else dataFlits port chan fuel (bs.drop 224) (sendPeer s 0xE2 port chan (min 224 bs.length) (bs.take 224))

/-- Reads the elements of a granted send that are left; the state holds what is read when a fault or a wait ends it. -/
def sendElems (k z : Nat) (r : CopyRec) : Nat → PeerMsg → State → State
  | 0, m, s =>
    let s1 := dataFlits (portOf r) m.chan (m.len / 224 + 1) (m.data.take m.len) s
    setMsg s1 k r (some { m with data := [], sent := true })
  | n + 1, m, s =>
    match globalElem s .read .read false (elemAddr r.desc z (r.args.drop 1) m.done) z with
    | .error f => copyFault (setMsg s k r (some m)) k r { f with prog := m.done }
    | .ok (a, s1) =>
      match readElems s1 k z [a] with
      | .poison a => tenderConsumed s1 r.idx (accessFault 0x31 .read 0 a.va)
      | .wait s2 => setMsg s2 k r (some m)
      | .ok bs s2 => sendElems k z r n { m with data := m.data ++ bs, done := m.done + 1 } s2

/-- Writes the received bytes of a message in box order, element by element; a completion flit follows the last, once the messages before it on
its channel are complete. -/
def recvElems (k z : Nat) (r : CopyRec) : Nat → PeerMsg → State → State
  | 0, m, s => setMsg s k r (some m)
  | n + 1, m, s =>
    let w := min z (m.len - m.done)
    if m.done = m.len then
      if (msgsAhead s k r).isEmpty then completeMsg (sendPeer s 0xE3 (portOf r) m.chan m.len []) k r m else setMsg s k r (some m)
    else if m.data.length < w then setMsg s k r (some m)
    else if writeBehind s r.seq (elemFoot s r (m.done / z)) then setMsg s k r (some m)
    else
      match globalElem s .write .write false (elemAddr r.desc z (r.args.drop 1) (m.done / z)) z with
      | .error f => copyFault (setMsg s k r (some m)) k r { f with prog := m.done / z }
      | .ok (a, s1) =>
        if !tenderRoom s1 1 then setMsg s1 k r (some m)
        else recvElems k z r n { m with data := m.data.drop w, done := m.done + w } (writeElems k w [a] m.data s1)

/-- What a peer word that is in flight can do: announce or post again after a failed port, send what is granted, write what has come. Announces and
data leave in the issue order of their channel. -/
def peerStep (s : State) (k : Nat) (r : CopyRec) : State :=
  let z := descrSize (curTask s) r.desc
  match msgOf s k r with
  | none => s
  | some m =>
    if !m.announced then
      if !tenderMoves s then s
      else if (portAt s (portOf r)).inactive then copyFault s k r (FaultInfo.plain 0x18)
      else if r.op = 0x23 ∧ (msgsAhead s k r).any fun x => !x.announced then s
      else
        let len := descrBytes (curTask s) r.desc
        let s1 := setMsg s k r (some { m with announced := true, len := len })
        if r.op = 0x23 then sendPeer (closeWindow s1 s.cur.gang) 0xE0 (portOf r) m.chan len [] else pairChannel (portOf r) m.chan 64 s1
    else if !m.granted then if r.op = 0x24 then pairChannel (portOf r) m.chan 64 s else s
    else if !peerRuns s m then s
    else if r.op = 0x23 then
      if m.sent || (msgsAhead s k r).any fun x => !x.sent then s else sendElems k z r ((m.len + z - 1) / z - m.done) m s
    else recvElems k z r (m.len - m.done + 1) m s

/-! ## Completion of copy words -/

/-- A faulting word goes on from its progress once the Tender runs, the oldest first (R317). -/
def unstick (s : State) (r : CopyRec) : CopyRec := if faultTurn s r then { r with stuck := false } else r
/-- The fault that a word has kept, whose turn to be reported has come. -/
def lateReport (s : State) (r : CopyRec) : Option FaultInfo := if r.stuck && faultTurn s r then r.fault else none

/-- COPY_WORD_COMPLETE (R302): elements, finish transitions and the event, as far as they go. A looping copy completes when its last
iteration does. -/
def execCopyWordComplete (gang blk k : Nat) (s0 : State) : Out :=
  let s := { s0 with cur := ⟨gang, blk, 0⟩ }
  match recAt s k with
  | none => .next s0
  | some r0 =>
    let r := kvSized s (unstick s r0)
    match lateReport s r0 with
    | some f => .next (copyFault s k r0 f)
    | none =>
    if r.stuck || tenderIdle s then .next s
    else match r.loop with
      | some l => .next (if l.n ≤ l.next ∧ l.live.isEmpty then setRec s k none else s)
      | none =>
        if r.op = 0x23 ∨ r.op = 0x24 then .next (if r.prog < r.count then peerStep (setRec s k (some r)) k r else endRecord s k r)
        else if r.prog < r.count then .next (if tenderMoves s then (runRecord s k r).2 else stopElem s k r fun e => { r with prog := e })
        else .next (endRecord s k r)

/-- The FULL transition of the oldest iteration in flight, whose bytes have landed; iterations finish in order. -/
def finishIteration (s : State) (k : Nat) (r : CopyRec) (l : LoopRec) (j : Nat) : State :=
  let x := (s.cur.blk, dHnd r.desc + j % l.ring, hsFull)
  if finishWaits s s.cur.gang r.seq x then s
  else match transition (handleAt (curBlock s) x.2.1) hsFull .tender with
    | none => copyFault s k r { FaultInfo.plain 0x0B with prog := j }
    | some e => setRec (moveHandle s s.cur.gang s.cur.blk x.2.1 e) k (some { r with loop := some { l with live := l.live.tail } })

/-- Moves what is left of the oldest iteration in flight, at progress p. -/
def runIteration (s : State) (k : Nat) (r : CopyRec) (l : LoopRec) (j p : Nat) : State :=
  let v := iterView r l j p
  let at_ (e : Nat) : CopyRec := { r with loop := some { l with live := (j, e) :: l.live.tail } }
  match copyElems k v (r.count - p) p s with
  | (.ok s1, e) => setRec s1 k (some (at_ e))
  | (.wait s1, e) => setRec s1 k (some (at_ e))
  | (.dead s1, _) => s1
  | (.flt f, e) =>
    match copyElems k v (e - p) p s with
    | (.ok s1, _) => copyFault s1 k (at_ e) { f with prog := j }
    | (_, _) => s

/-- TCOPYL_ITERATION (R307): the next iteration begins when its stage is FREE; else the oldest in flight goes FULL once its bytes have landed, or
moves them. A stopped Tender begins and moves nothing (R318). -/
def execTcopylIteration (gang blk k : Nat) (s0 : State) : Out :=
  let s := { s0 with cur := ⟨gang, blk, 0⟩ }
  match recAt s k with
  | none => .next s0
  | some r0 =>
    let r := unstick s r0
    match lateReport s r0, r.loop with
    | some f, _ => .next (copyFault s k r0 f)
    | none, none => .next s
    | none, some l =>
      if r.stuck || tenderIdle s then .next s
      else match if tenderMoves s then iterStart s gang blk r l else .wait with
        | .flt f => .next (copyFault s k r f)
        | .go e => .next (beginIteration s gang blk k r l e)
        | .wait =>
          match l.live with
          | [] => .next s
          | (j, p) :: _ =>
            .next (if r.count ≤ p then finishIteration s k r l j
              else if tenderMoves s then runIteration s k r l j p
              else stopElem s k (iterView r l j p) fun e => { r with loop := some { l with live := (j, e) :: l.live.tail } })

/-! ## Peer events (R445) -/

/-- Puts the Tender word of a message in focus and lets it go on. -/
def runMsg (s : State) (m : PeerMsg) : State :=
  let s1 := { s with cur := ⟨m.gang, m.blk, 0⟩ }
  match recAt s1 m.rec_ with
  | some r => if r.stuck || tenderIdle s1 then s1 else peerStep s1 m.rec_ r
  | none => s1

/-- GRANT: the oldest ungranted send of the channel has min(Ls, Lr) bytes to send. -/
def execGrant (port : BitVec 4) (chan : BitVec 8) (len : BitVec 64) (s : State) : Out :=
  let p := portAt s port.toNat
  let waits (m : PeerMsg) : Bool := m.chan == chan.toNat && m.announced && !m.granted
  match p.sends.find? waits with
  | none => .next s
  | some m =>
    let m1 := { m with granted := true, len := min m.len len.toNat, done := 0, data := [], sent := false }
    .next (runMsg (setPortAt s port.toNat { p with sends := changeFirst waits (fun _ => some m1) p.sends }) m1)

/-- PEER_DATA: 224 bytes at most for the oldest granted receive of the channel. -/
def execPeerData (port : BitVec 4) (chan : BitVec 8) (data : BitVec 1792) (s : State) : Out :=
  let p := portAt s port.toNat
  let mine (m : PeerMsg) : Bool := m.chan == chan.toNat && m.granted && decide (m.done + m.data.length < m.len)
  match p.recvs.find? mine with
  | none => .next s
  | some m =>
    let n := min 224 (m.len - m.done - m.data.length)
    let m1 := { m with data := m.data ++ (List.range n).map fun j => BitVec.ofNat 8 (bitsOf data (8 * j) 8) }
    .next (runMsg (setPortAt s port.toNat { p with recvs := changeFirst mine (fun _ => some m1) p.recvs }) m1)

/-- PEER_COMPLETION: the oldest send of the channel whose bytes have all left completes. -/
def execPeerCompletion (port : BitVec 4) (chan : BitVec 8) (s : State) : Out :=
  let p := portAt s port.toNat
  match p.sends.find? fun m => m.chan == chan.toNat && m.sent with
  | none => .next s
  | some m =>
    let s1 := { s with cur := ⟨m.gang, m.blk, 0⟩ }
    match recAt s1 m.rec_ with
    | some r => .next (completeMsg s1 m.rec_ r m)
    | none => .next (setPortAt s port.toNat { p with sends := p.sends.erase m })

/-- A message that the port loses (R445): its word is suspended, and announces or receives again from its start when it is released. -/
def loseMsg (s : State) (m : PeerMsg) : State :=
  let s1 := { s with cur := ⟨m.gang, m.blk, 0⟩ }
  match recAt s1 m.rec_ with
  | none => s1
  | some r =>
    copyFault (setMsg s1 m.rec_ r (some { m with announced := false, granted := false, done := 0, data := [], sent := false })) m.rec_ r (FaultInfo.plain 0x18)

/-- PORT_INACTIVE: the messages in flight are those announced by a send, and the receives that are granted. -/
def execPortInactive (port : BitVec 4) (s : State) : Out :=
  let p := portAt s port.toNat
  if p.inactive then .next s
  else
    let s1 := setPortAt s port.toNat { p with inactive := true, announced := [] }
    .next ((p.sends.filter PeerMsg.announced ++ p.recvs.filter PeerMsg.granted).foldl loseMsg s1)

/-- PORT_ACTIVE (R444). -/
def execPortActive (port : BitVec 4) (s : State) : Out :=
  .next (setPortAt s port.toNat { portAt s port.toNat with inactive := false })

end Sys2Proof.Machine
end

