-- ==== Sys2Proof/Machine/Predicate.lean ====
section
/-!
DEFINITION. Predicate words (R194 to R196): logic on whole masks, moves to and from s registers, and the predicate stack.
-/

namespace Sys2Proof.Machine

/-- pd = f(pa, pb), predicate latency. -/
def predBinary (i : Instr) (f : W32 → W32 → W32) (pd pa pb : BitVec 4) (s : State) : Out :=
  issue (wordOf s i)
    (fun s =>
      let g := curGroup s
      fixedResult s 2 [.p pd.toNat (f (readP g pa.toNat) (readP g pb.toNat))] 0) s

/-- pd = f(pa). -/
def predUnary (i : Instr) (f : W32 → W32) (pd pa : BitVec 4) (s : State) : Out :=
  issue (wordOf s i)
    (fun s => fixedResult s 2 [.p pd.toNat (f (readP (curGroup s) pa.toNat))] 0) s

/-- pd = f(s). -/
def predFrom (i : Instr) (f : W32 → W32) (pd : BitVec 4) (src : BitVec 9) (s : State) : Out :=
  issue (wordOf s i)
    (fun s => fixedResult s 2 [.p pd.toNat (f (readS (curGroup s) src.toNat))] 0) s

/-- s = f(pa). -/
def predTo (i : Instr) (f : W32 → W32) (sd : BitVec 9) (pa : BitVec 4) (s : State) : Out :=
  issue (wordOf s i)
    (fun s => fixedResult s 2 [.s sd.toNat (f (readP (curGroup s) pa.toNat))] 0) s

/-- The lowest one bit of a mask, 32 when there is none (R194). -/
def lowestBit (m : W32) : Nat := ((List.range 32).find? fun l => m.getLsbD l).getD 32

/-- PAND (R194). -/
def execPand (pd pa pb : BitVec 4) (s : State) : Out :=
  predBinary (.pand pd pa pb) (fun a b => a &&& b) pd pa pb s

/-- POR (R194). -/
def execPor (pd pa pb : BitVec 4) (s : State) : Out :=
  predBinary (.por pd pa pb) (fun a b => a ||| b) pd pa pb s

/-- PXOR (R194). -/
def execPxor (pd pa pb : BitVec 4) (s : State) : Out :=
  predBinary (.pxor pd pa pb) (fun a b => a ^^^ b) pd pa pb s

/-- PNOT (R194). -/
def execPnot (pd pa : BitVec 4) (s : State) : Out :=
  predUnary (.pnot pd pa) (fun a => ~~~ a) pd pa s

/-- PMOV (R194). -/
def execPmov (pd pa : BitVec 4) (s : State) : Out :=
  predUnary (.pmov pd pa) (fun a => a) pd pa s

/-- PSETS (R194). -/
def execPsets (pd : BitVec 4) (src : BitVec 9) (s : State) : Out :=
  predFrom (.psets pd src) (fun a => a) pd src s

/-- PLANE (R194). -/
def execPlane (pd : BitVec 4) (src : BitVec 9) (s : State) : Out :=
  predFrom (.plane pd src) (fun a => if a.toNat < 32 then BitVec.ofNat 32 (2 ^ a.toNat) else 0) pd src s

/-- PGETS (R194). -/
def execPgets (sd : BitVec 9) (pa : BitVec 4) (s : State) : Out :=
  predTo (.pgets sd pa) (fun a => a) sd pa s

/-- PCNT (R194). -/
def execPcnt (sd : BitVec 9) (pa : BitVec 4) (s : State) : Out :=
  predTo (.pcnt sd pa) (fun a => BitVec.ofNat 32 (popCount 32 a.toNat)) sd pa s

/-- PFFS (R194). -/
def execPffs (sd : BitVec 9) (pa : BitVec 4) (s : State) : Out :=
  predTo (.pffs sd pa) (fun a => BitVec.ofNat 32 (lowestBit a)) sd pa s

/-- PPUSH (R195): a predicate-stack fault at depth 8. `PSDEPTH` follows with predicate latency; the stack itself is the control thread's, so the
next push or pop finds the new depth (log entry 46). -/
def execPpush (pa : BitVec 4) (s : State) : Out :=
  issue (wordOf s (.ppush pa))
    (fun s =>
      let g := curGroup s
      if 8 ≤ g.depth then .flt (FaultInfo.plain 0x08)
      else
        let g1 := { g with stk := g.stk.set 0 g.depth (readP g pa.toNat), depth := g.depth + 1 }
        fixedResult (setCurGroup s g1) 2 [.psd (g.depth + 1)] 0) s

/-- PPOP (R195): a predicate-stack fault at depth 0; the entry stays above the new depth (R184). -/
def execPpop (pd : BitVec 4) (s : State) : Out :=
  issue (wordOf s (.ppop pd))
    (fun s =>
      let g := curGroup s
      if g.depth = 0 then .flt (FaultInfo.plain 0x08)
      else
        let x := g.stk.get 0 (g.depth - 1)
        fixedResult (setCurGroup s { g with depth := g.depth - 1 }) 2 [.p pd.toNat x, .psd (g.depth - 1)] 0) s

end Sys2Proof.Machine
end

