-- ==== Sys2Proof/Machine/Dispatch.lean ====
section
/-!
DEFINITION. One arm per instruction: the call of its meaning.
-/

namespace Sys2Proof.Machine

/-- The meaning of an instruction. -/
def exec (i : Instr) (s : State) : Host.Outcome State Fault Refusal :=
  match i with
  | .nop => Sys2Proof.Machine.execNop s
  | .stop => Sys2Proof.Machine.execStop s
  | .br off => Sys2Proof.Machine.execBr off s
  | .brc cond off => Sys2Proof.Machine.execBrc cond off s
  | .pbr p test off => Sys2Proof.Machine.execPbr p test off s
  | .call off => Sys2Proof.Machine.execCall off s
  | .ret => Sys2Proof.Machine.execRet s
  | .jmpr sa => Sys2Proof.Machine.execJmpr sa s
  | .loops sc last => Sys2Proof.Machine.execLoops sc last s
  | .yield => Sys2Proof.Machine.execYield s
  | .setm field value => Sys2Proof.Machine.execSetm field value s
  | .setmReg field src => Sys2Proof.Machine.execSetmReg field src s
  | .setmr sa => Sys2Proof.Machine.execSetmr sa s
  | .getm sd => Sys2Proof.Machine.execGetm sd s
  | .rdsr sd num => Sys2Proof.Machine.execRdsr sd num s
  | .wrsr sd num => Sys2Proof.Machine.execWrsr sd num s
  | .trap imm => Sys2Proof.Machine.execTrap imm s
  | .hostCallRecord => Sys2Proof.Machine.execHostCallRecord s
  | .bkpt imm => Sys2Proof.Machine.execBkpt imm s
  | .eret => Sys2Proof.Machine.execEret s
  | .xsel sa => Sys2Proof.Machine.execXsel sa s
  | .xrv own target => Sys2Proof.Machine.execXrv own target s
  | .xwv own target => Sys2Proof.Machine.execXwv own target s
  | .xrs sd idx space => Sys2Proof.Machine.execXrs sd idx space s
  | .xws sd idx space => Sys2Proof.Machine.execXws sd idx space s
  | .sadd sd sa pair => Sys2Proof.Machine.execSadd sd sa pair s
  | .ssub sd sa pair => Sys2Proof.Machine.execSsub sd sa pair s
  | .smul sd sa pair => Sys2Proof.Machine.execSmul sd sa pair s
  | .smulh sd sa pair => Sys2Proof.Machine.execSmulh sd sa pair s
  | .smulhn sd sa pair => Sys2Proof.Machine.execSmulhn sd sa pair s
  | .sdiv sd sa pair => Sys2Proof.Machine.execSdiv sd sa pair s
  | .sdivn sd sa pair => Sys2Proof.Machine.execSdivn sd sa pair s
  | .srem sd sa pair => Sys2Proof.Machine.execSrem sd sa pair s
  | .sremn sd sa pair => Sys2Proof.Machine.execSremn sd sa pair s
  | .sand sd sa pair => Sys2Proof.Machine.execSand sd sa pair s
  | .sor sd sa pair => Sys2Proof.Machine.execSor sd sa pair s
  | .sxor sd sa pair => Sys2Proof.Machine.execSxor sd sa pair s
  | .sshl sd sa pair => Sys2Proof.Machine.execSshl sd sa pair s
  | .sshr sd sa pair => Sys2Proof.Machine.execSshr sd sa pair s
  | .ssar sd sa pair => Sys2Proof.Machine.execSsar sd sa pair s
  | .smin sd sa pair => Sys2Proof.Machine.execSmin sd sa pair s
  | .smax sd sa pair => Sys2Proof.Machine.execSmax sd sa pair s
  | .sminn sd sa pair => Sys2Proof.Machine.execSminn sd sa pair s
  | .smaxn sd sa pair => Sys2Proof.Machine.execSmaxn sd sa pair s
  | .smov sd sa pair => Sys2Proof.Machine.execSmov sd sa pair s
  | .snot sd sa pair => Sys2Proof.Machine.execSnot sd sa pair s
  | .sneg sd sa pair => Sys2Proof.Machine.execSneg sd sa pair s
  | .sclz sd sa pair => Sys2Proof.Machine.execSclz sd sa pair s
  | .spopc sd sa pair => Sys2Proof.Machine.execSpopc sd sa pair s
  | .scmp sd sa pair => Sys2Proof.Machine.execScmp sd sa pair s
  | .scmpn sd sa pair => Sys2Proof.Machine.execScmpn sd sa pair s
  | .saddi sd imm => Sys2Proof.Machine.execSaddi sd imm s
  | .smovi sd imm => Sys2Proof.Machine.execSmovi sd imm s
  | .slit sd => Sys2Proof.Machine.execSlit sd s
  | .saddc sd sa pair => Sys2Proof.Machine.execSaddc sd sa pair s
  | .ssubb sd sa pair => Sys2Proof.Machine.execSsubb sd sa pair s
  | .ssel sd sa pair cond => Sys2Proof.Machine.execSsel sd sa pair cond s
  | .pand pd pa pb => Sys2Proof.Machine.execPand pd pa pb s
  | .por pd pa pb => Sys2Proof.Machine.execPor pd pa pb s
  | .pxor pd pa pb => Sys2Proof.Machine.execPxor pd pa pb s
  | .pnot pd pa => Sys2Proof.Machine.execPnot pd pa s
  | .pmov pd pa => Sys2Proof.Machine.execPmov pd pa s
  | .psets pd src => Sys2Proof.Machine.execPsets pd src s
  | .pgets sd pa => Sys2Proof.Machine.execPgets sd pa s
  | .pcnt sd pa => Sys2Proof.Machine.execPcnt sd pa s
  | .pffs sd pa => Sys2Proof.Machine.execPffs sd pa s
  | .plane pd src => Sys2Proof.Machine.execPlane pd src s
  | .ppush pa => Sys2Proof.Machine.execPpush pa s
  | .ppop pd => Sys2Proof.Machine.execPpop pd s
  | .vadd vd va vb => Sys2Proof.Machine.execVadd vd va vb s
  | .vsub vd va vb => Sys2Proof.Machine.execVsub vd va vb s
  | .vmul vd va vb => Sys2Proof.Machine.execVmul vd va vb s
  | .vmulh vd va vb => Sys2Proof.Machine.execVmulh vd va vb s
  | .vmad vd va vb => Sys2Proof.Machine.execVmad vd va vb s
  | .vand vd va vb => Sys2Proof.Machine.execVand vd va vb s
  | .vor vd va vb => Sys2Proof.Machine.execVor vd va vb s
  | .vxor vd va vb => Sys2Proof.Machine.execVxor vd va vb s
  | .vnot vd va => Sys2Proof.Machine.execVnot vd va s
  | .vshl vd va vb => Sys2Proof.Machine.execVshl vd va vb s
  | .vshr vd va vb => Sys2Proof.Machine.execVshr vd va vb s
  | .vmin vd va vb => Sys2Proof.Machine.execVmin vd va vb s
  | .vmax vd va vb => Sys2Proof.Machine.execVmax vd va vb s
  | .vabs vd va => Sys2Proof.Machine.execVabs vd va s
  | .vclz vd va => Sys2Proof.Machine.execVclz vd va s
  | .vpopc vd va => Sys2Proof.Machine.execVpopc vd va s
  | .vsel vd va vb => Sys2Proof.Machine.execVsel vd va vb s
  | .vmov vd va => Sys2Proof.Machine.execVmov vd va s
  | .vbcast vd src => Sys2Proof.Machine.execVbcast vd src s
  | .vlane vd => Sys2Proof.Machine.execVlane vd s
  | .vshfl vd va vb => Sys2Proof.Machine.execVshfl vd va vb s
  | .vrot vd va imm => Sys2Proof.Machine.execVrot vd va imm s
  | .vscan vd va op => Sys2Proof.Machine.execVscan vd va op s
  | .vred vd va op => Sys2Proof.Machine.execVred vd va op s
  | .vcmp pd cond va vb => Sys2Proof.Machine.execVcmp pd cond va vb s
  | .vpack vd va vb => Sys2Proof.Machine.execVpack vd va vb s
  | .vunpk vd va k => Sys2Proof.Machine.execVunpk vd va k s
  | .vhash vd va => Sys2Proof.Machine.execVhash vd va s
  | .vxtr sd va lane => Sys2Proof.Machine.execVxtr sd va lane s
  | .vins vd src lane => Sys2Proof.Machine.execVins vd src lane s
  | .vfadd vd va vb => Sys2Proof.Machine.execVfadd vd va vb s
  | .vfsub vd va vb => Sys2Proof.Machine.execVfsub vd va vb s
  | .vfmul vd va vb => Sys2Proof.Machine.execVfmul vd va vb s
  | .vfmulz vd va vb => Sys2Proof.Machine.execVfmulz vd va vb s
  | .vfma vd va vb => Sys2Proof.Machine.execVfma vd va vb s
  | .vfms vd va vb => Sys2Proof.Machine.execVfms vd va vb s
  | .vfnma vd va vb => Sys2Proof.Machine.execVfnma vd va vb s
  | .vfdiv vd va vb => Sys2Proof.Machine.execVfdiv vd va vb s
  | .vfsqrt vd va => Sys2Proof.Machine.execVfsqrt vd va s
  | .vfrsq vd va => Sys2Proof.Machine.execVfrsq vd va s
  | .vfrcp vd va => Sys2Proof.Machine.execVfrcp vd va s
  | .vfexp vd va => Sys2Proof.Machine.execVfexp vd va s
  | .vfexp2 vd va => Sys2Proof.Machine.execVfexp2 vd va s
  | .vfexpm1 vd va => Sys2Proof.Machine.execVfexpm1 vd va s
  | .vflog vd va => Sys2Proof.Machine.execVflog vd va s
  | .vflog2 vd va => Sys2Proof.Machine.execVflog2 vd va s
  | .vflog1p vd va => Sys2Proof.Machine.execVflog1p vd va s
  | .vfsin vd va => Sys2Proof.Machine.execVfsin vd va s
  | .vfcos vd va => Sys2Proof.Machine.execVfcos vd va s
  | .vftan vd va => Sys2Proof.Machine.execVftan vd va s
  | .vfatan vd va => Sys2Proof.Machine.execVfatan vd va s
  | .vfatan2 vd va vb => Sys2Proof.Machine.execVfatan2 vd va vb s
  | .vftanh vd va => Sys2Proof.Machine.execVftanh vd va s
  | .vferf vd va => Sys2Proof.Machine.execVferf vd va s
  | .vfpow vd va vb => Sys2Proof.Machine.execVfpow vd va vb s
  | .vfhyp vd va vb => Sys2Proof.Machine.execVfhyp vd va vb s
  | .vfmin vd va vb => Sys2Proof.Machine.execVfmin vd va vb s
  | .vfmax vd va vb => Sys2Proof.Machine.execVfmax vd va vb s
  | .vfabs vd va => Sys2Proof.Machine.execVfabs vd va s
  | .vfneg vd va => Sys2Proof.Machine.execVfneg vd va s
  | .vfcps vd va vb => Sys2Proof.Machine.execVfcps vd va vb s
  | .vfrnd vd va => Sys2Proof.Machine.execVfrnd vd va s
  | .vftoi vd va imm => Sys2Proof.Machine.execVftoi vd va imm s
  | .vitof vd va imm => Sys2Proof.Machine.execVitof vd va imm s
  | .vfcvt vd va imm => Sys2Proof.Machine.execVfcvt vd va imm s
  | .vfqnt vd va vb => Sys2Proof.Machine.execVfqnt vd va vb s
  | .vfdq vd va vb => Sys2Proof.Machine.execVfdq vd va vb s
  | .vfcls vd va => Sys2Proof.Machine.execVfcls vd va s
  | .vfcmp pd cond va vb => Sys2Proof.Machine.execVfcmp pd cond va vb s
  | .vfsmx vd va vb => Sys2Proof.Machine.execVfsmx vd va vb s
  | .vfssq vd va => Sys2Proof.Machine.execVfssq vd va s
  | .vfred vd va op => Sys2Proof.Machine.execVfred vd va op s
  | .vfscan vd va op => Sys2Proof.Machine.execVfscan vd va op s
  | .vfrot vd va vb => Sys2Proof.Machine.execVfrot vd va vb s
  | .vfldx vd va vb => Sys2Proof.Machine.execVfldx vd va vb s
  | .vffrx vd va sel => Sys2Proof.Machine.execVffrx vd va sel s
  | .vfrem vd va vb => Sys2Proof.Machine.execVfrem vd va vb s
  | .ld v va n scope => Sys2Proof.Machine.execLd v va n scope s
  | .ldf v va n scope => Sys2Proof.Machine.execLdf v va n scope s
  | .ldd v va n scope => Sys2Proof.Machine.execLdd v va n scope s
  | .lda v va n scope => Sys2Proof.Machine.execLda v va n scope s
  | .st v va n scope => Sys2Proof.Machine.execSt v va n scope s
  | .stnt v va n scope => Sys2Proof.Machine.execStnt v va n scope s
  | .std v va n scope => Sys2Proof.Machine.execStd v va n scope s
  | .stl v va n scope => Sys2Proof.Machine.execStl v va n scope s
  | .drainnt => Sys2Proof.Machine.execDrainnt s
  | .fence scope => Sys2Proof.Machine.execFence scope s
  | .aadd v va n scope => Sys2Proof.Machine.execAadd v va n scope s
  | .afadd v va n scope => Sys2Proof.Machine.execAfadd v va n scope s
  | .amin v va n scope => Sys2Proof.Machine.execAmin v va n scope s
  | .amax v va n scope => Sys2Proof.Machine.execAmax v va n scope s
  | .aand v va n scope => Sys2Proof.Machine.execAand v va n scope s
  | .aor v va n scope => Sys2Proof.Machine.execAor v va n scope s
  | .axor v va n scope => Sys2Proof.Machine.execAxor v va n scope s
  | .axchg v va n scope => Sys2Proof.Machine.execAxchg v va n scope s
  | .acas v va n scope => Sys2Proof.Machine.execAcas v va n scope s
  | .ldb v va h => Sys2Proof.Machine.execLdb v va h s
  | .stb v va h => Sys2Proof.Machine.execStb v va h s
  | .abadd v va h => Sys2Proof.Machine.execAbadd v va h s
  | .abcas v va h => Sys2Proof.Machine.execAbcas v va h s
  | .ldc v va h => Sys2Proof.Machine.execLdc v va h s
  | .stc v va h => Sys2Proof.Machine.execStc v va h s
  | .pref va n scope => Sys2Proof.Machine.execPref va n scope s
  | .ldkv v va src => Sys2Proof.Machine.execLdkv v va src s
  | .stkv v va src => Sys2Proof.Machine.execStkv v va src s
  | .kvmap sd sa => Sys2Proof.Machine.execKvmap sd sa s
  | .kvfork sd sa => Sys2Proof.Machine.execKvfork sd sa s
  | .kvdrop sd sa => Sys2Proof.Machine.execKvdrop sd sa s
  | .kvinfo sd sa => Sys2Proof.Machine.execKvinfo sd sa s
  | .bar b => Sys2Proof.Machine.execBar b s
  | .bara b => Sys2Proof.Machine.execBara b s
  | .barw b => Sys2Proof.Machine.execBarw b s
  | .gbar g mode => Sys2Proof.Machine.execGbar g mode s
  | .hwait h st ph => Sys2Proof.Machine.execHwait h st ph s
  | .hset h st => Sys2Proof.Machine.execHset h st s
  | .wait vmc bfc sfc => Sys2Proof.Machine.execWait vmc bfc sfc s
  | .evpop sd poll => Sys2Proof.Machine.execEvpop sd poll s
  | .qpush sd sa => Sys2Proof.Machine.execQpush sd sa s
  | .qpop sd sa => Sys2Proof.Machine.execQpop sd sa s
  | .mwatch sa => Sys2Proof.Machine.execMwatch sa s
  | .mwait => Sys2Proof.Machine.execMwait s
  | .launch sd sa => Sys2Proof.Machine.execLaunch sd sa s
  | .signal sd sa => Sys2Proof.Machine.execSignal sd sa s
  | .deal sd => Sys2Proof.Machine.execDeal sd s
  | .tkick sa => Sys2Proof.Machine.execTkick sa s
  | .ckpt => Sys2Proof.Machine.execCkpt s
  | .clock sd => Sys2Proof.Machine.execClock sd s
  | .clksync => Sys2Proof.Machine.execClksync s
  | .rngk vd va vb => Sys2Proof.Machine.execRngk vd va vb s
  | .rng vd => Sys2Proof.Machine.execRng vd s
  | .rngs => Sys2Proof.Machine.execRngs s
  | .rngf vd va => Sys2Proof.Machine.execRngf vd va s
  | .rngsv vd => Sys2Proof.Machine.execRngsv vd s
  | .rngld va => Sys2Proof.Machine.execRngld va s
  | .illegalInstruction w => Sys2Proof.Machine.execIllegalInstruction w s
  | .matrixStreamIllegal w => Sys2Proof.Machine.execMatrixStreamIllegal w s
  | .tenderIllegal w => Sys2Proof.Machine.execTenderIllegal w s
  | .mnop => Sys2Proof.Machine.execMnop s
  | .mend => Sys2Proof.Machine.execMend s
  | .mli md imm => Sys2Proof.Machine.execMli md imm s
  | .maddi md imm => Sys2Proof.Machine.execMaddi md imm s
  | .mbr ma cond off => Sys2Proof.Machine.execMbr ma cond off s
  | .mloop ma off => Sys2Proof.Machine.execMloop ma off s
  | .msetf ma => Sys2Proof.Machine.execMsetf ma s
  | .mtile mc nc ma => Sys2Proof.Machine.execMtile mc nc ma s
  | .mbind slot h ma mb => Sys2Proof.Machine.execMbind slot h ma mb s
  | .mrmt src slot h ma mb => Sys2Proof.Machine.execMrmt src slot h ma mb s
  | .mzero => Sys2Proof.Machine.execMzero s
  | .mma ra rb ev => Sys2Proof.Machine.execMma ra rb ev s
  | .mmas ra rb ev => Sys2Proof.Machine.execMmas ra rb ev s
  | .mepi h bg fin ev md ma mb => Sys2Proof.Machine.execMepi h bg fin ev md ma mb s
  | .mepkv rot rnd ev md ma mb => Sys2Proof.Machine.execMepkv rot rnd ev md ma mb s
  | .att causal pf rnd ev md ma mb => Sys2Proof.Machine.execAtt causal pf rnd ev md ma mb s
  | .mbar g mode n => Sys2Proof.Machine.execMbar g mode n s
  | .mwaith md h st ph => Sys2Proof.Machine.execMwaith md h st ph s
  | .mhset md h st => Sys2Proof.Machine.execMhset md h st s
  | .mchk c md => Sys2Proof.Machine.execMchk c md s
  | .mstat md sel => Sys2Proof.Machine.execMstat md sel s
  | .engineWordStart gang blk => Sys2Proof.Machine.execEngineWordStart gang blk s
  | .escalationBudget gang blk => Sys2Proof.Machine.execEscalationBudget gang blk s
  | .engineWordComplete gang blk => Sys2Proof.Machine.execEngineWordComplete gang blk s
  | .tnop => Sys2Proof.Machine.execTnop s
  | .tend => Sys2Proof.Machine.execTend s
  | .tli td imm => Sys2Proof.Machine.execTli td imm s
  | .tlih td sh imm => Sys2Proof.Machine.execTlih td sh imm s
  | .tadd td ta tb => Sys2Proof.Machine.execTadd td ta tb s
  | .taddImm td ta imm => Sys2Proof.Machine.execTaddImm td ta imm s
  | .tsub td ta tb => Sys2Proof.Machine.execTsub td ta tb s
  | .tsubImm td ta imm => Sys2Proof.Machine.execTsubImm td ta imm s
  | .tmul td ta tb => Sys2Proof.Machine.execTmul td ta tb s
  | .tmulImm td ta imm => Sys2Proof.Machine.execTmulImm td ta imm s
  | .tmad td ta tb => Sys2Proof.Machine.execTmad td ta tb s
  | .tmadImm td ta imm => Sys2Proof.Machine.execTmadImm td ta imm s
  | .tshl td ta tb => Sys2Proof.Machine.execTshl td ta tb s
  | .tshlImm td ta imm => Sys2Proof.Machine.execTshlImm td ta imm s
  | .tshr td ta tb => Sys2Proof.Machine.execTshr td ta tb s
  | .tshrImm td ta imm => Sys2Proof.Machine.execTshrImm td ta imm s
  | .tand td ta tb => Sys2Proof.Machine.execTand td ta tb s
  | .tandImm td ta imm => Sys2Proof.Machine.execTandImm td ta imm s
  | .tor td ta tb => Sys2Proof.Machine.execTor td ta tb s
  | .torImm td ta imm => Sys2Proof.Machine.execTorImm td ta imm s
  | .tmin td ta tb => Sys2Proof.Machine.execTmin td ta tb s
  | .tminImm td ta imm => Sys2Proof.Machine.execTminImm td ta imm s
  | .tmax td ta tb => Sys2Proof.Machine.execTmax td ta tb s
  | .tmaxImm td ta imm => Sys2Proof.Machine.execTmaxImm td ta imm s
  | .tbc ta cond off => Sys2Proof.Machine.execTbc ta cond off s
  | .tba td ta off => Sys2Proof.Machine.execTba td ta off s
  | .tloop ta off => Sys2Proof.Machine.execTloop ta off s
  | .tld td ta sz imm => Sys2Proof.Machine.execTld td ta sz imm s
  | .tldEnv td idx => Sys2Proof.Machine.execTldEnv td idx s
  | .tst td ta sz imm => Sys2Proof.Machine.execTst td ta sz imm s
  | .tldb td h tb sz => Sys2Proof.Machine.execTldb td h tb sz s
  | .tdesc d ta => Sys2Proof.Machine.execTdesc d ta s
  | .tcopy d tc tb bg fin ev => Sys2Proof.Machine.execTcopy d tc tb bg fin ev s
  | .tstore d tc tb bg fin ev => Sys2Proof.Machine.execTstore d tc tb bg fin ev s
  | .tcopyl d tc tn k ring => Sys2Proof.Machine.execTcopyl d tc tn k ring s
  | .tgath d ti tn h => Sys2Proof.Machine.execTgath d ti tn h s
  | .tscat d ti tn h => Sys2Proof.Machine.execTscat d ti tn h s
  | .tkvr d tk tn bg fin ev => Sys2Proof.Machine.execTkvr d tk tn bg fin ev s
  | .tkvw d tk tn bg fin ev => Sys2Proof.Machine.execTkvw d tk tn bg fin ev s
  | .tcvt dd ds rnd bg fin => Sys2Proof.Machine.execTcvt dd ds rnd bg fin s
  | .tred dd ds tn rnd sat => Sys2Proof.Machine.execTred dd ds tn rnd sat s
  | .tmcast d tc tm bg fin ev => Sys2Proof.Machine.execTmcast d tc tm bg fin ev s
  | .tbar g n mode => Sys2Proof.Machine.execTbar g n mode s
  | .thset h st => Sys2Proof.Machine.execThset h st s
  | .thwait h st ph => Sys2Proof.Machine.execThwait h st ph s
  | .tevt ta tag f c => Sys2Proof.Machine.execTevt ta tag f c s
  | .tsend d tc tq ev => Sys2Proof.Machine.execTsend d tc tq ev s
  | .trecv d tc tq ev => Sys2Proof.Machine.execTrecv d tc tq ev s
  | .tfence scope => Sys2Proof.Machine.execTfence scope s
  | .twait n => Sys2Proof.Machine.execTwait n s
  | .ttrap imm => Sys2Proof.Machine.execTtrap imm s
  | .tcopylIteration gang blk k => Sys2Proof.Machine.execTcopylIteration gang blk k s
  | .copyWordComplete gang blk k => Sys2Proof.Machine.execCopyWordComplete gang blk k s
  | .eventPost gang blk => Sys2Proof.Machine.execEventPost gang blk s
  | .barrierRelease gang blk b => Sys2Proof.Machine.execBarrierRelease gang blk b s
  | .variableLatencyWriteback gang blk grp k => Sys2Proof.Machine.execVariableLatencyWriteback gang blk grp k s
  | .replay core unit matched => Sys2Proof.Machine.execReplay core unit matched s
  | .beaconTake cluster => Sys2Proof.Machine.execBeaconTake cluster s
  | .beaconComplete core entry decided => Sys2Proof.Machine.execBeaconComplete core entry decided s
  | .lanternTake cluster => Sys2Proof.Machine.execLanternTake cluster s
  | .lanternComplete cluster => Sys2Proof.Machine.execLanternComplete cluster s
  | .commit gang bad => Sys2Proof.Machine.execCommit gang bad s
  | .tinvctl val => Sys2Proof.Machine.execTinvctl val s
  | .translationInvalidationDone => Sys2Proof.Machine.execTranslationInvalidationDone s
  | .kvinvctl val => Sys2Proof.Machine.execKvinvctl val s
  | .kvInvalidationDone => Sys2Proof.Machine.execKvInvalidationDone s
  | .xrel val => Sys2Proof.Machine.execXrel val s
  | .xfail val => Sys2Proof.Machine.execXfail val s
  | .handlerStart gang => Sys2Proof.Machine.execHandlerStart gang s
  | .taskDequeue => Sys2Proof.Machine.execTaskDequeue s
  | .ageing queue => Sys2Proof.Machine.execAgeing queue s
  | .gangPlacement => Sys2Proof.Machine.execGangPlacement s
  | .reservation => Sys2Proof.Machine.execReservation s
  | .drainLimit gang => Sys2Proof.Machine.execDrainLimit gang s
  | .saveComplete gang => Sys2Proof.Machine.execSaveComplete gang s
  | .edgeAction cluster bad => Sys2Proof.Machine.execEdgeAction cluster bad s
  | .gangStart gang => Sys2Proof.Machine.execGangStart gang s
  | .gangCompletion gang => Sys2Proof.Machine.execGangCompletion gang s
  | .gangRetirement gang => Sys2Proof.Machine.execGangRetirement gang s
  | .taskRetirement task => Sys2Proof.Machine.execTaskRetirement task s
  | .hread tag flen faddr => Sys2Proof.Machine.execHread tag flen faddr s
  | .hwrite faddr data mask => Sys2Proof.Machine.execHwrite faddr data mask s
  | .notify flen => Sys2Proof.Machine.execNotify flen s
  | .reply faddr payload => Sys2Proof.Machine.execReply faddr payload s
  | .tinv tag flen faddr => Sys2Proof.Machine.execTinv tag flen faddr s
  | .cancel flen faddr => Sys2Proof.Machine.execCancel flen faddr s
  | .srdata tag data => Sys2Proof.Machine.execSrdata tag data s
  | .swack tag => Sys2Proof.Machine.execSwack tag s
  | .sares tag stat old => Sys2Proof.Machine.execSares tag stat old s
  | .discardedFlit ftype => Sys2Proof.Machine.execDiscardedFlit ftype s
  | .mgmtWrite tag flen faddr => Sys2Proof.Machine.execMgmtWrite tag flen faddr s
  | .mremove tag faddr => Sys2Proof.Machine.execMremove tag faddr s
  | .mattcmd tag faddr => Sys2Proof.Machine.execMattcmd tag faddr s
  | .attestationReport => Sys2Proof.Machine.execAttestationReport s
  | .powerGood failed => Sys2Proof.Machine.execPowerGood failed s
  | .powerCap => Sys2Proof.Machine.execPowerCap s
  | .outletAbove60 => Sys2Proof.Machine.execOutletAbove60 s
  | .outletAbove70 => Sys2Proof.Machine.execOutletAbove70 s
  | .announce port chan len => Sys2Proof.Machine.execAnnounce port chan len s
  | .grant port chan len => Sys2Proof.Machine.execGrant port chan len s
  | .peerData port chan data => Sys2Proof.Machine.execPeerData port chan data s
  | .peerCompletion port chan => Sys2Proof.Machine.execPeerCompletion port chan s
  | .portInactive port => Sys2Proof.Machine.execPortInactive port s
  | .pageWalkEnd gang blk grp => Sys2Proof.Machine.execPageWalkEnd gang blk grp s
  | .averageBelowPcap => Sys2Proof.Machine.execAverageBelowPcap s
  | .outletBelow60 => Sys2Proof.Machine.execOutletBelow60 s
  | .moduleLimitsExceeded => Sys2Proof.Machine.execModuleLimitsExceeded s
  | .portActive port => Sys2Proof.Machine.execPortActive port s
  | .uncorrectableErrorInLogic kind unit => Sys2Proof.Machine.execUncorrectableErrorInLogic kind unit s

end Sys2Proof.Machine
end

