-- ==== Sys2Proof/Machine/Step.lean ====
section
/-!
DEFINITION. One step: a turn is taken, and the stream it names fetches, decodes and executes its next word, or the event it names takes place.
`withFetchWord` stands for the load of a program. `noncomputable` says only that Lean's compiler emits no code: its runtime has no tags for
so many constructors; the kernel evaluates the definitions.
-/

namespace Sys2Proof.Machine

/-! ## Steps of the streams -/

/-- A group's turn (R85, R87, R168). -/
def groupStep (s0 : State) (gang blk grp : Nat) : Out :=
  let s := { s0 with cur := ⟨gang, blk, grp⟩ }
  if !groupMayIssue s gang blk grp then .next s
  else
    let g := curGroup s
    match fetchCode s { strm := 0, gang := gang, blk := blk, grp := grp, sup := g.handler } (packetAddr s gang blk g.pc) 32 with
    | .wait s1 => .next s1
    | .flt f => .next (groupFetchFault s f)
    | .poison _ => .next (fetchPoison s gang 0 blk grp g.pc)
    | .ok bs s1 =>
      let p := loadPacket (curGroup s1) bs
      exec (decodeGroup p.2) (setCurGroup s1 p.1)

/-- A Tender's turn (R288, R290). -/
noncomputable def tenderStep (s0 : State) (gang blk : Nat) : Out :=
  let s := { s0 with cur := ⟨gang, blk, 0⟩ }
  if !tenderMayIssue s gang blk then .next s
  else
    match fetchCode s { strm := 1, gang := gang, blk := blk, grp := 0, sup := false } (tenderWordAddr s gang blk) 4 with
    | .wait s1 => .next s1
    | .flt f => .next (tenderFault s f)
    | .poison _ => .next (fetchPoison s gang 1 blk 0 (blockAt s gang blk).tnd.tpc)
    | .ok bs s1 => exec (decodeTender (fetchedWord bs 0)) s1

/-- A matrix sequencer's turn (R319, R321). -/
def matrixStep (s0 : State) (gang blk : Nat) : Out :=
  let s := { s0 with cur := ⟨gang, blk, 0⟩ }
  if !matrixMayIssue s gang blk then .next s
  else
    match fetchCode s { strm := 3, gang := gang, blk := blk, grp := 0, sup := false } (matrixWordAddr s gang blk) 4 with
    | .wait s1 => .next s1
    | .flt f => .next (matrixFault s (blockAt s gang blk).mat.mpc f)
    | .poison _ => .next (fetchPoison s gang 2 blk 0 (blockAt s gang blk).mat.mpc)
    | .ok bs s1 => exec (decodeMatrix (fetchedWord bs 0)) s1

/-- What still happens at a device that has stopped: bring-up, and the limits of the module. One that a failed step of bring-up has left also
answers management accesses (R460). -/
def wakes (s : State) (i : Instr) : Bool := match i with
  | .powerGood _ => true
  | .moduleLimitsExceeded => true
  | .mgmtWrite _ _ _ => !s.off
  | .mremove _ _ => !s.off
  | .mattcmd _ _ => !s.off
  | _ => false
/-- A device that has stopped, or that a failed step of bring-up has left, runs nothing. -/
def halted (s : State) : Bool := s.off || s.mgmt.mstate == 3
/-- An event; a word of a stream is no event. -/
def eventStep (s : State) (i : Instr) : Out :=
  if halted s && !wakes s i then .next s
  else match i.stream with
    | none => exec i s
    | some _ => .next s

/-- A turn. -/
noncomputable def turnStep (t : Turn) (s : State) : Out :=
  match t with
  | .group gang blk grp => groupStep s gang blk grp
  | .matrix gang blk => matrixStep s gang blk
  | .tender gang blk => tenderStep s gang blk
  | .event i => eventStep s i
  | .dataError strm gang blk k ukind unit sub =>
    .next (if halted s then s else dataError { s with cur := ⟨gang, blk, if strm = 0 then k else 0⟩ } strm gang blk k ukind unit sub)
  | .parkError core entry => .next (if halted s then s else parkError core entry s)
  | .commitError gang line => .next (if halted s then s else commitError gang line s)
  | .replace read unit line bad => .next (if halted s then s else if bad then replaceBad s read unit line else replaceLine s read unit line)
  | .unitEvent kind unit sub => if halted s then .next s else execUnitEvent kind unit sub s
  | .flash fw mc => .next { s with boot := { s.boot with fw := fw, mc := mc } }
  | .minVersion v => .next (raiseMinimum s v)
  | .withinLimits => .next { s with boot := { s.boot with outside := false } }

/-- One step of the machine. -/
noncomputable def step (s : State) : Host.Outcome State Fault Refusal := turnStep (nextTurn s).1 (nextTurn s).2

/-! ## The load of a program -/

/-- Where `withFetchWord` puts the code: a page of the same virtual and physical address. -/
def loadAt : Nat := 0x10000
/-- The translation of that page, as a walk would have filled it. -/
def loadEntry (asid : Nat) : TlbEntry := ⟨asid, loadAt, 12, loadAt, 0, false, true, true⟩

/-- The 32 bytes of the first packet: a marked control word and the word; for the other streams the word alone. -/
def loadBytes (st : Stream) (x : W32) : List Byte :=
  match st with
  | .group => bytesOf 4 0xA0000000 ++ bytesOf 4 x.toNat ++ bytesOf 24 0
  | _ => bytesOf 4 x.toNat ++ bytesOf 28 0

/-- The state with the instruction loaded as the first word of gang 0's program for its stream, and with that stream's turn next. -/
def State.withFetchWord (s : State) (nbits w : Nat) : State :=
  let x : W32 := BitVec.ofNat 32 (w % 2 ^ nbits)
  let st := tableStream x
  let t := taskAt s 0
  let s1 := setTaskAt s 0 { t with used := true, active := true, lpb := { t.lpb with
    gentry := loadAt, mentry := loadAt, tentry := loadAt, gridx := max t.lpb.gridx 1, gridy := max t.lpb.gridy 1,
    blocks := max t.lpb.blocks 1, groups := max t.lpb.groups 1 } }
  let s2 := setGangAt s1 0 { gangAt s1 0 with phase := .running, task := 0, cluster := 0 }
  let b := blockAt s2 0 0
  let b1 := { b with used := true, core := 0, nv := 256, ngroups := max b.ngroups 1 }
  let b2 := match st with
    | .group => b1
    | .matrix => { b1 with mat := { b1.mat with st := .running, mpc := 0 } }
    | .tender => { b1 with tnd := { b1.tnd with st := .running, tpc := 0 } }
  let s3 := setBlockAt s2 0 0 b2
  let g := groupAt s3 0 0 0
  let s4 := match st with
    | .group => setGroupAt s3 0 0 0 { g with st := .running, handler := false, nv := 256, pc := 1, atrap := none, readyAt := min g.readyAt s.now }
    | _ => s3
  let c := coreAt s4 0
  let s5 := setCoreAt s4 0 { c with tlb := loadEntry t.lpb.asid :: c.tlb }
  let s6 := setClusterLine s5 0 (lineOf loadAt) Line.empty
  let s7 := { s6 with mem := SMap.setList memDefault s6.mem loadAt (loadBytes st x), poison := s6.poison.set 0 (lineOf loadAt) 0, off := false }
  { s7 with turns := (match st with
      | .group => Turn.group 0 0 0
      | .matrix => Turn.matrix 0 0
      | .tender => Turn.tender 0 0) :: s7.turns }

end Sys2Proof.Machine
end

