-- ==== Sys2Proof/Safety.lean ====
section
/-!
DEFINITION. The terms in which claims about the machine are stated: the state at a word's issue clock, what it is for a word to be able to issue,
how it retires, and the invariant of the machine.
-/

namespace Sys2Proof.Safety
open Sys2Proof.Machine

/-! ## Issue of a group word -/

/-- The state at a word's issue clock. -/
def atIssue (i : Instr) (s : State) : State := issueState (wordOf s i) s

/-- The group in focus at the issue clock. -/
def groupIn (i : Instr) (s : State) : Group := curGroup (atIssue i s)

/-- The group in focus runs, no arithmetic trap is pending at the issue clock, the word is legal and its registers exist, it is ready
(R144), and the stall-count checker passes it (R149): of the checks of R109, what remains is the target of a transfer. -/
structure CanIssue (i : Instr) (s : State) : Prop where
  running : (curGroup s).st = .running
  unfrozen : frozenAt s.now (curGroup s) = false
  noTrap : pendingTrap (groupIn i s) = none
  legal : issueFault (wordOf s i) (groupIn i s) = none
  ready : notReady (wordOf s i) (atIssue i s) = false
  landed : unlanded (wordOf s i) (atIssue i s) = false

/-- The state after a word that has made its effects, in `t`, and takes no transfer: it is retired at its issue clock. -/
def after (i : Instr) (s t : State) : State := setCurGroup t (retire (curGroup t) (atIssue i s).now (wordOf s i).skip)

/-- The state after a word that has made its effects, in `t`, and takes a transfer (R171, R173). -/
def afterJump (i : Instr) (s t : State) (target : W32) (pops : Bool) : State :=
  setCurGroup t (retireJump (curGroup t) (atIssue i s).now target pops)

/-- The state after a word that raises a precise fault: nothing of it is performed, and the group in focus stops (R413). -/
def afterFault (i : Instr) (s : State) (f : FaultInfo) : State := takeFault (atIssue i s) f

/-- The state after a word whose result is in flight, to land two clocks after its issue clock (R148): the scalar-ALU and predicate latency. -/
def afterWrites (i : Instr) (s : State) (ws : List RegWrite) : State := after i s (inFlight (atIssue i s) 2 ws 0)

/-- The state after a word of variable latency (R150, R151): with the effects made in `t`, its writes and flags are in flight under a counter. -/
def afterLaunch (i : Instr) (s t : State) (ws : List RegWrite) (f : FlagSet) (cnt : Counter) : State :=
  after i s (launchFlight t ws f cnt false)

/-! ## What a word leaves alone -/

/-- Two states agree on everything outside the group record of the stream in focus, but for the clock. -/
structure OnlyGroup (s t : State) : Prop where
  same : t = { s with now := t.now, groups := t.groups }
  others : ∀ k, k ≠ groupKey s.cur.gang s.cur.blk s.cur.grp → t.groups.get Group.vacant k = s.groups.get Group.vacant k

/-- Two group records agree on every register, flag and special register that only a word's landed write or a supervisor changes. -/
structure SameRegisters (g h : Group) : Prop where
  s : ∀ n, readS h n = readS g n
  v : ∀ r l, readV h r l = readV g r l
  p : ∀ n, readP h n = readP g n
  flags : h.flags = g.flags
  trapen : h.trapen = g.trapen
  sf : h.sf = g.sf
  mode : h.mode = g.mode
  stack : h.stk = g.stk ∧ h.depth = g.depth ∧ h.psd = g.psd
  rng : h.rngKey = g.rngKey ∧ h.rngCtr = g.rngCtr
  latches : h.clkHi = g.clkHi ∧ h.cycHi = g.cycHi
  resume : h.resume = g.resume

/-! ## The invariant -/

/-- The management registers hold values that the spec allows them (R423, R432, R443, R460, R463, R464). -/
structure MgmtOk (m : Mgmt) : Prop where
  mstate : m.mstate = 0 ∨ m.mstate = 2 ∨ m.mstate = 3
  mfail : m.mfail < 16
  dage : m.dage < 256
  pdrain : m.pdrain < 256
  pdlim : m.pdlim < 65536
  dbgctl : m.dbgctl < 2
  fnpsel : m.fnpsel < 256
  linkerr : m.linkerr < 2 ^ 32
  mrtask : m.mrtask % 2 ^ 32 < 64
  mnonce : m.mnonce.length = 8
  fwcnt : 2 ≤ m.fwcnt ∧ m.fwcnt < 256
  fwtime : 1 ≤ m.fwtime ∧ m.fwtime < 65536
  irqen : m.irqen % 4 = 0 ∧ m.irqen < 64
  pcap : 300 ≤ m.pcap ∧ m.pcap ≤ 2000

/-- The machine's invariant: device memory keeps its canonical form, and the management registers hold legal values. -/
structure Inv (s : State) : Prop where
  mem : Memory.wf s.mem
  mgmt : MgmtOk s.mgmt

end Sys2Proof.Safety
end

