-- ==== Sys2Proof/Safety/Events.lean ====
section
/-!
DEFINITION. The management registers as spec/19 lists them, and the terms of statements about the device's and the link's events.
-/

namespace Sys2Proof.Safety
open Sys2Proof.Machine

/-! ## Management registers (R464) -/

/-- A management register that is read and written: the values a write takes, its value, and the registers with a new value in it. -/
structure MgmtReg where
  ok : Nat → Prop
  get : Mgmt → Nat
  put : Mgmt → Nat → Mgmt

/-- The registers with no condition on the moment of a write, by offset. -/
def mgmtReg : Nat → Option MgmtReg
  | 0x040 => some ⟨fun v => v < 256, Mgmt.dage, fun m v => { m with dage := v }⟩
  | 0x048 => some ⟨fun v => v < 256, Mgmt.pdrain, fun m v => { m with pdrain := v }⟩
  | 0x050 => some ⟨fun v => v < 65536, Mgmt.pdlim, fun m v => { m with pdlim := v }⟩
  | 0x058 => some ⟨fun _ => True, Mgmt.saveent, fun m v => { m with saveent := v }⟩
  | 0x060 => some ⟨fun _ => True, Mgmt.restent, fun m v => { m with restent := v }⟩
  | 0x068 => some ⟨fun v => v < 2, Mgmt.dbgctl, fun m v => { m with dbgctl := v }⟩
  | 0x070 => some ⟨fun v => 2 ≤ v ∧ v ≤ 255, Mgmt.fwcnt, fun m v => { m with fwcnt := v }⟩
  | 0x078 => some ⟨fun v => 1 ≤ v ∧ v < 65536, Mgmt.fwtime, fun m v => { m with fwtime := v }⟩
  | 0x080 => some ⟨fun v => v < 64 ∧ v % 4 = 0, Mgmt.irqen, fun m v => { m with irqen := v }⟩
  | 0x088 => some ⟨fun v => v < 2 ^ 32, Mgmt.linkerr, fun m v => { m with linkerr := v }⟩
  | 0x090 => some ⟨fun v => 300 ≤ v ∧ v ≤ 2000, Mgmt.pcap, fun m v => { m with pcap := v }⟩
  | 0x098 => some ⟨fun v => v % 2 ^ 32 < 64, Mgmt.mrtask, fun m v => { m with mrtask := v }⟩
  | 0x0D0 => some ⟨fun v => v < 256, Mgmt.fnpsel, fun m v => { m with fnpsel := v }⟩
  | 0x0F0 => some ⟨fun _ => True, Mgmt.mattaddr, fun m v => { m with mattaddr := v }⟩
  | _ => none

/-- The registers that are written only while no task is active. -/
def mgmtIdleReg : Nat → Option MgmtReg
  | 0x018 => some ⟨fun _ => True, Mgmt.astbase, fun m v => { m with astbase := v }⟩
  | 0x020 => some ⟨fun _ => True, Mgmt.orlog, fun m v => { m with orlog := v }⟩
  | 0x028 => some ⟨fun _ => True, Mgmt.orsize, fun m v => { m with orsize := v }⟩
  | 0x030 => some ⟨fun _ => True, Mgmt.lxbase, fun m v => { m with lxbase := v }⟩
  | 0x038 => some ⟨fun _ => True, Mgmt.lxsize, fun m v => { m with lxsize := v }⟩
  | _ => none

/-- The state with one more flit sent. -/
def sends (s : State) (f : Flit) : State := { s with outbox := s.outbox ++ [f] }
/-- The answer to a management access: `MGMTR` with a status, the access's length field and a value. -/
def answer (tag : BitVec 16) (stat : Nat) (flen : BitVec 32) (v : Nat) : Flit := ⟨0x86, stat, tag.toNat, flen.toNat, v, []⟩
/-- The state with a discarded flit counted, saturating. -/
def discards (s : State) : State := { s with mgmt := { s.mgmt with linkerr := min (s.mgmt.linkerr + 1) (2 ^ 32 - 1) } }

/-! ## Requests of the device to the host -/

/-- A new request: a flit with the next tag, and what its response does. -/
structure Requested (s t : State) (ftype kind addr len : Nat) : Prop where
  flit : ∃ d, t.outbox = s.outbox ++ [⟨ftype, 0, s.nextTag, len, addr, d⟩]
  kept : ∃ a, t.hostAccs = s.hostAccs ++ [a] ∧ a.tag = s.nextTag ∧ a.kind = kind ∧ a.addr = addr ∧ a.len = len ∧ a.got = none
  tag : t.nextTag = (s.nextTag + 1) % 65536

/-! ## Events that a unit counts (R432) -/

/-- The clocks that a unit counts after one more event: this clock, and the earlier ones within `FWTIME` ms of it. -/
def eventsAfter (s : State) (k : Nat) : List Nat :=
  s.now :: ((s.unitEvents.get [] k).filter fun t => decide (s.now < t + s.mgmt.fwtime * 1050000))

/-! ## Copy words in flight -/

/-- The state with a copy word's Tender in focus. -/
def atBlock (s : State) (gang blk : Nat) : State := { s with cur := ⟨gang, blk, 0⟩ }

end Sys2Proof.Safety
end

