-- ==== Sys2Proof/Safety/Rounding.lean ====
section
/-!
DEFINITION. The rounding of R127 to R132 over the rational numbers, written from the spec's tables, for the statements about RoundTo and the exact
arithmetic before it.
-/

namespace Sys2Proof.Safety
open Sys2Proof.Machine

/-! ## Real values -/

/-- The rational number of an exact value. -/
def ratOf (q : Q) : Rat := (q.num : Rat) / (q.den : Rat)
/-- A value whose fraction is written with a positive denominator, and is not 0 where it stands for a non-zero value. -/
def Proper : FVal → Prop
  | .fin q => 0 < q.den ∧ q.num ≠ 0
  | _ => True
/-- The rational number of a finite value. -/
def realOf : FVal → Option Rat
  | .zero _ => some 0
  | .fin q => some (ratOf q)
  | _ => none
/-- 2^e. -/
def two (e : Int) : Rat := if 0 ≤ e then ((2 ^ e.toNat : Nat) : Rat) else 1 / ((2 ^ (-e).toNat : Nat) : Rat)

/-! ## The magnitudes of a format, with the exponent range unbounded above -/

/-- The magnitude with index i (exponent and fraction bits as one number): R116, R119; multiples of the one spacing where e = 0 and in the integer
types. -/
def gridAt (g : Grid) (i : Nat) : Rat :=
  if g.fixed then (i : Rat) * two g.emin
  else if i < 2 ^ g.f then (i : Rat) * two (g.emin - g.f)
  else ((2 ^ g.f + i % 2 ^ g.f : Nat) : Rat) * two (g.emin - g.f + ((i / 2 ^ g.f : Nat) : Int) - 1)

/-- The magnitudes of a type: integers; a binary format's, whose least normal value is 2^(2 − 2^(eb − 1)) (R116); a narrow format's, whose least normal
value is 2^(1 − b), and for e = 0 multiples of 2^(−b) (R119). -/
def gridOf : Fmt → Grid
  | .int _ _ => ⟨0, 0, true⟩
  | .bin eb fb => ⟨fb, 2 - 2 ^ (eb - 1), false⟩
  | .nar n => if n.e = 0 then ⟨0, -n.bias, true⟩ else ⟨n.m, 1 - n.bias, false⟩
/-- The number of finite magnitudes: those below the infinity, and in narrow formats what the policy leaves (R120). -/
def magnitudes : Fmt → Nat
  | .int sg w => if sg then 2 ^ (w - 1) else 2 ^ w
  | .bin eb fb => (2 ^ eb - 1) * 2 ^ fb
  | .nar n => if n.e = 0 then 2 ^ n.m else if n.pol = 0 then (2 ^ n.e - 1) * 2 ^ n.m else if n.pol = 1 then 2 ^ (n.e + n.m) - 1 else 2 ^ (n.e + n.m)

/-- The binary formats of R116, as exponent and fraction bits: f16, bf16, f32, f64. -/
def binaries : List (Nat × Nat) := [(5, 10), (8, 7), (8, 23), (11, 52)]
/-- What R118 to R121 and R125 ask of a narrow format and its table. -/
def NarrowOk (n : NFmt) : Prop :=
  0 < n.width ∧ n.width ≤ 8 ∧ n.pol ≤ 2 ∧ (n.pol = 0 → 2 ≤ n.e ∧ 1 ≤ n.m) ∧ (n.pol = 1 ∧ n.e = 0 → n.sgn = true) ∧
  (n.curve = [] ∨ n.curve.length = 16 ∧ (∀ p ∈ n.curve, 0 < p.1.den ∧ 0 < p.2.den) ∧
    (Q.zero :: n.curve.map Prod.fst).Pairwise (fun a b => ratOf a < ratOf b) ∧ (Q.zero :: n.curve.map Prod.snd).Pairwise (fun a b => ratOf a < ratOf b))

/-- The element formats: the integer types, the binary formats and the narrow ones. -/
def FmtOk : Fmt → Prop
  | .int _ w => w ∈ [8, 16, 32, 64]
  | .bin eb fb => (eb, fb) ∈ binaries
  | .nar n => NarrowOk n
/-- The table of a companded format. -/
def curveOf : Fmt → List (Q × Q)
  | .nar n => n.curve
  | _ => []
/-- |x|. -/
def size (x : Rat) : Rat := if x < 0 then -x else x
/-- Whether y is C(t), for t ≥ 0 (R125): the interpolation of the points with (0, 0) before them, continued beyond the last; t itself without a table. -/
def OnCurve (pts : List (Q × Q)) (t y : Rat) : Prop :=
  (pts = [] ∧ y = t) ∨ ∃ k p q, ((Q.zero, Q.zero) :: pts)[k]? = some p ∧ pts[k]? = some q ∧ ratOf p.1 ≤ t ∧ (t ≤ ratOf q.1 ∨ k + 1 = pts.length) ∧
    y = ratOf p.2 + (t - ratOf p.1) * (ratOf q.2 - ratOf p.2) / (ratOf q.1 - ratOf p.1)

/-! ## The choice between neighbours -/

/-- Where a magnitude stands: its comparison with each rational number. -/
abbrev Cut := Rat → Ordering
/-- The place of a rational magnitude. -/
def cutAt (a : Rat) : Cut := fun t => if t < a then .lt else if t = a then .eq else .gt

/-- D of R128. -/
def ditherTable : List Nat := [0, 16, 8, 24, 4, 20, 12, 28, 2, 18, 10, 26, 6, 22, 14, 30, 1, 17, 9, 25, 5, 21, 13, 29, 3, 19, 11, 27, 7, 23, 15, 31]
/-- (D[i mod 32] + 0.5) ÷ 32. -/
def threshold (i : Nat) : Rat := ((ditherTable.getD (i % 32) 0 : Nat) + 1 / 2 : Rat) / 32

/-- Between the magnitudes lo and hi, which of the two the mode takes (R127 step 3): whether that is hi. `odd` says that lo has an odd code, `tieEven`
that RNA breaks a tie as RNE does. For a negative value the lower neighbour of the value is −hi. -/
def takesLarger (tieEven : Bool) (mode : Rnd) (dth : Nat) (neg odd : Bool) (lo hi : Rat) (c : Cut) : Bool :=
  let half := c ((lo + hi) / 2)
  match mode with
  | .rne => half == .lt || half == .eq && odd
  | .rna => half == .lt || half == .eq && (!tieEven || odd)
  | .rtz => false
  | .rup => !neg
  | .rdn => neg
  | .dith => if neg then c (hi - (hi - lo) * threshold dth) == .lt else c (lo + (hi - lo) * threshold dth) != .gt

/-- The magnitude at a place stands from index i up to, and not at, the next. -/
def StandsAt (g : Grid) (c : Cut) (i : Nat) : Prop := c (gridAt g i) ≠ .gt ∧ c (gridAt g (i + 1)) = .gt
/-- The index it is rounded to. -/
def roundedIdx (g : Grid) (tieEven : Bool) (mode : Rnd) (dth : Nat) (neg : Bool) (c : Cut) (i : Nat) : Nat :=
  if c (gridAt g i) = .eq then i
  else if takesLarger tieEven mode dth neg (i % 2 == 1) (gridAt g i) (gridAt g (i + 1)) c then i + 1 else i

/-! ## Steps 4 and 5 -/

/-- The sign bit of a format's code, where it has one. -/
def signBit (f : Fmt) (neg : Bool) : Nat :=
  match f with
  | .bin eb fb => if neg then 2 ^ (eb + fb) else 0
  | .nar n => if neg && n.sgn && n.e != 0 then 2 ^ (n.e + n.m) else 0
  | .int .. => 0
/-- The overflow result's row of R127 step 4: whether it is an infinity. -/
def toInfinity (mode : Rnd) (neg : Bool) : Bool := mode == .rne || mode == .rna || mode == .dith || mode == .rup && !neg || mode == .rdn && neg

/-- The code of a finite result with magnitude index j: two's complement where the format is an integer one. -/
def finiteCode (f : Fmt) (neg : Bool) (j : Nat) : Nat :=
  match f with
  | .int _ w => if neg then (2 ^ w - j) % 2 ^ w else j
  | .nar n => if n.e = 0 then (if neg then (2 ^ n.width - j) % 2 ^ n.width else j) else signBit f neg + j
  | .bin .. => signBit f neg + j

/-- The result beyond the largest finite value (R127 step 4), and its flags with `NX`. A negative integer type's end is −2^(w − 1); −M of a narrow integer
format is −(2^m − 1), which R122's largest finite values show (log entry 13). -/
def overflowResult (f : Fmt) (mode : Rnd) (neg : Bool) : Rounded :=
  match f with
  | .int sg w => ⟨if neg then 2 ^ (w - 1) else if sg then 2 ^ (w - 1) - 1 else 2 ^ w - 1, fNV ||| fNX⟩
  | .bin eb fb => ⟨signBit f neg + if toInfinity mode neg then (2 ^ eb - 1) * 2 ^ fb else (2 ^ eb - 1) * 2 ^ fb - 1, fOF ||| fNX⟩
  | .nar n =>
    if n.pol = 0 then ⟨signBit f neg + if toInfinity mode neg then magnitudes f else magnitudes f - 1, fOF ||| fNX⟩
    else ⟨finiteCode f neg (magnitudes f - 1), fNS ||| fNX⟩

/-- Whether a type has no negative values (R129), and the flag its refusal raises. -/
def unsignedFlag : Fmt → Option FlagSet
  | .int sg _ => if sg then none else some fNV
  | .nar n => if n.sgn then none else some fNS
  | .bin .. => none

/-- RoundTo of a non-zero finite value with the sign `neg`, whose (companded) magnitude stands at `c`: R127 steps 3 to 5, R129. The magnitude rounded
with the exponent range unbounded at both ends is that of the grid two binades further down, which decides whether it is below the least normal value. A
negative end of a signed integer type is one further than the positive one. -/
def RoundsTo (f : Fmt) (mode : Rnd) (dth : Nat) (neg : Bool) (c : Cut) (r : Rounded) : Prop :=
  let g := gridOf f
  let low : Grid := { g with emin := g.emin - 2 }
  let tieEven := match f with | .nar _ => true | _ => false
  ∃ i k, StandsAt g c i ∧ StandsAt low c k ∧
    let j := roundedIdx g tieEven mode dth neg c i
    let last := if neg && (match f with | .int sg _ => sg | _ => false) then magnitudes f + 1 else magnitudes f
    let nx : Bool := c (gridAt g j) ≠ .eq
    let uf : Bool := !g.fixed && nx && decide (gridAt low (roundedIdx low tieEven mode dth neg c k) < two g.emin)
    r = match unsignedFlag f, neg with
      | some fl, true => ⟨0, fl ||| fNX⟩
      | _, _ => if last ≤ j then overflowResult f mode neg
          else ⟨finiteCode f neg j, (if nx then fNX else 0) ||| (if uf then fUF else 0)⟩

/-! ## Zeros, infinities and NaNs (R127 steps 1 and 2, R131) -/

/-- RoundTo of a zero and of an infinity. -/
def roundedZero (f : Fmt) (neg : Bool) : Rounded := ⟨signBit f neg, 0⟩
def roundedInf (f : Fmt) (mode : Rnd) (neg : Bool) : Rounded :=
  match unsignedFlag f, neg with
  | some fl, true => ⟨0, fl ||| fNX⟩
  | _, _ => match f with
    | .bin .. => ⟨signBit f neg + magnitudes f, 0⟩
    | .nar n => if n.pol = 0 then ⟨signBit f neg + magnitudes f, 0⟩ else overflowResult f mode neg
    | .int .. => overflowResult f mode neg

/-- RoundTo of a NaN with `fs` fraction bits: its sign, exponent bits of ones, the quiet bit and its leading fraction bits, in a binary format and under
`POL` 0; the one NaN code under `POL` 1; +0 with `NV` under `POL` 2 and in the integer types. -/
def RoundsNan (f : Fmt) (neg sig : Bool) (frac fs : Nat) (r : Rounded) : Prop :=
  let nv : FlagSet := if sig then fNV else 0
  let fd := match f with | .bin _ fb => fb | .nar n => n.m | .int .. => 0
  match f with
  | .int .. => r = ⟨0, fNV⟩
  | .nar n =>
    if n.pol = 0 then ∃ t, t < 2 ^ fd ∧ r = ⟨signBit f neg + magnitudes f + t, nv⟩ ∧
      ∀ k, k < fd → t.testBit k = (decide (k + 1 = fd) || decide (fd ≤ k + fs) && frac.testBit (k + fs - fd))
    else if n.pol = 1 then r = ⟨if n.e = 0 then 2 ^ n.m else signBit f neg + magnitudes f, nv⟩
    else r = ⟨0, fNV⟩
  | .bin .. => ∃ t, t < 2 ^ fd ∧ r = ⟨signBit f neg + magnitudes f + t, nv⟩ ∧
      ∀ k, k < fd → t.testBit k = (decide (k + 1 = fd) || decide (fd ≤ k + fs) && frac.testBit (k + fs - fd))

/-! ## Exact results -/

/-- `r` is RoundTo of the rational number z, where it is 0 of a zero with the sign `neg`. -/
def Delivers (f : Fmt) (mode : Rnd) (dth : Nat) (z : Rat) (neg : Bool) (r : Rounded) : Prop :=
  ∃ v, Proper v ∧ realOf v = some z ∧ (z = 0 → v = .zero neg) ∧ r = roundTo f mode dth v
/-- The result of an invalid case (R131): the canonical NaN, with `NV`. -/
def invalidResult (f : Fmt) (mode : Rnd) : Rounded := ⟨(roundTo f mode 0 (.nan false false 1 1)).code, (roundTo f mode 0 (.nan false false 1 1)).flags ||| fNV⟩
/-- The sign of an exactly zero sum (R132): that of the terms where it is one and the same and they are zeros, else − in RDN alone. -/
def zeroSign (mode : Rnd) (ts : List FVal) : Bool :=
  if ∀ t ∈ ts, t = .zero false then false else if ∀ t ∈ ts, t = .zero true then true else mode == .rdn

end Sys2Proof.Safety
end

