-- ==== Sys2Proof/Safety/Copy.lean ====
section
/-!
DEFINITION. What an element of a copy word moves (R306 to R314), byte by byte, for the statements about the Tender.
-/

namespace Sys2Proof.Safety
open Sys2Proof.Machine

/-! ## The record and its last element -/

/-- The record k of the Tender in focus has one element, or one row, left, and is free to perform it: the Tender runs, the word stands at no fault, and no
earlier word has bytes of a write to make that it writes too (R305). -/
structure LastElement (k : Nat) (r : CopyRec) (s : State) : Prop where
  held : recAt s k = some r
  free : r.stuck = false
  plain : r.loop = none
  last : r.count = r.prog + 1
  runs : (curTnd s).st = .running
  turn : writeBehind s r.seq (elemFoot s (kvSized s r) r.prog) = false

/-- The record once its elements are performed. -/
def performed (t : State) (k : Nat) (r : CopyRec) : State := setRec t k (some { r with prog := r.count })
/-- The record k of the Tender in focus is a peer word's that goes on, at its message m, which is granted. -/
structure PeerTurn (k : Nat) (r : CopyRec) (m : PeerMsg) (s : State) : Prop where
  held : recAt s k = some r
  free : r.stuck = false
  plain : r.loop = none
  left : r.prog < r.count
  runs : (curTnd s).st = .running
  own : msgOf s k r = some m
  announced : m.announced = true
  granted : m.granted = true
  gang : (gangAt s m.gang).phase = .running
/-- The n-th argument of a copy word. -/
def argOf (r : CopyRec) (n : Nat) : Nat := ((r.args[n]?).getD 0).toNat
/-- The element size of the record's first descriptor, and of its second. -/
def sizeOf1 (s : State) (r : CopyRec) : Nat := descrSize (curTask s) r.desc
def sizeOf2 (s : State) (r : CopyRec) : Nat := descrSize (curTask s) r.desc2

/-! ## Handles -/

/-- A byte of a handle of a block of the gang in focus, stored under a swizzle. -/
def sideByte (s : State) (blk h swz o : Nat) : Byte := handleByte (blockAt s s.cur.gang blk) (handleAt (blockAt s s.cur.gang blk) h) swz o
/-- The number of n bytes there. -/
def sideNat (s : State) (blk h swz o n : Nat) : Nat := natOf ((List.range n).map fun j => sideByte s blk h swz (o + j))
/-- Bytes land in a handle at an offset, and its other bytes stay. -/
def Filled (s t : State) (blk h swz off : Nat) (bs : List Byte) : Prop :=
  (∀ j x, bs[j]? = some x → sideByte t blk h swz (off + j) = x) ∧
  ∀ o, o < off ∨ off + bs.length ≤ o → sideByte t blk h swz o = sideByte s blk h swz o

/-! ## Global memory -/

/-- The bytes at checked addresses of z bytes each, as the cluster of the block in focus holds them. -/
def globalBytes (s : State) (z : Nat) (as : List LaneAccess) : List Byte :=
  as.flatMap fun a => (List.range z).map fun j => clusterByte s (curCore s / 16) (a.pa + j)
/-- Accesses of device memory with no poisoned line. -/
def Plain (s : State) (as : List LaneAccess) : Prop := ∀ a ∈ as, a.host = false ∧ poisoned s a.pa = false
/-- The elements `bs j o` (element j, byte o) land at checked addresses of z bytes each in the cluster, the highest element last, and no other byte of the
cluster changes; memory stays as it was. -/
def Stored (s t : State) (z : Nat) (as : List LaneAccess) (bs : Nat → Nat → Byte) : Prop :=
  let cl := curCore s / 16
  t.mem = s.mem ∧
  (∀ (j o : Nat) a, as[j]? = some a → o < z →
    (∀ (i : Nat) b, j < i → as[i]? = some b → ¬ (b.pa ≤ a.pa + o ∧ a.pa + o < b.pa + z)) → clusterByte t cl (a.pa + o) = bs j o) ∧
  ∀ p, (∀ a ∈ as, ¬ (a.pa ≤ p ∧ p < a.pa + z)) → clusterByte t cl p = clusterByte s cl p
/-- The addresses of a row that an index list names: the list's entry is 4 bytes under the list handle's own swizzle (R308). -/
def rowOf (s : State) (r : CopyRec) : List Nat :=
  let ix := sideNat s s.cur.blk r.h (hSwz (handleAt (curBlock s) r.h)) (argOf r 0 + 4 * r.prog) 4
  (List.range (dBox r.desc 0)).map fun j => exactAddr ((dBase r.desc : Int) + ix * dStride r.desc 1 + (j * sizeOf1 s r : Nat))

/-! ## TRED -/

/-- The integer that a mode makes of a rational (R127). -/
def integerOf (m : Rnd) (dth : Nat) (x : Rat) : Int :=
  let n := (size x).floor.toNat
  let k : Nat := if size x = n then n else if takesLarger false m dth (decide (x < 0)) (n % 2 == 1) n (n + 1) (cutAt (size x)) then n + 1 else n
  if x < 0 then -(k : Int) else k
/-- TRED's result for an element and its contributions (R312): rounded once, or an integer reduced modulo 2^w. -/
def Reduces (f : Fmt) (m : Rnd) (sat : Bool) (dth : Nat) (ts : List FVal) (y : Rounded) : Prop :=
  match f, sat with
  | .int _ w, false => ((∃ t ∈ ts, t.isFinite = false) → y = sumRound f m dth ts) ∧
    ∀ xs : List Rat, (∀ t ∈ ts, Proper t) → ts.map realOf = xs.map some →
      let x := xs.foldl (· + ·) 0
      (y.code : Int) = integerOf m dth x % 2 ^ w ∧ y.flags = if (integerOf m dth x : Rat) = x then 0 else fNX
  | _, _ => y = sumRound f m dth ts

/-! ## KV rows -/

/-- The key, row index and addresses of the token row that a TKVR or TKVW moves (R310, R350, R353): sequence [31:0], layer [41:32], head [49:42], K or V
[50]. -/
structure RowAt where
  key : Nat
  row : Nat
  token : Nat
def rowAt (d : KvDesc) (x pos : Nat) : RowAt :=
  let kv := x / 2 ^ 50 % 2
  let head := x / 2 ^ 42 % 256
  ⟨x % 2 ^ 32 * 2 ^ 32 + x / 2 ^ 32 % 1024 * 2 ^ 22 + pos / d.tb, (kv * d.heads + head) * d.tb + pos % d.tb, pos % d.tb⟩
/-- The block size SB of R353. -/
def blockSize (d : KvDesc) : Nat := (2 * d.heads * d.tb * (d.rb + 1) + 255) / 256 * 256
def rowByteAt (d : KvDesc) (b row : Nat) : Nat := d.pool + b * blockSize d + row * d.rb
def scaleByteAt (d : KvDesc) (b row : Nat) : Nat := d.pool + b * blockSize d + 2 * d.heads * d.tb * d.rb + row
/-- Every row of the word is in range (R310, R363). -/
def RowsInRange (d : KvDesc) (x pos n : Nat) : Prop :=
  x / 2 ^ 32 % 1024 < d.layers ∧ x / 2 ^ 42 % 256 < d.heads ∧ pos < 2 ^ 26 ∧ pos + n ≤ 2 ^ 26
/-- Bytes land at physical addresses of memory, and no other byte changes. -/
def Landed (s t : State) (ps : List Nat) (bs : List Byte) : Prop :=
  (∀ (j p : Nat) x, ps[j]? = some p → bs[j]? = some x → p < memSize → memByte t p = x) ∧ ∀ p, p ∉ ps → memByte t p = memByte s p

end Sys2Proof.Safety
end

