-- ==== Sys2Proof/Safety/Matrix.lean ====
section
/-!
DEFINITION. The matrix sequencer's words as spec/12 and spec/13 give them: how a word ends, what an engine word captures, and what the engine's cell
work leaves; for the statements about them.
-/

namespace Sys2Proof.Safety
open Sys2Proof.Machine

/-! ## How a word of the sequencer in focus ends -/

/-- The sequencer in focus issues words (R321). -/
def MatrixRuns (s : State) : Prop := (curMat s).st = .running ∨ (curMat s).st = .waiting

/-- With its effects made in `u`, the sequencer goes on at the index `target`. -/
def matrixJumps (u : State) (target : W32) : State := setCurMat u { curMat u with mpc := target, st := .running, held := 0 }
/-- With its effects made in `u`, the sequencer goes on at the next word. -/
def matrixGoes (s u : State) : State := matrixJumps u ((curMat s).mpc + 1)
/-- The sequencer waits at its word. -/
def matrixWaits (u : State) : State := setCurMat u { curMat u with st := .waiting }

/-- A register of a sequencer as a signed number. -/
def mInt (m : Matrix) (n : BitVec 5) : Int := (readM m n.toNat).toInt

/-- The relation of `MBR` to 0, by its condition code (R323). -/
def matrixRelation (cond : BitVec 3) (x : Int) : Prop :=
  cond = 0 ∨ (cond = 1 ∧ x = 0) ∨ (cond = 2 ∧ x ≠ 0) ∨ (cond = 3 ∧ x < 0) ∨ (cond = 4 ∧ 0 ≤ x)

/-- A map reference that `MBIND` takes: no lookup, or reserved bits 30 to 19 of 0 (R326). -/
def MapReference (x : W32) : Prop := x.getLsbD 31 = true ∨ x.toNat / 2 ^ 19 % 2 ^ 12 = 0

/-- The status that `MSTAT` reads, by its code (R346). -/
def statusOf (s : State) : Nat → Nat
  | 0 => (curMat s).epc.toNat
  | 1 => (curMat s).qord.toNat
  | 2 => (curMat s).nwid.toNat
  | 3 => (curMat s).nclip.toNat
  | 4 => (curGang s).budget
  | 5 => (coreAt s (curCore s)).mirror
  | _ => s.now

/-! ## Engine words -/

/-- An engine word: its opcode, its registers md, ma and mb, and whether `EPC` counts it (R319, R322, R343). -/
def engineForm : Instr → Option (Nat × BitVec 5 × BitVec 5 × BitVec 5 × Bool)
  | .mzero => some (0x0A, 0, 0, 0, false)
  | .mma _ _ _ => some (0x0B, 0, 0, 0, false)
  | .mmas _ _ _ => some (0x0C, 0, 0, 0, false)
  | .mepi _ _ _ _ md ma mb => some (0x0D, md, ma, mb, true)
  | .mepkv _ _ _ md ma mb => some (0x0E, md, ma, mb, true)
  | .att _ _ _ _ md ma mb => some (0x0F, md, ma, mb, true)
  | _ => none

/-- The control word of an epilogue is legal: its reserved bits are 0, and its swizzle, rounding mode and type are codes in use (R338). -/
def ControlOk (c : W32) : Prop := c.toNat < 2 ^ 19 ∧ c.toNat / 2 ^ 12 % 8 ≤ 4 ∧ c.toNat / 2 ^ 9 % 8 ≤ 5 ∧ c.toNat % 32 ≤ 12
/-- The tile number of an epilogue is legal: none, or reserved bits of 0 (R338). -/
def TileOk (x : W32) : Prop := x.getLsbD 31 = true ∨ x.toNat / 2 ^ 13 % 2 ^ 18 = 0

/-- The checks of an engine word when it issues: the rounding code and format, the epilogue's control word and tile number, a KV space for the KV
words, and no odd register pair that runs past m31. -/
def EngineLegal (s : State) : Instr → Prop
  | .mepi _ _ _ _ _ ma mb => ControlOk (readM (curMat s) ma.toNat) ∧ TileOk (readM (curMat s) mb.toNat)
  | .mepkv _ rnd _ _ _ _ => rnd.toNat ≤ 5 ∧ (curLpb s).kvdesc ≠ 0
  | .att causal pf rnd _ _ _ mb => rnd.toNat ≤ 5 ∧ pf ≠ 3 ∧ (curLpb s).kvdesc ≠ 0 ∧ (causal = true → mb ≠ 31)
  | _ => True

/-- Whether an engine word takes an ordinal: an epilogue of type nf with a tile number (R341). -/
def takesOrder (s : State) : Instr → Bool
  | .mepi _ _ _ _ _ ma mb => decide ((readM (curMat s) ma.toNat).toNat % 32 = 12) && !(readM (curMat s) mb.toNat).getLsbD 31
  | _ => false

/-- What an engine word captures at issue (R321). -/
structure CapturedWord (s : State) (w : EngWord) (op : Nat) (md ma mb : BitVec 5) : Prop where
  word : w.op = op ∧ w.idx = (curMat s).mpc
  binds : w.bindA = (curMat s).binds.get Bind.zero 0 ∧ w.bindB = (curMat s).binds.get Bind.zero 1 ∧
    w.bindC = (curMat s).binds.get Bind.zero 2 ∧ w.bindMap = (curMat s).binds.get Bind.zero 3
  geometry : w.mfmt = (curMat s).mfmt ∧ w.m = 8 * ((curMat s).tm + 1) ∧ w.n = 8 * ((curMat s).tn + 1) ∧ w.k = (curMat s).tk
  regs : w.md = readM (curMat s) md.toNat ∧ w.ma = readM (curMat s) ma.toNat ∧ w.mb = readM (curMat s) mb.toNat
  counts : w.epc = (curMat s).epc ∧ w.qord = (curMat s).qord ∧ w.seq = s.nextFlight
  start : w.stage = 0 ∧ w.prog = 0 ∧ w.kstep = 0 ∧ w.begun = false ∧ w.ended = 0 ∧ w.flags = 0
  park : w.toPark = [] ∧ w.resv = false ∧ w.held = 0 ∧ w.stuck = false

/-- The C side of an engine word passes its checks for n elements (R248, R326, R348), and its handle is in the state that contributions need. -/
structure CSideOk (s : State) (gang blk : Nat) (w : EngWord) (n : Nat) : Prop where
  buffer : hBuf (bindEntry s gang blk w.bindC) = 2
  mask : inMask (hProd (bindEntry s gang blk w.bindC)) .matrix = true ∧ inMask (hCons (bindEntry s gang blk w.bindC)) .matrix = true
  range : w.bindC.off.toNat + 16 * n ≤ hExt (bindEntry s gang blk w.bindC)
  align : w.bindC.off.toNat % 16 = 0
  swizzle : hSwz (bindEntry s gang blk w.bindC) ≤ 4 ∧ (hSwz (bindEntry s gang blk w.bindC) = 0 ∨ hExt (bindEntry s gang blk w.bindC) % 128 = 0)
  state : hState (bindEntry s gang blk w.bindC) = 1

/-- The engine works on word `w`, at place `i` of a block's queue: the words before it have done their cell work, no entry of it is to be parked, and the
stream runs. -/
structure EngineHead (s : State) (gang blk i : Nat) (w : EngWord) : Prop where
  at_ : (blockAt s gang blk).mat.queue[i]? = some w
  before : ∀ j x, j < i → (blockAt s gang blk).mat.queue[j]? = some x → x.stage = 1
  own : w.stage ≠ 1
  ready : w.stuck = false ∧ w.toPark = []
  runs : (blockAt s gang blk).mat.st = .running ∨ (blockAt s gang blk).mat.st = .waiting

/-! ## Park entries -/

/-- The park entry `ref` belongs to a group's word, not to an engine word. -/
def GroupEntry (s : State) (ref : Nat) : Prop := ∀ e, entryAt s ref = some e → e.grp ≠ engineGrp ∧ e.kind ≠ 2

/-- The entry `ref` of a group's flight that holds its lane's result leaves the pool, and after the fixed-latency writes that are due the result is
written; nothing else of the registers changes, and memory keeps its bytes (R88, R164). -/
structure Resolved (s t : State) (ref : Nat) : Prop where
  freed : entryAt t ref = none
  mem : t.mem = s.mem
  written : ∀ e f n ws fl, entryAt s ref = some e → (groupAt s e.gang e.blk e.grp).flights.find? (fun f => f.id == e.flight) = some f →
    f.parked.find? (fun x => x.1 == ref % 512) = some (n, ws, fl) →
    let g := applyWrites (landAt s.now (groupAt s e.gang e.blk e.grp)) ws
    let h := groupAt t e.gang e.blk e.grp
    h.s = g.s ∧ h.v = g.v ∧ h.p = g.p ∧ h.sf = g.sf ∧ h.pc = g.pc ∧ h.mode = g.mode

end Sys2Proof.Safety
end

