-- ==== Sys2Proof/Safety/Quant.lean ====
section
/-!
DEFINITION. Blocks, scales and outliers over the rational numbers (R123, R124, R126), and round-out (R140), written from the spec, for the statements
about quantising words, engine words and accumulators.
-/

namespace Sys2Proof.Safety
open Sys2Proof.Machine

/-! ## Scales -/

/-- M: the largest finite magnitude of an element format. -/
def largestMag (n : NFmt) : Rat := gridAt (gridOf (.nar n)) (magnitudes (.nar n) - 1)
/-- C(t) ≤ M. -/
def WithinReach (n : NFmt) (t : Rat) : Prop := ∀ y, OnCurve n.curve t y → y ≤ largestMag n
/-- The scale code k stands for the positive value s. -/
def ScaleValue (sf : ScaleFmt) (k : Nat) (s : Rat) : Prop :=
  k < 2 ^ (match sf with | none => 8 | some n => n.width) ∧ 0 < s ∧ realOf (scaleDecode sf k) = some s
/-- The (c + 1)-th largest magnitude among the finite values, 0 where fewer are finite (step 1 of R126). -/
def Ranked (c : Nat) (xs : List FVal) (a : Rat) : Prop :=
  let ms := xs.filterMap fun x => (realOf x).map size
  if ms.length ≤ c then a = 0
  else a ∈ ms ∧ (ms.filter fun y => decide (a < y)).length ≤ c ∧ c < (ms.filter fun y => decide (a ≤ y)).length
/-- The scale of a block (step 2): the least value that brings a within reach; 1, or else the least value, for a = 0; and the largest one, a scale
overflow, where none does. -/
def ScaleChosen (n : NFmt) (sf : ScaleFmt) (xs : List FVal) (k : Nat) (s : Rat) (ovf : Bool) : Prop :=
  ScaleValue sf k s ∧ ∃ a, Ranked n.outl xs a ∧
    if a = 0 then ovf = false ∧ (s = 1 ∨ (∀ j, ¬ ScaleValue sf j 1) ∧ ∀ j r, ScaleValue sf j r → s ≤ r)
    else (ovf = false ∧ WithinReach n (a / s) ∧ ∀ j r, ScaleValue sf j r → WithinReach n (a / r) → s ≤ r) ∨
      (ovf = true ∧ ∀ j r, ScaleValue sf j r → ¬ WithinReach n (a / r) ∧ r ≤ s)

/-! ## Quantising a block -/

/-- x ÷ s, with the sign of a zero and what is not finite as they are. -/
def Scaled (s : Rat) (x v : FVal) : Prop :=
  match realOf x with
  | none => v = x
  | some r => Proper v ∧ realOf v = some (r / s) ∧ (r = 0 → v = x)
/-- A finite value beyond reach (step 3). -/
def Beyond (n : NFmt) (s : Rat) (x : FVal) : Prop := ∃ r, realOf x = some r ∧ ¬ WithinReach n (size r / s)
/-- The rounding of an outlier record: DITH is taken as RNE. -/
def recordMode (m : Rnd) : Rnd := if m = .dith then .rne else m

/-- The block made of values (R126): `ovf` says that its scale overflows, `far` which values lie beyond reach, `es` are its elements with their flags. The
first `OUTL` of the values beyond reach become records with a code of +0; the others are ±M with `NS` (and `NX`), a negative one +0 in a format without a
sign (log entry 110); every other value is rounded once, divided by s, with its position as dither index. -/
def QuantisedAs (n : NFmt) (sf : ScaleFmt) (m : Rnd) (phase : Nat) (xs : List FVal) (q : QBlock) (ovf : Bool) (far : List Bool) : Prop :=
  ∃ (s : Rat) (es : List Rounded), ScaleChosen n sf xs q.scale s ovf ∧ far.length = xs.length ∧ es.length = xs.length ∧
    let taken (i : Nat) : Nat := (far.take i).count true
    (∀ (i : Nat) x, xs[i]? = some x → (far[i]? = some true ↔ Beyond n s x)) ∧
    (∀ (i : Nat) x (e : Rounded), xs[i]? = some x → es[i]? = some e →
      if far[i]? = some true
      then e = if taken i < n.outl then ⟨0, (roundTo .bf16 (recordMode m) 0 x).flags⟩
        else ⟨if x.sign && !n.sgn then 0 else finiteCode (.nar n) x.sign (magnitudes (.nar n) - 1), fNS ||| fNX⟩
      else ∃ v, Scaled s x v ∧ e = roundTo (.nar n) m (i + phase) v) ∧
    q.codes = es.map Rounded.code ∧
    q.outs = ((List.range xs.length).filter fun i => far[i]? == some true && decide (taken i < n.outl)).map
      (fun i => (i, (roundTo .bf16 (recordMode m) 0 ((xs[i]?).getD .cnan)).code)) ∧
    q.flags = es.foldl (fun f e => f ||| e.flags) (if ovf then fNS else 0)
def Quantised (n : NFmt) (sf : ScaleFmt) (m : Rnd) (phase : Nat) (xs : List FVal) (q : QBlock) : Prop :=
  ∃ ovf far, QuantisedAs n sf m phase xs q ovf far

/-- A block j of VFQNT is built: one of its lanes is enabled (R219). Its values are the enabled lanes' binary32 values, and +0 for a disabled lane. -/
def builtBlock (g : Group) (n : NFmt) (j : Nat) : Bool := (List.range n.blk).any fun p => guardAt g (n.blk * j + p)
def blockInputs (g : Group) (va : BitVec 8) (n : NFmt) (j : Nat) : List FVal :=
  (List.range n.blk).map fun p => if guardAt g (n.blk * j + p) then Fmt.f32.decode (readV g va.toNat (n.blk * j + p)).toNat else .zero false
/-- The side data of lane p of a block: scale code and outlier count, then the records (R219). -/
def sideData (q : QBlock) (p : Nat) : W32 :=
  if p = 0 then BitVec.ofNat 32 (q.scale + 2 ^ 8 * q.outs.length)
  else match q.outs[p - 1]? with
    | some o => BitVec.ofNat 32 (o.1 + 2 ^ 16 * o.2)
    | none => 0

/-! ## Block records -/

/-- The number that a field of w bits at bit k of bytes holds. -/
def bitsAt (src : Nat → Byte) (k w : Nat) : Nat :=
  (List.range w).foldl (fun x i => if (src ((k + i) / 8)).getLsbD ((k + i) % 8) then x + 2 ^ i else x) 0
/-- The bytes of the codes of a block, and of the codes, the scale and the count together, rounded up to 4 (R124). -/
def codesLen (n : NFmt) : Nat := (n.blk * n.width + 7) / 8
def headLen (n : NFmt) : Nat := (codesLen n + 2 + 3) / 4 * 4
/-- The bytes from `src` on are the record of a block (R124). -/
structure RecordAt (n : NFmt) (q : QBlock) (src : Nat → Byte) : Prop where
  codes : ∀ (i : Nat) c, q.codes[i]? = some c → i < n.blk → bitsAt src (i * n.width) n.width = c % 2 ^ n.width
  scale : (src (codesLen n)).toNat = q.scale % 256
  count : (src (codesLen n + 1)).toNat = q.outs.length % 256
  gap : ∀ j, codesLen n + 2 ≤ j → j < headLen n → src j = 0
  outs : ∀ (k : Nat) o, q.outs[k]? = some o → bitsAt src (8 * (headLen n + 4 * k)) 32 = (o.2 * 2 ^ 16 + o.1) % 2 ^ 32
  rest : ∀ j, headLen n + 4 * q.outs.length ≤ j → j < headLen n + 4 * n.outl → src j = 0

/-- The value of an element of a block (R123, R124): the last record of its position, as it stands; else its code times the scale, exactly. A NaN scale
makes it the canonical NaN. An infinite code under a scale of 0, and an infinite scale, are left open (log entry 111). -/
def BlockValue (n : NFmt) (sf : ScaleFmt) (scale : Nat) (outs : List (Nat × Nat)) (p code : Nat) (v : FVal) : Prop :=
  if (scaleDecode sf scale).isNan = true then v = .nan false false 1 1
  else match (outs.filter fun o => o.1 == p).getLast? with
    | some o => v = binDecode 8 7 o.2
    | none =>
      let c := n.decode code
      (c.isNan = true → v = c) ∧
      ∀ s, realOf (scaleDecode sf scale) = some s →
        let neg := c.sign != (scaleDecode sf scale).sign
        (c.isInf = true → s ≠ 0 → v = .inf neg) ∧
        ∀ x, realOf c = some x → Proper v ∧ realOf v = some (x * s) ∧ (x * s = 0 → v = .zero neg)

/-! ## Round-out (R140) -/

/-- A finite value lies beyond the largest finite value of a format, or beyond the range of an integer type. -/
def PastEnd (f : Fmt) (x : Rat) : Prop :=
  match f with
  | .int sg w => if x < 0 then sg = true ∧ x < -((2 ^ (w - 1) : Nat) : Rat) else ((if sg then 2 ^ (w - 1) - 1 else 2 ^ w - 1 : Nat) : Rat) < x
  | .bin .. => gridAt (gridOf f) (magnitudes f - 1) < size x
  | .nar n => ¬ WithinReach n (size x)
/-- ±largest finite, or the end of the range; +0 for a negative value into a format or type without a sign. With `AS` and `NX`. -/
def saturated (f : Fmt) (neg : Bool) : Rounded :=
  ⟨if neg && (unsignedFlag f).isSome then 0 else match f with
    | .int sg w => if neg then 2 ^ (w - 1) else if sg then 2 ^ (w - 1) - 1 else 2 ^ w - 1
    | _ => finiteCode f neg (magnitudes f - 1), fAS ||| fNX⟩
/-- Binary32 and binary64, whose overflow follows R127. -/
def unlimited : Fmt → Bool
  | .bin eb fb => decide (31 ≤ eb + fb)
  | _ => false
/-- Whether a format has infinities. -/
def hasInfinity : Fmt → Bool
  | .bin .. => true
  | .nar n => n.pol == 0
  | .int .. => false
/-- `r` is D of a value in a format and mode: RoundTo, but for what saturates. -/
def RoundsOut (f : Fmt) (m : Rnd) (dth : Nat) (v : FVal) (r : Rounded) : Prop :=
  match v with
  | .fin q =>
    let low := q.isNeg && (unsignedFlag f).isSome
    (low = true ∨ unlimited f = false ∧ PastEnd f (ratOf q) → r = saturated f q.isNeg) ∧
    (low = false → unlimited f = true ∨ ¬ PastEnd f (ratOf q) → r = roundTo f m dth v)
  | .inf neg => r = if neg && (unsignedFlag f).isSome || !hasInfinity f then saturated f neg else roundTo f m dth v
  | _ => r = roundTo f m dth v

/-! ## Elements of the C-buffer (R136 to R138) -/

/-- What an element holds: a number, whose kind of zero is 0 where it is not 0; an infinity; a NaN, as binary64. -/
inductive Held where
  | num (x : Rat) (kind : Nat)
  | inf (neg : Bool)
  | nan (code : Nat)
deriving DecidableEq

/-- The canonical NaN of binary64. -/
def canonicalNan : Nat := 0x7FF8000000000000
/-- What an element holds, a class from 5 to 15 the canonical NaN (R139). The number of an escalated one is in its spill record; 1 stands for it, since no
infinity, NaN or invalid case hangs on it. -/
def heldIn (e : LaElem) : Held :=
  match laCls e with
  | 0 => if laWin e = 0 then .num 0 (e.extractLsb' 96 2).toNat else .num (laWin e * two (laAnch e)) 0
  | 1 => .num 1 0
  | 2 => .nan (e.extractLsb' 0 64).toNat
  | 3 => .inf false
  | 4 => .inf true
  | _ => .nan canonicalNan
/-- D of what an element holds is that of a value: a zero of kind 1 is +0, of kind 2 −0, and of kind 0 +0, in RDN −0 (R140). -/
def HeldValue (m : Rnd) (h : Held) (v : FVal) : Prop :=
  match h with
  | .num x k => Proper v ∧ realOf v = some x ∧ (x = 0 → v = .zero (if k = 1 then false else if k = 2 then true else m = .rdn))
  | .inf neg => v = .inf neg
  | .nan c => v = if (Fmt.f64.decode c).isNan = true then Fmt.f64.decode c else .nan false false 1 1

/-- A contribution: a number, which as a zero has a sign, an infinity, or a NaN. -/
inductive Term where
  | num (x : Rat) (neg : Bool)
  | inf (neg : Bool)
  | nan (code : Nat)
deriving DecidableEq
/-- A NaN in binary64 (R131). -/
def nan64 (v : FVal) : Nat := (roundTo .f64 .rne 0 v).code
/-- A value as a contribution. -/
def termOf (v : FVal) : Term :=
  match v with
  | .zero neg => .num 0 neg
  | .fin q => .num (ratOf q) q.isNeg
  | .inf neg => .inf neg
  | v => .nan (nan64 v)
/-- A product as a contribution, and whether it is invalid (R131, R133, R331). -/
def productTerm (zp : Bool) (x y : FVal) : Term × Bool :=
  let neg := x.sign != y.sign
  if zp && (x.isZero || y.isZero) then (.num 0 neg, false)
  else if x.isNan || y.isNan then (.nan (nan64 (if x.isNan then x else y)), x.isSig || y.isSig)
  else match realOf x, realOf y with
    | some a, some b => (.num (a * b) neg, false)
    | _, _ => if x.isZero || y.isZero then (.nan canonicalNan, true) else (.inf neg, false)
/-- The table of R138, and whether the contribution is invalid. A sum of zeros keeps its kind while all are +0, or all −0 (R132). -/
def applied (h : Held) (t : Term) : Held × Bool :=
  match h, t with
  | .nan c, _ => (.nan c, false)
  | .num _ _, .nan c | .inf _, .nan c => (.nan c, false)
  | .inf a, .inf b => if a = b then (.inf a, false) else (.nan canonicalNan, true)
  | .inf a, .num _ _ => (.inf a, false)
  | .num _ _, .inf b => (.inf b, false)
  | .num x k, .num y neg => (.num (x + y) (if x = 0 ∧ y = 0 ∧ k = (if neg then 2 else 1) then k else 0), false)
/-- Contributions in their order; whether one is invalid. -/
def contributed (h : Held) : List Term → Held × Bool
  | [] => (h, false)
  | t :: r => let a := applied h t; let b := contributed a.1 r; (b.1, a.2 || b.2)
/-- The canonical form of a number fits an element (R137). -/
def FitsElement (h : Held) : Prop :=
  match h with
  | .num x _ => x = 0 ∨ ∃ w a : Int, w % 2 = 1 ∧ -(2 ^ 95) ≤ w ∧ w < 2 ^ 95 ∧ -32768 ≤ a ∧ a ≤ 32767 ∧ x = w * two a
  | _ => True
/-- Every number on the way of contributions fits. -/
def AllFit (h : Held) (ts : List Term) : Prop := ts ≠ [] → ∀ n, n ≤ ts.length → FitsElement (contributed h (ts.take n)).1
/-- A finite element in canonical form. -/
def CanonicalElem (e : LaElem) : Prop := laCls e = 0 → laWin e = 0 ∨ laWin e % 2 = 1
/-- The sum of numbers. -/
def termSum (ts : List Term) : Rat := ts.foldl (fun x t => match t with | .num y _ => x + y | _ => x) 0
def allNumbers (ts : List Term) : Bool := ts.all fun t => match t with | .num .. => true | _ => false

/-! ## Elements as words read and write them -/

/-- The exact content of an element: that of its record, where it is escalated. -/
def ExactHeld (s : State) (gang blk e : Nat) (h : Held) : Prop :=
  let x := laAt s gang blk e
  if laCls x = 1 then ∃ q, spillRead s gang blk e x = some q ∧ h = .num (ratOf q) 0 else h = heldIn x
/-- The value of an element of C in a mode; where an escalated one's approximation interval decides, the lower end of that stands for it. -/
def ElementValue (s : State) (gang blk e : Nat) (m : Rnd) (v : FVal) : Prop :=
  let x := laAt s gang blk e
  (∃ h, ExactHeld s gang blk e h ∧ HeldValue m h v) ∨ laCls x = 1 ∧ HeldValue m (.num (laWin x * two (laAnch x)) 0) v
/-- A value as STC and ATT write it into an element: exactly, in canonical form (R285, R373). -/
def Written (v : FVal) (e : LaElem) : Prop :=
  CanonicalElem e ∧ laCls e ≠ 1 ∧ match v with
    | .zero neg => heldIn e = .num 0 (if neg then 2 else 1)
    | .fin q => heldIn e = .num (ratOf q) 0
    | .inf neg => laCls e = if neg then 4 else 3
    | v => laCls e = 2 ∧ heldIn e = .nan (nan64 v)

end Sys2Proof.Safety
end

