-- ==== Sys2Proof/Safety/Engine.lean ====
section
/-!
DEFINITION. What the words of the matrix engine compute (R328, R330, R331, R335, R338 to R342, R371 to R373), written from the spec, for the statements about
them.
-/

namespace Sys2Proof.Safety
open Sys2Proof.Machine

/-! ## Words in progress -/

/-- The engine stands at a word of operation `op` that has passed its checks: place `i` of the block's queue, with its reservation held and nothing of it
in the park queue, where `apart` asks for that. -/
structure InProgress (s : State) (gang blk i : Nat) (w : EngWord) (op : Nat) (apart : Bool) : Prop where
  head : EngineHead s gang blk i w
  op_ : w.op = op
  started : w.stage = 3
  reserved : w.resv = true
  resolved : apart = true → entriesLeft s gang blk w = false
/-- The elements of C that a word has are each its own, and none of `es` has entries that are not resolved. -/
structure ElementsFree (s : State) (gang blk : Nat) (es : List Nat) : Prop where
  distinct : es.Nodup
  free : ∀ e ∈ es, elemBusy s gang blk e = false
/-- The word at its place after its turn. -/
def wordAt (s : State) (gang blk i : Nat) : Option EngWord := (blockAt s gang blk).mat.queue[i]?

/-! ## Operands (R327, R328, R335) -/

/-- Byte j of an operand: of the read that a join keeps, else of the handle. -/
def operandByte (s : State) (gang blk : Nat) (b : Bind) (join j : Nat) : Byte :=
  match ((gangAt s gang).joins.find? fun x => x.id + 1 == join).bind fun x => x.data with
  | some d => (d[j]?).getD 0
  | none => let e := bindEntry s gang blk b; handleByte (blockAt s gang (b.block blk)) e (hSwz e) (b.off.toNat + j)
/-- The pitch of rows of k elements: their bytes rounded up to a multiple of 16. -/
def pitchOf (f : OpFmt) (k : Nat) : Nat :=
  ((match f with | .plain f => (k * f.width + 7) / 8 | .blocked n => k / n.blk * (headLen n + 4 * n.outl)) + 15) / 16 * 16
/-- Element k of a row of bytes is v: exactly what its code, and its block, stand for; a companded one is rounded to binary32 (log entry 26). -/
def RowElement (t : Task) (f : OpFmt) (src : Nat → Byte) (k : Nat) (v : FVal) : Prop :=
  match f with
  | .plain f => let x := f.decode (bitsAt src (k * f.width) f.width)
    v = if curveOf f = [] then x else Fmt.f32.decode (roundTo .f32 .rne 0 x).code
  | .blocked n =>
    let rec_ (j : Nat) : Byte := src (k / n.blk * (headLen n + 4 * n.outl) + j)
    let outs := (List.range (min (rec_ (codesLen n + 1)).toNat n.outl)).map fun i =>
      (bitsAt rec_ (8 * (headLen n + 4 * i)) 6, bitsAt rec_ (8 * (headLen n + 4 * i) + 16) 16)
    ∃ x, BlockValue n (scaleFmt t n) (rec_ (codesLen n)).toNat outs (k % n.blk) (bitsAt rec_ (k % n.blk * n.width) n.width) x ∧
      v = if n.curve = [] ∨ (outs.any fun o => o.1 == k % n.blk) = true ∨ (scaleDecode (scaleFmt t n) (rec_ (codesLen n)).toNat).isNan = true then x
        else Fmt.f32.decode (roundTo .f32 .rne 0 x).code
/-- The rows of A and of B: `a i k` and `b j k` are their values. -/
structure OperandsAre (s : State) (gang blk : Nat) (w : EngWord) (fa fb : OpFmt) (a b : Nat → Nat → FVal) : Prop where
  left : ∀ i k, i < w.m → k < w.k → RowElement (taskAt s (gangAt s gang).task) fa
    (fun o => operandByte s gang blk w.bindA w.joinA (i * pitchOf fa w.k + o)) k (a i k)
  right : ∀ j k, j < w.n → k < w.k → RowElement (taskAt s (gangAt s gang).task) fb
    (fun o => operandByte s gang blk w.bindB w.joinB (j * pitchOf fb w.k + o)) k (b j k)
/-- The product k of row i of A and row j of B is formed: MMAS skips it where either bitmap's bit is 0. -/
def formed (s : State) (gang blk : Nat) (w : EngWord) (fa fb : OpFmt) (i j k : Nat) : Bool :=
  let bit (b : Bind) (join rows pitch r : Nat) : Bool :=
    (operandByte s gang blk b join (rows * pitch + r * ((w.k + 7) / 8) + k / 8)).getLsbD (k % 8)
  w.op == 0x0B || (bit w.bindA w.joinA w.m (pitchOf fa w.k) i && bit w.bindB w.joinB w.n (pitchOf fb w.k) j)

/-! ## MMA and MMAS -/

/-- The rows and columns of the patch in progress (R330): at most 32 of each, patches in row-major order. -/
def inPatch (w : EngWord) (i j : Nat) : Bool :=
  let per := (w.n + 31) / 32
  decide (i < w.m ∧ j < w.n ∧ i / 32 = w.prog / per ∧ j / 32 = w.prog % per)
/-- Its elements of C. -/
def patchElements (s : State) (gang blk : Nat) (w : EngWord) : List Nat :=
  (List.range w.m).flatMap fun i => (List.range w.n).filterMap fun j => if inPatch w i j then some (cCell s gang blk w (i * w.n + j)) else none
/-- The number of patches of a tile. -/
def patchesOf (w : EngWord) : Nat := (w.m + 31) / 32 * ((w.n + 31) / 32)
/-- The K-step of a format (R324). -/
def kStep : OpFmt → Nat
  | .plain (.nar n) | .blocked n => if n.width ≤ 4 then 32 else 16
  | .plain f => if f.width = 32 then 2 else 8
/-- The format that an operand's code and slot in `MFMT` name, or bfloat16 where the map lookup found it widened. -/
def FormatIs (t : Task) (code slot : Nat) (wide : Bool) (f : OpFmt) : Prop :=
  if wide = true then f = .plain .bf16
  else if code = 0 then f = .plain .f16 else if code = 1 then f = .plain .bf16 else if code = 2 then f = .plain .f32
  else nfSlotOk t slot = true ∧ f = if (nfSlot t slot).blk = 0 then .plain (.nar (nfSlot t slot)) else .blocked (nfSlot t slot)
/-- The formats of A and B of a word whose blocks divide K. -/
structure MmaFormats (s : State) (gang : Nat) (w : EngWord) (fa fb : OpFmt) : Prop where
  left : FormatIs (taskAt s (gangAt s gang).task) (w.mfmt.toNat % 4) (w.mfmt.toNat / 4 % 16) w.wideA fa
  right : FormatIs (taskAt s (gangAt s gang).task) (w.mfmt.toNat / 64 % 4) (w.mfmt.toNat / 256 % 16) w.wideB fb
  blocks : (∀ n, fa = .blocked n → w.k % n.blk = 0) ∧ (∀ n, fb = .blocked n → w.k % n.blk = 0)
/-- The contributions of a K-step of `ks` to element (i, j), in increasing k, each with whether it is invalid. -/
def stepTerms (s : State) (gang blk : Nat) (w : EngWord) (fa fb : OpFmt) (ks : Nat) (a b : Nat → Nat → FVal) (i j : Nat) : List (Term × Bool) :=
  (((List.range w.k).drop (w.kstep * ks)).take ks).filterMap fun k =>
    if formed s gang blk w fa fb i j k then some (productTerm (w.mfmt.getLsbD 12) (a i k) (b j k)) else none
/-- What contributions to `base` make of an element whose old content is `old` and new content `new`, with the entries parked for it: the table of R138,
in canonical form, where the element is not escalated and every number on the way fits, or where the result is no number; else the element stays, and
the windows sum up to the contributions and, but where the spill record `keeps` it, to the base; the first entry says that it begins the record (R332). -/
def Contributes (base : Held) (escalated keeps : Bool) (old new : LaElem) (es : List ParkEntry) (ts : List Term) : Prop :=
  let r := (contributed base ts).1
  (escalated = false ∧ AllFit base ts ∨ (∀ x k, r ≠ .num x k) → heldIn new = r ∧ es = [] ∧ (ts ≠ [] → CanonicalElem new ∧ laCls new ≠ 1)) ∧
  (¬ (escalated = false ∧ AllFit base ts) → ∀ x k, base = .num x k → (∃ y z, r = .num y z) → new = old ∧
    (es.map fun p => (p.pwin : Rat) * two p.panch).sum = termSum ts + (if keeps then 0 else x) ∧
    (∀ p ∈ es, p.op2 = 0 ∧ -(2 ^ 95) ≤ p.pwin ∧ p.pwin < 2 ^ 95) ∧
    ∀ (k : Nat) p, es[k]? = some p → p.first = (decide (k = 0) && !keeps))
/-- Contributions to the element as it stands. -/
def ContributesTo (old new : LaElem) (es : List ParkEntry) (ts : List Term) : Prop :=
  Contributes (heldIn old) (laCls old == 1) (laCls old == 1) old new es ts
/-- An invalid contribution, or one to a class from 5 to 15 (R138, R139). -/
def invalidAt (old : LaElem) (ts : List (Term × Bool)) : Bool :=
  ts.any Prod.snd || (contributed (heldIn old) (ts.map Prod.fst)).2 || (decide (5 ≤ laCls old) && !ts.isEmpty)
/-- The entries of a word for an element. -/
def entriesFor (w : EngWord) (gang blk e : Nat) : List ParkEntry := w.toPark.filter fun p => p.contributes gang blk e

/-! ## Round-out into a handle (R338 to R342) -/

/-- The record of each escalated element passes its check. -/
def RecordsRead (s : State) (gang blk : Nat) (es : List Nat) : Prop :=
  ∀ e ∈ es, laCls (laAt s gang blk e) = 1 → (spillRead s gang blk e (laAt s gang blk e)).isSome = true
/-- The flag that reading classes from 5 to 15 raises. -/
def reservedClass (s : State) (gang blk : Nat) (es : List Nat) : FlagSet := if es.any fun e => decide (5 ≤ laCls (laAt s gang blk e)) then fNV else 0
/-- The byte of a row of an epilogue's destination, stored under the output swizzle. -/
def outByte (s : State) (gang blk : Nat) (w : EngWord) (f : OpFmt) (i o : Nat) : Byte :=
  let b := blockAt s gang blk
  handleByte b (handleAt b (w.x / 8 % 64)) (w.ma.toNat / 2 ^ 12 % 8) (w.md.toNat + i * pitchOf f w.n + o)
/-- The rounding mode of an epilogue. -/
def outMode (w : EngWord) : Rnd := Rnd.ofCode (w.ma.toNat / 2 ^ 9 % 8)
/-- The dither phase (R342). -/
def phaseOf (w : EngWord) : Nat := w.epc.toNat % 32
/-- The elements of one unit of the output: an element, or a block along the row. -/
def unitLen : OpFmt → Nat
  | .plain _ => 1
  | .blocked n => n.blk
/-- The output format that the control word of an epilogue names. -/
def OutputIs (s : State) (gang : Nat) (w : EngWord) (f : OpFmt) : Prop :=
  let t := taskAt s (gangAt s gang).task
  epiFmt t w.ma = some f ∧ ∀ n, f = .blocked n → w.n % n.blk = 0 ∧ ∃ k x, ScaleValue (scaleFmt t n) k x
/-- The rows that an epilogue stores from `s` in `t`, with the flags of unit k of row i: codes at their bits, or block records. -/
def RowsStored (s t : State) (gang blk : Nat) (w : EngWord) (f : OpFmt) (fl : Nat → Nat → FlagSet) : Prop :=
  ∀ i k, i < w.m → k < w.n / unitLen f → match f with
    | .plain f => ∃ v r, ElementValue s gang blk (cCell s gang blk w (i * w.n + k)) (outMode w) v ∧
        RoundsOut f (outMode w) (k % 32 + phaseOf w) v r ∧ fl i k = r.flags ∧
        bitsAt (outByte t gang blk w (.plain f) i) (k * f.width) f.width = r.code % 2 ^ f.width
    | .blocked n => ∃ xs q, xs.length = n.blk ∧ (∀ (p : Nat) v, xs[p]? = some v →
          ElementValue s gang blk (cCell s gang blk w (i * w.n + k * n.blk + p)) (outMode w) v) ∧
        Quantised n (scaleFmt (taskAt s (gangAt s gang).task) n) (outMode w) (phaseOf w) xs q ∧ fl i k = q.flags ∧
        RecordAt n q fun o => outByte t gang blk w (.blocked n) i (k * (headLen n + 4 * n.outl) + o)
/-- An element is delivered saturated (R340): an infinity that the format has not, and, unblocked, a finite value past the end; not a negative value in a
format without a sign. -/
def SaturatedAt (f : Fmt) (blocked : Bool) (v : FVal) : Prop :=
  (v.sign = true → unsignedFlag f = none) ∧
    ((∃ q, v = .fin q ∧ blocked = false ∧ PastEnd f (ratOf q)) ∨ ∃ neg, v = .inf neg ∧ hasInfinity f = false)
/-- Whether the number of saturated elements is above the threshold of the control word: none for 7, 0 for 0, else 4^(s − 1). -/
def aboveThreshold (c : W32) (n : Nat) : Bool :=
  let s := c.toNat / 2 ^ 16 % 8
  s != 7 && decide ((if s = 0 then 0 else 4 ^ (s - 1)) < n)
/-- `fails` says that a check of R340 fails for the tile: `sat` are its saturated elements, in the order of C. -/
def ChecksGive (s : State) (gang blk : Nat) (w : EngWord) (f : OpFmt) (fails : Bool) : Prop :=
  ∃ sat : List Bool, sat.length = w.m * w.n ∧ match f with
    | .plain f => (∀ k, k < w.m * w.n → ∃ v, ElementValue s gang blk (cCell s gang blk w k) (outMode w) v ∧
          (sat[k]? = some true ↔ SaturatedAt f false v)) ∧ fails = aboveThreshold w.ma (sat.count true)
    | .blocked n => ∃ bad : List Bool, bad.length = w.m * w.n / n.blk ∧ fails = (bad.contains true || aboveThreshold w.ma (sat.count true)) ∧
        ∀ k, k < w.m * w.n / n.blk → ∃ xs q ovf far, xs.length = n.blk ∧
          (∀ (p : Nat) v, xs[p]? = some v → ElementValue s gang blk (cCell s gang blk w (k * n.blk + p)) (outMode w) v ∧
            (sat[k * n.blk + p]? = some true ↔ SaturatedAt (.nar n) true v)) ∧
          QuantisedAs n (scaleFmt (taskAt s (gangAt s gang).task) n) (outMode w) (phaseOf w) xs q ovf far ∧
          (bad[k]? = some true ↔ ovf = true ∨ n.outl < far.count true)
/-- The byte of the map handle for the epilogue's tile. -/
def mapByteOf (s : State) (gang blk : Nat) (w : EngWord) : Byte :=
  let b := blockAt s gang blk
  let e := handleAt b w.bindMap.h
  handleByte b e (hSwz e) (w.mb.toNat % 2 ^ 13)
/-- The map byte of a word with a tile number stands in no row of its destination. -/
def MapApart (s : State) (gang blk : Nat) (w : EngWord) (f : OpFmt) : Prop :=
  let b := blockAt s gang blk
  let e := handleAt b w.bindMap.h
  let d := handleAt b (w.x / 8 % 64)
  (hBuf e = 0 ∧ hBuf d ≠ 0) ∨ (hBuf e ≠ 0 ∧ hBuf d = 0) ∨
    ∀ o, o < w.m * pitchOf f w.n → hBase d + swizzle (w.ma.toNat / 2 ^ 12 % 8) (w.md.toNat + o) ≠ hBase e + swizzle (hSwz e) (w.mb.toNat % 2 ^ 13)
/-- What an epilogue leaves that stores its whole tile: rows, zeroed elements where the control word asks for it, flags. -/
structure TileStored (s t : State) (gang blk : Nat) (w w' : EngWord) (f : OpFmt) : Prop where
  rows : ∃ fl, RowsStored s t gang blk w f fl ∧ ∀ b, w'.flags.getLsbD b =
    ((reservedClass s gang blk (cCells s gang blk w (w.m * w.n))).getLsbD b ||
      (List.range w.m).any fun i => (List.range (w.n / unitLen f)).any fun k => (fl i k).getLsbD b)
  elements : ∀ c, laAt t gang blk c =
    if w.ma.getLsbD 15 = true ∧ c ∈ cCells s gang blk w (w.m * w.n) then laZero 1 else laAt s gang blk c
  map : epiTiled w = true → mapByteOf t gang blk w = 0
  word : w'.stage = 1

/-! ## KV rows (R371) -/

/-- The frequencies of a rotating word. -/
def FrequenciesAre (s : State) (w : EngWord) (d : KvDesc) (os : Nat → FVal) : Prop :=
  w.x.testBit 8 = true → ∃ bs, kvBytes s d.asid d.freq (2 * d.dim) = .ok bs ∧ ∀ k, k < d.dim / 2 → os k = Fmt.f32.decode (natOf ((bs.drop (4 * k)).take 4))
/-- The value r_j of row i: the element, or its part of the rotated pair, rounded to binary32. -/
def KvRowValue (s : State) (gang blk : Nat) (w : EngWord) (os : Nat → FVal) (i j : Nat) (v : FVal) : Prop :=
  let elem (k : Nat) (x : FVal) : Prop := ElementValue s gang blk (cCell s gang blk w (i * w.n + k)) (Rnd.ofCode (w.x / 8 % 8)) x
  if w.x.testBit 8 = false then elem j v
  else ∃ x y, elem (j / 2 * 2) x ∧ elem (j / 2 * 2 + 1) y ∧
    let p := rotPair .f32 .rne 0 x y (w.mb.toNat + i) (os (j / 2))
    v = Fmt.f32.decode (if j % 2 = 0 then p.1.code else p.2.code)
/-- The codes and the scale code of a row: rounded one by one with the scale code 127, or quantised as one block without outliers, scale UE8. -/
def RowCoded (d : KvDesc) (m : Rnd) (phase : Nat) (xs : List FVal) (codes : List Nat) (scale : Nat) : Prop :=
  match d.fmt with
  | .nar n => ∃ q, Quantised { n with outl := 0 } none m phase xs q ∧ codes = q.codes ∧ scale = q.scale
  | f => scale = 127 ∧ codes = xs.mapIdx fun j x => (roundTo f m (j % 32 + phase) x).code
/-- The position of row i, its key and its place in a block. -/
def rowPos (w : EngWord) (i : Nat) : Nat := w.mb.toNat + i
def rowKey (w : EngWord) (d : KvDesc) (i : Nat) : Nat := w.md.toNat * 2 ^ 32 + w.ma.toNat % 2 ^ 10 * 2 ^ 22 + rowPos w i / d.tb
def rowPlace (w : EngWord) (d : KvDesc) (i : Nat) : Nat :=
  (w.ma.toNat / 2 ^ 18 % 2 * d.heads + w.ma.toNat / 2 ^ 10 % 2 ^ 8) * d.tb + rowPos w i % d.tb
/-- `u` is `s` with the row's cells, which stand in block k, written and `FILL` raised. -/
def rowPut (s : State) (gang : Nat) (w : EngWord) (d : KvDesc) (k i : Nat) (codes : List Nat) (scale : Nat) : State :=
  kvFill (kvPut (kvPut (closeWindow s gang) d.asid (rowByteAt d k (rowPlace w d i)) (bytesOf d.rb (packCodes d.width codes))) d.asid
    (scaleByteAt d k (rowPlace w d i)) [BitVec.ofNat 8 scale]) d k (rowPos w i % d.tb)
/-- Row i goes from `s` to `u`: its block is found, and its cells are written with the codes and the scale of its values. -/
def RowWritten (gang blk : Nat) (w : EngWord) (d : KvDesc) (i : Nat) (s u : State) : Prop :=
  ∃ k s1 os xs codes scale, kvBlock s ((blockAt s gang blk).core / 16) d (rowKey w d i) true = .ok (k, s1) ∧ FrequenciesAre s w d os ∧
    xs.length = w.n ∧ (∀ (j : Nat) v, xs[j]? = some v → KvRowValue s gang blk w os i j v) ∧
    RowCoded d (Rnd.ofCode (w.x / 8 % 8)) (phaseOf w) xs codes scale ∧ u = rowPut s1 gang w d k i codes scale
/-- The first n rows, in increasing order. -/
inductive RowsWritten (gang blk : Nat) (w : EngWord) (d : KvDesc) (s : State) : Nat → State → Prop
  | none : RowsWritten gang blk w d s 0 s
  | row (n : Nat) (t u : State) : RowsWritten gang blk w d s n t → RowWritten gang blk w d n t u → RowsWritten gang blk w d s (n + 1) u
/-- The rows from i on can be written, whatever is written into the earlier ones: no fault of the space, and every record passes its check. -/
def RowsReady (gang blk : Nat) (w : EngWord) (d : KvDesc) : Nat → Nat → State → Prop
  | 0, _, _ => True
  | n + 1, i, s => RecordsRead s gang blk (cCells s gang blk w (w.m * w.n)) ∧
    (w.x.testBit 8 = true → ∃ bs, kvBytes s d.asid d.freq (2 * d.dim) = .ok bs) ∧
    ∃ k s1, kvBlock s ((blockAt s gang blk).core / 16) d (rowKey w d i) true = .ok (k, s1) ∧
      (∃ a, kvPas s1 d.asid true (rowByteAt d k (rowPlace w d i)) d.rb = .ok a) ∧
      (∃ a, kvPas s1 d.asid true (scaleByteAt d k (rowPlace w d i)) 1 = .ok a) ∧
      ∀ codes scale, RowsReady gang blk w d n (i + 1) (rowPut s1 gang w d k i codes scale)

/-! ## ATT (R372, R373) -/

/-- The elements of O, of the scores and of the denominators of row i. -/
def outCell (s : State) (gang blk : Nat) (w : EngWord) (d : KvDesc) (i e : Nat) : Nat := cCell s gang blk w (i * d.dim + e)
def scoreCell (s : State) (gang blk : Nat) (w : EngWord) (d : KvDesc) (i p : Nat) : Nat := cCell s gang blk w (w.m * d.dim + i * d.tb + p)
def denomCell (s : State) (gang blk : Nat) (w : EngWord) (d : KvDesc) (i : Nat) : Nat := cCell s gang blk w (w.m * (d.dim + d.tb) + i)
def attElements (s : State) (gang blk : Nat) (w : EngWord) (d : KvDesc) : List Nat := cCells s gang blk w (w.m * (d.dim + d.tb + 1))
/-- How many key positions row i sees: L, and with causal none beyond q0 + i, where q0 is signed. -/
def rowLimit (w : EngWord) (i : Nat) : Nat :=
  if w.x.testBit 8 then min w.mb.toNat (w.mc.toInt + i + 1).toNat else w.mb.toNat
/-- How many of them stand in the KV block in progress. -/
def seenBy (w : EngWord) (d : KvDesc) (i : Nat) : Nat := min d.tb (rowLimit w i - w.prog * d.tb)
/-- m and l of a row, a binary32 and a binary64 code. -/
def rowM (w : EngWord) (i : Nat) : Nat := ((w.rows[i]?).getD (0, 0)).1
def rowL (w : EngWord) (i : Nat) : Nat := ((w.rows[i]?).getD (0, 0)).2
/-- The tile in progress: its space, the format of Q, and its KV block, whose rows can be read. -/
structure AttAt (s : State) (gang blk : Nat) (w : EngWord) (d : KvDesc) (f : Fmt) (k : Nat) (s1 : State) : Prop where
  space : engineKvDesc s gang = .ok d
  query : attFmt (taskAt s (gangAt s gang).task) w = some f ∧ w.k = d.dim
  block : kvBlock s ((blockAt s gang blk).core / 16) d (w.md.toNat * 2 ^ 32 + w.ma.toNat % 2 ^ 10 * 2 ^ 22 + w.prog * d.tb / d.tb) false = .ok (k, s1)
  rows : ∀ kv i p, kv < 2 → i < w.m → p < seenBy w d i → let row := (kv * d.heads + w.ma.toNat / 2 ^ 10 % 2 ^ 8) * d.tb + p
    (∃ bs, kvBytes s1 d.asid (rowByteAt d k row) d.rb = .ok bs) ∧ ∃ sc, kvBytes s1 d.asid (scaleByteAt d k row) 1 = .ok sc
/-- Element e of the K row (kv 0) or V row (kv 1) of token p: its code times 2^(scale − 127), exactly; a scale code of 255 makes it the canonical NaN
(R354). -/
def KvValue (s1 : State) (w : EngWord) (d : KvDesc) (k kv p e : Nat) (v : FVal) : Prop :=
  let row := (kv * d.heads + w.ma.toNat / 2 ^ 10 % 2 ^ 8) * d.tb + p
  ∃ bs sc, kvBytes s1 d.asid (rowByteAt d k row) d.rb = .ok bs ∧ kvBytes s1 d.asid (scaleByteAt d k row) 1 = .ok [sc] ∧
    if sc = 255 then v = .nan false false 1 1
    else
      let c := d.fmt.decode (bitsAt (fun j => (bs[j]?).getD 0) (e * d.width) d.width)
      match realOf c with
      | none => v = c
      | some x => Proper v ∧ realOf v = some (x * two ((sc.toNat : Int) - 127)) ∧ (x = 0 → v = c)
/-- The rounding of a score, or of a denominator, to a format in RNE. -/
def Decided (s : State) (gang blk e : Nat) (f : Fmt) (code : Nat) : Prop := ∃ v, ElementValue s gang blk e .rne v ∧ code = (roundTo f .rne 0 v).code
/-- The P format. -/
def pFormat (w : EngWord) : Fmt := if w.x / 64 % 4 = 0 then .f32 else if w.x / 64 % 4 = 1 then .bf16 else .nar (NFmt.ofBits 0xC60E8000 [])
/-- The elements of a K-step of the scores, and the K-steps of a KV block (R375). -/
def scoreStep (f : Fmt) (d : KvDesc) : Nat := min (kStep (.plain f)) (kStep (.plain d.fmt))
def scoreSteps (f : Fmt) (d : KvDesc) : Nat := (d.dim + scoreStep f d - 1) / scoreStep f d
/-- VFMAX of two binary32 codes. -/
def maxCode (a b : Nat) : Nat := (minMax .f32 true (Fmt.f32.decode a) (Fmt.f32.decode b) a b).code
/-- What a KV block makes of row i before its sums (R373): `sc` are its scores, `mn` the new m, `pr` the weights and `a` the factor of the old sums. -/
structure RowDecided (s : State) (gang blk : Nat) (w : EngWord) (d : KvDesc) (i : Nat) (sc pr : Nat → Nat) (mn a : Nat) : Prop where
  scores : ∀ p, p < seenBy w d i → Decided s gang blk (scoreCell s gang blk w d i p) .f32 (sc p)
  top : mn = let m := ((List.range (seenBy w d i)).drop 1).foldl (fun m p => maxCode m (sc p)) (sc 0); if w.prog = 0 then m else maxCode (rowM w i) m
  weights : ∀ p, p < seenBy w d i → pr p = ((exactlySmx .f32 .rne 0 (Fmt.f32.decode (sc p)) (Fmt.f32.decode mn)).round .f32 .rne 0).code
  factor : a = if w.prog = 0 then 0 else ((exactlySmx .f64 .rne 0 (Fmt.f32.decode (rowM w i)) (Fmt.f32.decode mn)).round .f64 .rne 0).code
/-- A contribution as what an element holds. -/
def heldOfTerm : Term → Held
  | .num y neg => .num y (if y = 0 then (if neg then 2 else 1) else 0)
  | .inf neg => .inf neg
  | .nan c => .nan c
/-- A product as what an element holds; a zero numerator keeps its kind under a finite factor (R138). -/
def productHeld (a : FVal) (h : Held) (v : FVal) : Held :=
  match h, realOf a with
  | .num x k, some _ => if x = 0 then .num 0 k else heldOfTerm (productTerm false a v).1
  | _, _ => heldOfTerm (productTerm false a v).1
end Sys2Proof.Safety
end

