-- ==== Sys2Proof/Safety/Memory.lean ====
section
/-!
DEFINITION. The forms of the memory, buffer and synchronisation words and what they store, written from spec/10 and spec/14, for the statements
about them.
-/

namespace Sys2Proof.Safety
open Sys2Proof.Machine

/-! ## Global memory words -/

/-- The bytes of an element of a type (R267). -/
def elemBytes (e : Nat) : Nat :=
  if e = 12 then 1 else if e < 8 then 2 ^ (e % 4) else if e = 8 ∨ e = 9 then 2 else if e = 10 then 4 else 8

/-- A load: its path, its access class (R269), whether it acquires, and its operands v, va and s pair (R270). -/
def loadForm : Instr → Option (LoadPath × AccessClass × BitVec 8 × BitVec 8 × BitVec 5)
  | .ld v a n _ => some (.ld, .read, v, a, n)
  | .ldf v a n _ => some (.ldf, .read, v, a, n)
  | .ldd v a n _ => some (.ldd, .device, v, a, n)
  | .lda v a n sc => some (if sc.toNat ≤ 3 then .ldf else .ldd, if sc.toNat ≤ 3 then .read else .device, v, a, n)
  | _ => none

/-- A store: whether it is performed at the memory side, its access class, its scope where it releases, and its operands (R261, R270). -/
def storeForm : Instr → Option (Bool × AccessClass × Option Nat × BitVec 8 × BitVec 8 × BitVec 5)
  | .st v a n _ => some (false, .write, none, v, a, n)
  | .stnt v a n _ => some (true, .write, none, v, a, n)
  | .std v a n _ => some (true, .device, none, v, a, n)
  | .stl v a n sc => some (decide (4 ≤ sc.toNat), if sc.toNat ≤ 3 then .write else .device, some sc.toNat, v, a, n)
  | _ => none

/-- The byte that a store word leaves at a physical address of device memory: that of the highest lane whose element holds the address (R268);
none where no lane's does. -/
def storedByte (g : Group) (v : BitVec 8) (z : Nat) (wide : Bool) (ls : List LaneAccess) (a : Nat) : Option Byte :=
  (ls.reverse.find? fun x => !x.host && decide (x.pa ≤ a ∧ a < x.pa + z)).map fun x =>
    BitVec.ofNat 8 (laneBits g v.toNat x.lane wide / 2 ^ (8 * (a - x.pa)))

/-- Room for a word's stores in the gang's store buffer and its cluster's: a word makes at most 256 lines (R258). -/
def StoreRoom (s : State) : Prop :=
  (curGang s).store.length + 256 ≤ 8192 ∧ clusterStoreLines s (curGang s).cluster + 256 ≤ 49152

/-- An atomic: its operation and operands (R275 to R278). -/
def atomicForm : Instr → Option (AtomicOp × BitVec 8 × BitVec 8 × BitVec 5 × BitVec 3)
  | .aadd v a n sc => some (.add, v, a, n, sc)
  | .afadd v a n sc => some (.fadd, v, a, n, sc)
  | .amin v a n sc => some (.min, v, a, n, sc)
  | .amax v a n sc => some (.max, v, a, n, sc)
  | .aand v a n sc => some (.and, v, a, n, sc)
  | .aor v a n sc => some (.or, v, a, n, sc)
  | .axor v a n sc => some (.xor, v, a, n, sc)
  | .axchg v a n sc => some (.xchg, v, a, n, sc)
  | .acas v a n sc => some (.cas, v, a, n, sc)
  | _ => none

/-- The class of an atomic's access (R269). -/
def atomicClass (sc : BitVec 3) : AccessClass := if sc.toNat ≤ 3 then .atomic else .device
/-- Whether an atomic's result could depend on the order of other agents (R60, R279): its old value is read at a scope that is not ordered, or
it adds floating-point numbers and reads. -/
def orderShows (o : AtomicOp) (v : BitVec 8) (sc : BitVec 3) : Prop := v ≠ 0 ∧ (o = .fadd ∨ 3 ≤ sc.toNat)
/-- Whether a reproducible task holds the contribution for its end (R280). -/
def isContribution (o : AtomicOp) (v : BitVec 8) (sc : BitVec 3) : Prop := v = 0 ∧ (o = .fadd ∨ 3 ≤ sc.toNat)

/-- The new element of an integer atomic, of old value e, operand x and compare value c (R276, R277). -/
def newElement (o : AtomicOp) (signed : Bool) {w : Nat} (e x c : BitVec w) : BitVec w :=
  match o with
  | .add => e + x
  | .min => if (if signed then x.slt e else x.ult e) then x else e
  | .max => if (if signed then e.slt x else e.ult x) then x else e
  | .and => e &&& x
  | .or => e ||| x
  | .xor => e ^^^ x
  | .xchg => x
  | .cas => if e = c then x else e
  | .fadd => e

/-- The enabled lanes with their addresses: base pair plus the lane's 32-bit offset (R267). -/
def laneAddresses (g : Group) (n : BitVec 5) (va : BitVec 8) : List (Nat × Nat) :=
  (lanesOn g).map fun l => (l, (readPair g (2 * n.toNat)).toNat + (readV g va.toNat l).toNat)

/-- No acquire of the group whose own access awaits its response, and no FENCE whose release awaits one, holds back its global accesses, or for
`device` its device-class accesses, which one narrower than device scope does not hold (R271, R273). -/
def NotHeld (s : State) (device : Bool) : Prop :=
  (∀ a ∈ groupHostWaits s, ¬ (2 ≤ a.kind ∧ a.kind ≤ 4 ∧ (device = false ∨ 4 ≤ a.scope))) ∧
  ∀ f ∈ (curGroup s).flights, (device = false ∨ ∃ sc, f.fence = some sc ∧ 4 ≤ sc) → ∀ a ∈ groupHostWaits s, fenceBehind f a = false
/-- A release at system scope waits for none of the group's host accesses: only `STNT`s are outstanding (R271). -/
def OnlyStnt (s : State) : Prop := ∀ a ∈ groupHostWaits s, a.nt = true

/-- Each lane's contribution has room in its base die's buffer (R265). -/
def DieRoom (s : State) (ls : List LaneAccess) : Prop := ∀ a ∈ ls, (inBuffer s (dieOf a.pa)).length + ls.length ≤ 262144

/-- Two states in which every gang and every reader of device memory sees the same bytes. -/
structure SameBytes (s t : State) : Prop where
  mem : t.mem = s.mem
  gangs : ∀ gang a, gangByte t gang a = gangByte s gang a

/-! ## Typed buffers -/

/-- The tests of R248 and R281 on a group's access through a handle entry pass, for lanes with their offsets and elements of `size` bytes: the buffer is
one that the word reaches (R244), the groups' bit stands in `CONS` for a read and in `PROD` for a write, each lane's range lies within `EXT`, each offset
is a multiple of the size, `SWZ` is legal, a read finds the swizzle that it expects, and the state permits the access. Of a word that has waited for the
state (`waited`), the last two are tested again. -/
structure HandleReady (waited : Bool) (e : BitVec 128) (bufs : List (BitVec 2)) (a : HAccess) (size : Nat) (ls : List (Nat × Nat)) : Prop where
  buffer : waited = false → e.extractLsb' 126 2 ∈ bufs
  consumer : waited = false → a ≠ .write → e.getLsbD 32 = true
  producer : waited = false → a ≠ .read → e.getLsbD 40 = true
  within : waited = false → ∀ l ∈ ls, l.2 + size ≤ (e.extractLsb' 64 20).toNat
  aligned : waited = false → ∀ l ∈ ls, l.2 % size = 0
  swizzle : waited = false → (e.extractLsb' 51 4).toNat < 5 ∧ (e.extractLsb' 51 4 = 0 ∨ (e.extractLsb' 64 20).toNat % 128 = 0)
  matches_ : a = .read → e.getLsbD 118 = false ∨ e.extractLsb' 119 4 = e.extractLsb' 51 4
  readable : a = .read → e.extractLsb' 124 2 = 2 ∨ e.extractLsb' 124 2 = 3
  writable : a ≠ .read → e.extractLsb' 124 2 = 1

/-- The state after a typed-buffer word that has made its effects, in `t`: its register writes and flags are in flight under BFC, and the flight names the
handle that it reads or writes (R245, R394). -/
def afterBuffer (i : Instr) (s t : State) (h : BitVec 6) (reads writes : Bool) (ws : List RegWrite) (f : FlagSet) : State :=
  after i s (noteFlight (launchFlight t ws f .bfc false) t.nextFlight fun x => { x with hnd := some (h.toNat, reads, writes) })

/-- No element of the lanes' offsets is pending: none has a contribution that is not applied (R332). -/
def NonePending (s : State) (blk : Nat) (e : BitVec 128) (swz : Nat) (ls : List (Nat × Nat)) : Prop :=
  ∀ l ∈ ls, elemPending s s.cur.gang blk (laIndex e swz l.2) = false

/-- The state after a QPOP that has its answer, in `t`: the entry and the status are in flight, and s[sd] to s[sd + 16] are locked (R398). -/
def afterPop (i : Instr) (s t : State) (sd : BitVec 9) (ws : List W32) (st : W32) : State :=
  after i s (noteFlight (launchFlight t (ws.mapIdx (fun j x => .s (sd.toNat + j) x) ++ [.s (sd.toNat + 16) st]) 0 .none false) t.nextFlight
    fun f => { f with lockS := (List.range 17).map (sd.toNat + ·) })

/-! ## Barriers -/

/-- A barrier word: its barrier, 0 to 15 for b and 16 to 19 for g, and its mode: 0 arrives and waits, 1 arrives, 2 waits (R391, R392). -/
def barrierForm : Instr → Option (Nat × Nat)
  | .bar b => some (b.toNat, 0)
  | .bara b => some (b.toNat, 1)
  | .barw b => some (b.toNat, 2)
  | .gbar g m => some (16 + g.toNat, m.toNat)
  | _ => none

/-- The participants of a barrier (R26). -/
def participants (s : State) (b : Nat) : Nat :=
  if b < 16 then ((curLpb s).barcnt[b]?).getD 0 else ((curLpb s).gbarcnt[b - 16]?).getD 0

end Sys2Proof.Safety
end

