-- ==== Sys2Proof/Safety/Kv.lean ====
section
/-!
DEFINITION. The KV map, the block descriptors and the free list as they stand in memory (R355 to R359), for the statements about the map words.
-/

namespace Sys2Proof.Safety
open Sys2Proof.Machine

/-! ## Places in memory -/

/-- Ranges of physical addresses, as first address and length, lie in device memory and overlap nowhere. -/
def Separate (rs : List (Nat × Nat)) : Prop :=
  (∀ r ∈ rs, r.1 + r.2 ≤ memSize) ∧ rs.Pairwise fun a b => a.1 + a.2 ≤ b.1 ∨ b.1 + b.2 ≤ a.1
/-- The addresses of the table entries that a walk from a table down reads (R235). -/
def walkReads (s : State) (va : Nat) : Nat → Nat → List Nat
  | 0, _ => []
  | level + 1, table =>
    let a := table + 8 * pteIndex level va
    let e := memNat s a 8
    a :: if pteV e && !pteMalformed level e && !pteLeaf e then walkReads s va level (ptePa e) else []
/-- The entries that translate an address, of the address-space table and of the page tables (R234). -/
def tableEntries (s : State) (asid va : Nat) : List Nat :=
  let r := s.mgmt.astbase + 8 * (asid % 2 ^ 16)
  r :: walkReads s va 4 (memNat s r 8 / 2 ^ 16 % 2 ^ 32 * 2 ^ 16)
/-- No entry that translates one of the addresses stands in one of the ranges. -/
def TablesApart (s : State) (asid : Nat) (vas : List Nat) (rs : List (Nat × Nat)) : Prop :=
  ∀ va ∈ vas, ∀ a ∈ tableEntries s asid va, ∀ r ∈ rs, a + 8 ≤ r.1 ∨ r.1 + r.2 ≤ a
/-- No byte outside the ranges differs. -/
def OnlyIn (s t : State) (rs : List (Nat × Nat)) : Prop := ∀ p, (∀ r ∈ rs, p < r.1 ∨ r.1 + r.2 ≤ p) → memByte t p = memByte s p

/-! ## The map (R355) -/

/-- The fields of entry i of the bucket at a physical address. -/
def entryKey (s : State) (h i : Nat) : Nat := memNat s (h + 32 * i) 8
def entryBlk (s : State) (h i : Nat) : Nat := memNat s (h + 32 * i + 8) 4
def entrySt (s : State) (h i : Nat) : Nat := memNat s (h + 32 * i + 12) 4 % 4
/-- The virtual address of a key's home bucket. -/
def homeVa (d : KvDesc) (key : Nat) : Nat := d.map + 256 * d.home key
/-- The chain of a key is its home bucket alone, at the physical address h, and is not corrupt. -/
structure OneBucket (s : State) (d : KvDesc) (key h : Nat) : Prop where
  place : ∀ write, kvReadPa s d.asid (homeVa d key) 256 write = .ok h
  legal : ∀ i, i < 8 → entrySt s h i ≤ 1 ∧ (entrySt s h i = 1 → entryBlk s h i < d.nblk)
/-- Entry i alone maps the key, to block k. -/
def MapsAt (s : State) (h i key k : Nat) : Prop :=
  i < 8 ∧ entrySt s h i = 1 ∧ entryKey s h i = key ∧ entryBlk s h i = k ∧ ∀ j, j < 8 → j ≠ i → ¬ (entrySt s h j = 1 ∧ entryKey s h j = key)
def Unmapped (s : State) (h key : Nat) : Prop := ∀ j, j < 8 → ¬ (entrySt s h j = 1 ∧ entryKey s h j = key)
/-- Entry i is the first empty one. -/
def FirstEmpty (s : State) (h i : Nat) : Prop := i < 8 ∧ entrySt s h i = 0 ∧ ∀ j, j < i → entrySt s h j ≠ 0
/-- Entry i now maps the key to block k, and the others are as before. -/
def EntryPut (s t : State) (h i key k : Nat) : Prop :=
  entrySt t h i = 1 ∧ entryKey t h i = key ∧ entryBlk t h i = k ∧
    ∀ j, j < 8 → j ≠ i → entrySt t h j = entrySt s h j ∧ entryKey t h j = entryKey s h j ∧ entryBlk t h j = entryBlk s h j
/-- Entry i is now empty, and the others are as before. -/
def EntryEmptied (s t : State) (h i : Nat) : Prop :=
  entrySt t h i = 0 ∧ ∀ j, j < 8 → j ≠ i → entrySt t h j = entrySt s h j ∧ entryKey t h j = entryKey s h j ∧ entryBlk t h j = entryBlk s h j

/-! ## Blocks and the free list (R358, R359) -/

/-- The record of block k stands at the physical address b, readable and writable. -/
def RecordOf (s : State) (d : KvDesc) (k b : Nat) : Prop := ∀ write, kvReadPa s d.asid (d.bda + 16 * k) 16 write = .ok b
def blkRef (s : State) (b : Nat) : Nat := memNat s b 4
def blkFill (s : State) (b : Nat) : Nat := memNat s (b + 4) 2
def blkFlg (s : State) (b : Nat) : Nat := memNat s (b + 6) 1
def blkNext (s : State) (b : Nat) : Nat := memNat s (b + 8) 4
/-- The head of the free list, and its count. -/
def freeHead (s : State) (d : KvDesc) : Nat := memNat s (d.pa + 0x40) 4
def freeCount (s : State) (d : KvDesc) : Nat := memNat s (d.pa + 0x44) 4
/-- `REF` becomes r, with `SHARED` set exactly while it is above 1, and the other flags as before. -/
def Counted (s t : State) (b r : Nat) : Prop :=
  blkRef t b = r % 2 ^ 32 ∧ (blkFlg t b).testBit 2 = decide (1 < r) ∧ ∀ k, k ≠ 2 → (blkFlg t b).testBit k = (blkFlg s b).testBit k
/-- The free list is as before. -/
def SameFree (s t : State) (d : KvDesc) : Prop := freeHead t d = freeHead s d ∧ freeCount t d = freeCount s d

/-- The state after a map word that has made its effects, in `t`, with its results in flight (R365). -/
def afterMapWord (i : Instr) (s t : State) (ws : List RegWrite) : State := afterLaunch i s t ws 0 .bfc

end Sys2Proof.Safety
end

