-- ==== Sys2Proof/Safety/Launch.lean ====
section
/-!
DEFINITION. The launch checks of R22 over the bytes of the block and the tables, and the edge actions of R73 to R76 line by line, for the statements about
the dispatcher.
-/

namespace Sys2Proof.Safety
open Sys2Proof.Machine

/-! ## The launch checks -/

/-- The first check of a list that fails, by its code; none when no check fails. -/
def FirstFails : List (Nat × Prop) → Option Nat → Prop
  | [], r => r = none
  | (code, p) :: rest, r => (p ∧ r = some code) ∨ (¬ p ∧ FirstFails rest r)

/-- R18, R19, R22 step 1: the checks on the block's own fields. -/
def blockChecks (b : List Byte) : List (Nat × Prop) :=
  let n := natAt b
  let outside (lo x hi : Nat) : Prop := x < lo ∨ hi < x
  [ (0x01, n 0x22 1 / 2 ^ 4 ≠ 0 ∨ n 0x23 1 / 2 ^ 6 ≠ 0 ∨ n 0x2A 2 / 2 ^ 9 ≠ 0 ∨ n 0x2A 2 / 2 ^ 4 % 4 ≠ 0 ∨ n 0x2C 1 / 2 ^ 2 ≠ 0 ∨ n 0x66 1 / 2 ^ 5 ≠ 0 ∨
      n 0x67 1 ≠ 0 ∨ n 0xBC 4 ≠ 0),
    (0x02, outside 1 (n 0x18 4) (2 ^ 20) ∨ outside 1 (n 0x1C 4) (2 ^ 20) ∨ 2 ^ 28 < n 0x18 4 * n 0x1C 4 ∨ outside 1 (n 0x20 1) 16 ∨
      outside 1 (n 0x21 1) 64 ∨ 16 < n 0x2D 1 ∨ 8 < n 0x2E 1 ∨ 64 < n 0x2F 1 ∨ 15 < n 0x66 1 % 32 ∨ outside 1 (n 0xB8 4) (2 ^ 16) ∨
      124 < n 0x24 2 ∨ 128 < n 0x26 2 ∨ 64 < n 0x28 2),
    (0x03, n 0 8 % 32 ≠ 0 ∨ n 0 8 = 0 ∨ n 8 8 % 4 ≠ 0 ∨ n 0x10 8 % 4 ≠ 0 ∨ n 0x48 8 % 16 ≠ 0 ∨ n 0x50 8 % 32 ≠ 0 ∨ n 0x58 8 % 32 ≠ 0 ∨
      n 0x68 8 % 256 ≠ 0 ∨ n 0x70 8 % 256 ≠ 0 ∨ n 0x80 8 % 64 ≠ 0 ∨ n 0xA0 8 % 16 ≠ 0 ∨ n 0xA8 8 % 8 ≠ 0) ]

/-- The tables of a block: the address, the number of records and their length. -/
def tablesOf (b : List Byte) : List (Nat × Nat × Nat) :=
  [(natAt b 0x48 8, natAt b 0x2F 1, 16), (natAt b 0x50 8, natAt b 0x2D 1, 32), (natAt b 0x58 8, natAt b 0x2E 1, 32)]
/-- The companding tables that a block's descriptors name (R125): the number and the address. -/
def curvesOf (b : List Byte) : List (Nat × Nat) :=
  ((List.range 16).map fun i => natAt b (0xC0 + 4 * i) 4 / 2 ^ 5 % 2 ^ 4).filterMap fun j =>
    if j = 0 then none else some (j, natAt b 0x58 8 + 32 * natAt b 0x2E 1 + 128 * (j - 1))
/-- Some byte of an area cannot be translated for reading. -/
def Unreadable (s : State) (asid va len : Nat) : Prop := ∃ o, o < len ∧ ∃ c, translateBare s asid (va + o) .read true = .error c
/-- The records of a table, as they are read. -/
def TableHolds (s : State) (asid va n k : Nat) (recs : List (List Byte)) : Prop :=
  recs.length = n ∧ ∀ i r, recs[i]? = some r → r.length = k ∧
    ∀ o x, r[o]? = some x → ∃ pa, translateBare s asid (va + k * i + o) .read true = .ok pa ∧ x = memByte s pa

/-- A signed field of n bytes. -/
def signedAt (b : List Byte) (o n : Nat) : Int := (BitVec.ofNat (8 * n) (natAt b o n)).toInt
/-- The base of a region record's instance for the gang at (x, y) (R24). -/
def instanceBase (r : List Byte) (x y : Nat) : Int := (natAt r 0 8 % 2 ^ 52 : Nat) + x * signedAt r 0x10 8 + y * signedAt r 0x18 8

/-- A core as it would be when empty: its partitions that are not fenced. -/
def openParts (s : State) (core : Nat) : Nat := ((List.range 8).filter fun p => !(coreAt s core).fencedParts.contains p).length
/-- R21: the partitions of an empty core hold the groups of a block with nv registers per lane. -/
def HoldsBlock (s : State) (core nv groups : Nat) : Prop := (coreAt s core).fenced = false ∧ groups ≤ openParts s core * min 8 (512 / nv)
/-- R407: a partition of a core that holds `groups` groups of nv registers, dealt in turn, has room for a handler slot of 64. -/
def HoldsHandler (s : State) (core nv groups : Nat) : Prop :=
  (coreAt s core).fenced = false ∧ ∃ p, p < openParts s core ∧
    let k := groups / openParts s core + (if p < groups % openParts s core then 1 else 0)
    k < 8 ∧ k * nv + 64 ≤ 512
/-- Check 0x0A: some cluster that is not fenced can hold a block, and the handler slot beside it. -/
def SomewhereFits (s : State) (nv groups : Nat) : Prop :=
  ∃ cl i j, cl < 16 ∧ i < 16 ∧ j < 16 ∧ (clusterAt s cl).fenced = false ∧ HoldsBlock s (cl * 16 + i) nv groups ∧
    HoldsHandler s (cl * 16 + j) nv (if i = j then groups else 0)

/-- R23 to R27, R31, R22 steps 3 to 5: the checks on the copied tables, `hs` the handle records, `rs` the region records, `ds` the dependence records,
and the later codes. -/
def tableChecksOf (s : State) (b : List Byte) (hs rs ds : List (List Byte)) : List (Nat × Prop) :=
  let n := natAt b
  [ (0x01, (∃ r ∈ hs, natAt r 0 4 / 2 ^ 20 % 2 ^ 7 ≠ 0 ∨ natAt r 4 4 / 2 ^ 20 ≠ 0 ∨ natAt r 8 4 / 2 ^ 16 % 2 ^ 3 ≠ 0 ∨ natAt r 8 4 / 2 ^ 12 % 2 ^ 4 ≠ 0 ∨
        natAt r 8 4 / 2 ^ 4 % 2 ^ 4 ≠ 0 ∨ natAt r 12 4 / 2 ^ 6 ≠ 0) ∨
      (∃ r ∈ rs, natAt r 0 8 / 2 ^ 62 ≠ 0 ∨ natAt r 0 8 / 2 ^ 52 % 2 ^ 4 ≠ 0 ∨ natAt r 8 8 / 2 ^ 52 ≠ 0) ∨ ∃ r ∈ ds, natAt r 0x11 3 ≠ 0),
    (0x03, (∃ r ∈ hs, natAt r 0 4 / 2 ^ 30 = 2 ∧ (natAt r 0 4 % 2 ^ 20 % 16 ≠ 0 ∨ natAt r 4 4 % 2 ^ 20 % 16 ≠ 0)) ∨
      ∃ r ∈ rs, natAt r 0 8 % 2 ^ 52 % 128 ≠ 0 ∨ natAt r 8 8 % 2 ^ 52 = 0 ∨ natAt r 8 8 % 2 ^ 52 % 128 ≠ 0 ∨
        signedAt r 0x10 8 % 128 ≠ 0 ∨ signedAt r 0x18 8 % 128 ≠ 0),
    (0x04, 10 < n 0x23 1 / 4 % 16 ∨ n 0x2A 2 / 2 ^ 6 % 4 = 3 ∨ (∃ r ∈ rs, 4 < natAt r 0 8 / 2 ^ 56 % 8) ∨ (∃ r ∈ ds, 2 < natAt r 0x10 1) ∨
      ∃ r ∈ hs, natAt r 0 4 / 2 ^ 30 = 3),
    (0x05, (∃ i, i < 16 ∧ n 0x21 1 + 2 < n (0x30 + i) 1) ∨ ∃ i, i < 4 ∧ n 0x20 1 * (n 0x21 1 + 2) < n (0x40 + 2 * i) 2),
    (0x06, ∃ r ∈ rs, ∃ x y, (x = 0 ∨ x = n 0x18 4 - 1) ∧ (y = 0 ∨ y = n 0x1C 4 - 1) ∧
      (instanceBase r x y < 0 ∨ 2 ^ 52 < instanceBase r x y + (natAt r 8 8 % 2 ^ 52 : Nat))),
    (0x07, ∃ r ∈ hs, 4096 * n (0x24 + 2 * (natAt r 0 4 / 2 ^ 30)) 2 < natAt r 0 4 % 2 ^ 20 + natAt r 4 4 % 2 ^ 20),
    (0x08, ∃ r ∈ ds, natAt r 0x10 1 ≠ 0 ∧ natAt r 0 8 = 0),
    (0x09, n 0x2A 2 / 2 ^ 8 % 2 = 1 ∧ (n 0x1C 4 ≠ 1 ∨ n 0xB0 4 = 0 ∨ n 0xB4 2 < 4 ∨ 256 < n 0xB4 2 ∨ n 0xB4 2 % 4 ≠ 0 ∨ n 0xB6 2 = 0)),
    (0x0A, ¬ SomewhereFits s (16 * (n 0x22 1 % 16 + 1)) (n 0x21 1)) ]

/-- A task that does not start: its record, if it has an address, and the task-error interrupt with the queue and `DONE` (R22, R436, R443). -/
def refused (s : State) (q kind code done : Nat) (pa : Option Nat) : State :=
  sendIntr (match pa with
    | none => s
    | some a => memWrite s a (bytesOf 4 (2 ^ 31 + kind * 2 ^ 24 + code * 2 ^ 16) ++ List.replicate 12 0)) 3 q done

/-- A region record's fields (R23). -/
def regionFields (r : List Byte) : Region :=
  { base := natAt r 0 8 % 2 ^ 52, ext := natAt r 8 8 % 2 ^ 52, sx := signedAt r 0x10 8, sy := signedAt r 0x18 8, kind := natAt r 0 8 / 2 ^ 56 % 8,
    fl := natAt r 0 8 / 2 ^ 59 % 2 == 1, inv := natAt r 0 8 / 2 ^ 60 % 2 == 1, fwd := natAt r 0 8 / 2 ^ 61 % 2 == 1 }
/-- A dependence record's fields (R27), but for the task it names. -/
def depFields (r : List Byte) (producer : Option Nat) : Dep :=
  { pbmap := natAt r 0 8, pgx := natAt r 8 4, pgy := natAt r 12 4, kind := natAt r 16 1, ax := signedAt r 0x14 2, bx := signedAt r 0x16 2,
    cx := signedAt r 0x18 2, ay := signedAt r 0x1A 2, byy := signedAt r 0x1C 2, cy := signedAt r 0x1E 2, producer := producer }
/-- A handle record: its handle's number and its entry, whose first three words are the record's (R25, R247). -/
def handleFields (r : List Byte) : Nat × BitVec 128 :=
  (natAt r 12 4, (BitVec.ofNat 32 (natAt r 0 4) ++ BitVec.ofNat 32 (natAt r 4 4) ++ BitVec.ofNat 32 (natAt r 8 4) ++ (0 : BitVec 32) : BitVec (32 + 32 + 32 + 32)))

/-- R18, R19: a task's parameters as the block's bytes give them. -/
def ParametersOf (b : List Byte) (l : Lpb) : Prop :=
  let n := natAt b
  let bit (k : Nat) : Bool := n 0x2A 2 / 2 ^ k % 2 == 1
  l.gentry = n 0 8 ∧ l.mentry = n 8 8 ∧ l.tentry = n 0x10 8 ∧ l.gridx = n 0x18 4 ∧ l.gridy = n 0x1C 4 ∧ l.blocks = n 0x20 1 ∧ l.groups = n 0x21 1 ∧
  l.regsC = n 0x22 1 ∧ l.order = n 0x23 1 % 4 ∧ l.panel = n 0x23 1 / 4 ∧ l.abuf = n 0x24 2 ∧ l.wbuf = n 0x26 2 ∧ l.cbuf = n 0x28 2 ∧
  l.job = bit 8 ∧ l.pclass = n 0x2A 2 / 2 ^ 6 % 4 ∧ l.mirror = bit 3 ∧ l.checked = bit 2 ∧ l.idem = bit 1 ∧ l.repro = bit 0 ∧ l.prio = n 0x2C 1 ∧
  l.barcnt = (List.range 16).map (fun i => n (0x30 + i) 1) ∧ l.gbarcnt = (List.range 4).map (fun i => n (0x40 + 2 * i) 2) ∧
  l.ebudget = n 0x60 4 ∧ l.asid = n 0x64 2 ∧ l.hclog = n 0x66 1 ∧ l.spill = n 0x68 8 ∧ l.save = n 0x70 8 ∧ l.pager = n 0x78 8 ∧ l.hcring = n 0x80 8 ∧
  l.kvdesc = n 0x88 8 ∧ l.seed.toNat = n 0x90 8 ∧ l.argp = n 0x98 8 ∧ l.done = n 0xA0 8 ∧ l.cbmap = n 0xA8 8 ∧ l.jcount = n 0xB0 4 ∧ l.jsize = n 0xB4 2 ∧
  l.jmin = n 0xB6 2 ∧ l.slots = n 0xB8 4 ∧ l.nfdt = (List.range 16).map (fun i => BitVec.ofNat 32 (n (0xC0 + 4 * i) 4))

/-! ## Edge actions -/

/-- Records related one after another. -/
def Chain (R : State → Region → State → Prop) : State → List Region → State → Prop
  | s, [], t => t = s
  | s, r :: rs, t => ∃ u, R s r u ∧ Chain R u rs t

/-- A byte of the instance of record r for the gang at (x, y) (R24). -/
def InInstance (r : Region) (x y a : Nat) : Prop :=
  let base : Int := r.base + x * r.sx + y * r.sy
  base.toNat ≤ a ∧ a < base.toNat + r.ext ∧ a < 2 ^ 52
/-- A line of the instance, by its address, that device memory holds at a physical line: pages that are not mapped hold none (R74). -/
def LineAt (s : State) (asid : Nat) (r : Region) (x y va line : Nat) : Prop :=
  let base : Int := r.base + x * r.sx + y * r.sy
  ∃ k e, k < r.ext / 128 ∧ va = base.toNat + 128 * k ∧ walk s asid va = .ok e ∧ e.mt ≠ 1 ∧ line = e.paOf va / 128

/-- The producer gangs of a gang at (x, y) of task t (R76): a completed gang of a task that serialisation put before t, or in a rectangle of t. -/
def IsProducer (s : State) (t : Task) (x y p ix : Nat) : Prop :=
  let px := ix % (taskAt s p).lpb.gridx
  let py := ix / (taskAt s p).lpb.gridx
  (ix, GangStat.retired) ∈ (taskAt s p).stats ∧
  (p ∈ t.serial ∨ ∃ d ∈ t.deps, d.producer = some p ∧ (d.kind = 1 ∨
    (max (d.ax * x + d.bx) 0 ≤ px ∧ (px : Int) ≤ min (d.ax * x + d.cx) (d.pgx - 1) ∧
     max (d.ay * y + d.byy) 0 ≤ py ∧ (py : Int) ≤ min (d.ay * y + d.cy) (d.pgy - 1))))
/-- A producer gang whose recorded cluster satisfies a test wrote a line, by its address. -/
def Wrote (s : State) (t : Task) (x y va : Nat) (on : Option Nat → Prop) : Prop :=
  ∃ p ix, IsProducer s t x y p ix ∧ (∃ q ∈ (taskAt s p).regions, (q.kind = 1 ∨ q.kind = 2) ∧
      InInstance q (ix % (taskAt s p).lpb.gridx) (ix / (taskAt s p).lpb.gridx) va) ∧
    on (if (taskAt s p).clusters.get 0 ix = 0 then none else some ((taskAt s p).clusters.get 0 ix - 1))
/-- The producers of a task use its address space. -/
def OneSpace (s : State) (t : Task) : Prop :=
  ∀ p, (p ∈ t.serial ∨ ∃ d ∈ t.deps, d.producer = some p) → (taskAt s p).lpb.asid = t.lpb.asid
/-- R76: gang start keeps a line of record r. -/
def Kept (s : State) (gang : Nat) (resume : Bool) (r : Region) (va : Nat) : Prop :=
  let g := gangAt s gang
  let t := taskAt s g.task
  (resume = true ∧ ∃ q ∈ t.regions, (q.kind = 1 ∨ q.kind = 2) ∧ InInstance q g.gx g.gy va) ∨
  (r.fwd = true ∧ Wrote s t g.gx g.gy va (fun c => c = some g.cluster) ∧ ¬ Wrote s t g.gx g.gy va (fun c => c ≠ some g.cluster))

/-- A cluster's line that has been written back: its dirty bytes stand in memory, and no other byte of the line changes. -/
def WrittenBack (s t : State) (cl line : Nat) : Prop :=
  ∀ o, o < 128 → 128 * line + o < memSize → memByte t (128 * line + o) =
    if (clusterLine s cl line).dirty.getLsbD o then clusterByte s cl (128 * line + o) else memByte s (128 * line + o)
/-- A cluster's line and its bytes in memory as before. -/
def LineKept (s t : State) (cl line : Nat) : Prop :=
  clusterLine t cl line = clusterLine s cl line ∧ ∀ o, o < 128 → memByte t (128 * line + o) = memByte s (128 * line + o)
/-- The cores of a gang's run (R51). -/
def onRun (s : State) (gang core : Nat) : Prop :=
  let g := gangAt s gang
  ∃ i, i < (taskAt s g.task).lpb.blocks ∧ core = g.cluster * 16 + (g.first + i) % 16
def cachedLine (s : State) (core line : Nat) : Line := (coreAt s core).rcache.get Line.empty line

/-- What neither a start nor a completion changes. -/
def EdgeFrame (s t : State) : Prop := t.tasks = s.tasks ∧ t.gangs = s.gangs ∧ t.blocks = s.blocks ∧ t.outbox = s.outbox

/-- R73, R76: the gang-start action of one record. -/
def Started (gang cl : Nat) (resume : Bool) (s : State) (r : Region) (t : State) : Prop :=
  let g := gangAt s gang
  let k := taskAt s g.task
  let inst (va line : Nat) : Prop := r.kind ≤ 2 ∧ LineAt s k.lpb.asid r g.gx g.gy va line
  EdgeFrame s t ∧
  (∀ core line, ((∃ va, inst va line) ∧ onRun s gang core → cachedLine t core line = Line.empty) ∧
    (¬ ((∃ va, inst va line) ∧ onRun s gang core) → cachedLine t core line = cachedLine s core line)) ∧
  (OneSpace s k → ∀ line,
    ((∃ va, inst va line ∧ ¬ Kept s gang resume r va) → clusterLine t cl line = Line.empty ∧ WrittenBack s t cl line) ∧
    ((∀ va, inst va line → Kept s gang resume r va) → LineKept s t cl line))

/-- R73, R75: the gang-completion action of one record. -/
def Completed (gang cl : Nat) (s : State) (r : Region) (t : State) : Prop :=
  let g := gangAt s gang
  let inst (line : Nat) : Prop := r.kind ≤ 2 ∧ ∃ va, LineAt s (taskAt s g.task).lpb.asid r g.gx g.gy va line
  let writes : Prop := r.kind = 1 ∨ r.kind = 2
  let drops : Prop := (r.kind = 0 ∨ r.kind = 2) ∧ r.inv = true
  EdgeFrame s t ∧
  (∀ core line, (inst line ∧ drops ∧ onRun s gang core → cachedLine t core line = Line.empty) ∧
    (¬ (inst line ∧ drops ∧ onRun s gang core) → cachedLine t core line = cachedLine s core line)) ∧
  ∀ line, (inst line → (writes ∨ drops → WrittenBack s t cl line) ∧
      (drops ∨ writes ∧ r.fl = true ∧ r.fwd = false → clusterLine t cl line = Line.empty) ∧
      (writes → ¬ drops → ¬ (r.fl = true ∧ r.fwd = false) → clusterLine t cl line = { clusterLine s cl line with dirty := 0 })) ∧
    (¬ inst line ∨ ¬ writes ∧ ¬ drops → LineKept s t cl line)

/-- R73, R80: the migration action of one record, on the cluster that the gang left: the dirty lines are written back and stay as clean copies. -/
def Migrated (gang cl : Nat) (s : State) (r : Region) (t : State) : Prop :=
  let g := gangAt s gang
  let inst (line : Nat) : Prop := (r.kind = 1 ∨ r.kind = 2) ∧ ∃ va, LineAt s (taskAt s g.task).lpb.asid r g.gx g.gy va line
  EdgeFrame s t ∧ t.cores = s.cores ∧
  ∀ line, (inst line → WrittenBack s t cl line ∧ clusterLine t cl line = { clusterLine s cl line with dirty := 0 }) ∧
    (¬ inst line → LineKept s t cl line)

end Sys2Proof.Safety
end

