-- ==== Sys2Proof/Safety/Scalar.lean ====
section
/-!
DEFINITION. What the scalar, predicate and control words compute, written from the tables of R96, R101, R169 to R173, R187 to R195 on bit vectors of the
operand's width, for the statements about them.
-/

namespace Sys2Proof.Safety
open Sys2Proof.Machine

/-! ## Scalar operands -/

/-- S(n, w): a register, or an even register and its odd partner with the even one low (R92, R187). -/
def scalarIn (g : Group) (n : BitVec 9) : (pair : Bool) → BitVec (scalarWidth pair)
  | true => readPair g n.toNat
  | false => readS g n.toNat

/-- The writes of S(n, w) = x. -/
def scalarOut (n : BitVec 9) : (pair : Bool) → BitVec (scalarWidth pair) → List RegWrite
  | true, x => [.s n.toNat (x.setWidth 32), .s (n.toNat + 1) ((x >>> 32).setWidth 32)]
  | false, x => [.s n.toNat x]

/-- An operation on two values of any one width. -/
abbrev BinOp := (w : Nat) → BitVec w → BitVec w → BitVec w
/-- An operation on a value of any width. -/
abbrev UnOp := (w : Nat) → BitVec w → BitVec w

/-! ## The tables -/

/-- The two-address words but for the divisions (R187): sd, sa, the pair bit and the operation. -/
def twoAddress : Instr → Option (BitVec 9 × BitVec 9 × Bool × BinOp)
  | .sadd d a p => some (d, a, p, fun _ x y => x + y)
  | .ssub d a p => some (d, a, p, fun _ x y => x - y)
  | .smul d a p => some (d, a, p, fun _ x y => x * y)
  | .smulh d a p => some (d, a, p, fun w x y => BitVec.ofInt w (x.toInt * y.toInt / 2 ^ w))
  | .smulhn d a p => some (d, a, p, fun w x y => BitVec.ofNat w (x.toNat * y.toNat / 2 ^ w))
  | .sand d a p => some (d, a, p, fun _ x y => x &&& y)
  | .sor d a p => some (d, a, p, fun _ x y => x ||| y)
  | .sxor d a p => some (d, a, p, fun _ x y => x ^^^ y)
  | .sshl d a p => some (d, a, p, fun w x y => if w ≤ y.toNat then 0 else x <<< y.toNat)
  | .sshr d a p => some (d, a, p, fun w x y => if w ≤ y.toNat then 0 else x >>> y.toNat)
  | .ssar d a p => some (d, a, p, fun w x y => x.sshiftRight (min y.toNat (w - 1)))
  | .smin d a p => some (d, a, p, fun _ x y => if y.slt x then y else x)
  | .smax d a p => some (d, a, p, fun _ x y => if x.slt y then y else x)
  | .sminn d a p => some (d, a, p, fun _ x y => if y.ult x then y else x)
  | .smaxn d a p => some (d, a, p, fun _ x y => if x.ult y then y else x)
  | _ => none

/-- The divisions (R188): quotient or remainder, truncating towards zero; of a division by zero, 0 or the dividend. -/
def division : Instr → Option (BitVec 9 × BitVec 9 × Bool × BinOp)
  | .sdiv d a p => some (d, a, p, fun _ x y => x.sdiv y)
  | .sdivn d a p => some (d, a, p, fun _ x y => x / y)
  | .srem d a p => some (d, a, p, fun _ x y => x.srem y)
  | .sremn d a p => some (d, a, p, fun _ x y => x % y)
  | _ => none

/-- The one-operand words (R189). -/
def oneOperand : Instr → Option (BitVec 9 × BitVec 9 × Bool × UnOp)
  | .smov d a p => some (d, a, p, fun _ x => x)
  | .snot d a p => some (d, a, p, fun _ x => ~~~x)
  | .sneg d a p => some (d, a, p, fun _ x => -x)
  | .sclz d a p => some (d, a, p, fun w x => BitVec.ofNat w ((List.range w).takeWhile fun k => !x.getMsbD k).length)
  | .spopc d a p => some (d, a, p, fun w x => BitVec.ofNat w ((List.range w).countP fun k => x.getLsbD k))
  | _ => none

/-- The opcodes of the two-address, one-operand, compare and carry words (R187 to R191). -/
def scalarOpcode : Instr → Option (BitVec 8)
  | .sadd _ _ _ => some 0x18
  | .ssub _ _ _ => some 0x19
  | .smul _ _ _ => some 0x1A
  | .smulh _ _ _ => some 0x1B
  | .smulhn _ _ _ => some 0x1C
  | .sdiv _ _ _ => some 0x1D
  | .sdivn _ _ _ => some 0x1E
  | .srem _ _ _ => some 0x1F
  | .sremn _ _ _ => some 0x20
  | .sand _ _ _ => some 0x21
  | .sor _ _ _ => some 0x22
  | .sxor _ _ _ => some 0x23
  | .sshl _ _ _ => some 0x24
  | .sshr _ _ _ => some 0x25
  | .ssar _ _ _ => some 0x26
  | .smin _ _ _ => some 0x27
  | .smax _ _ _ => some 0x28
  | .sminn _ _ _ => some 0x29
  | .smaxn _ _ _ => some 0x2A
  | .smov _ _ _ => some 0x2B
  | .snot _ _ _ => some 0x2C
  | .sneg _ _ _ => some 0x2D
  | .sclz _ _ _ => some 0x2E
  | .spopc _ _ _ => some 0x2F
  | .scmp _ _ _ => some 0x30
  | .scmpn _ _ _ => some 0x31
  | .saddc _ _ _ => some 0x35
  | .ssubb _ _ _ => some 0x36
  | _ => none

/-- The SS layout with x[5] the pair bit: opcode, sd, sa, the pair bit, and x[4:0] (R91). -/
def layoutSS (op : BitVec 8) (d a : BitVec 9) (pair : Bool) (x : BitVec 5) : W32 := op ++ d ++ a ++ BitVec.ofBool pair ++ x

/-- A scalar operand that exists: one of s0 to s383, and an even one for a pair (R91, R107). -/
def OperandOk (pair : Bool) (n : BitVec 9) : Prop := n.toNat < 384 ∧ (pair = true → n.toNat % 2 = 0)

/-- A word is encoded in the SS layout: with its operands, x[4:0] 0 and the pair bit it decodes to the word, where the operands exist; with an operand
that does not, or x[4:0] not 0, it is illegal. -/
def EncodedSS (i : Instr) (d a : BitVec 9) (pair : Bool) : Prop :=
  ∃ op, scalarOpcode i = some op ∧ (OperandOk pair d → OperandOk pair a → decodeGroup (layoutSS op d a pair 0) = i) ∧
    ∀ x, x ≠ 0 ∨ ¬ OperandOk pair d ∨ ¬ OperandOk pair a →
      decodeGroup (layoutSS op d a pair x) = .illegalInstruction (layoutSS op d a pair x)

/-- SF of its four flags: Z, N, C and V from bit 0 on (R104). -/
def sfBits (z n c v : Bool) : W32 := BitVec.setWidth 32 (BitVec.ofBool v ++ BitVec.ofBool c ++ BitVec.ofBool n ++ BitVec.ofBool z)
/-- Whether a sum or difference lies outside the signed w-bit range. -/
def outOfRange (w : Nat) (r : Int) : Bool := decide (r < -(2 ^ (w - 1) : Int) ∨ (2 ^ (w - 1) : Int) ≤ r)

/-- The words that write SF (R190, R191): sd, sa, the pair bit, whether sd is written too, and from the carry and the operands the result and SF. -/
def sfWordOf : Instr → Option (BitVec 9 × BitVec 9 × Bool × Bool × ((w : Nat) → Bool → BitVec w → BitVec w → BitVec w × W32))
  | .scmp d a p => some (d, a, p, false, fun w _ x y => (x - y, sfBits (x == y) (x - y).msb (y.ule x) (outOfRange w (x.toInt - y.toInt))))
  | .scmpn d a p => some (d, a, p, false, fun _ _ x y => (x - y, sfBits (x == y) (x.ult y) (y.ule x) false))
  | .saddc d a p => some (d, a, p, true, fun w c x y =>
      let r := x + y + BitVec.ofNat w c.toNat
      (r, sfBits (r == 0) r.msb (decide (2 ^ w ≤ x.toNat + y.toNat + c.toNat)) (outOfRange w (x.toInt + y.toInt + c.toNat))))
  | .ssubb d a p => some (d, a, p, true, fun w c x y =>
      let r := x - y - BitVec.ofNat w (!c).toNat
      (r, sfBits (r == 0) r.msb (decide (y.toNat + (!c).toNat ≤ x.toNat)) (outOfRange w (x.toInt - y.toInt - (!c).toNat))))
  | _ => none

/-- The other scalar words (R180, R192, R193): the writes from the group at the issue clock. SSEL under a failing condition writes nothing. -/
def scalarMove : Instr → Option (Group → List RegWrite)
  | .ssel d a p c => some fun g => if condHolds c.toNat g.sf then scalarOut d p (scalarIn g a p) else []
  | .saddi d x => some fun g => [.s d.toNat (readS g d.toNat + x.signExtend 32)]
  | .smovi d x => some fun _ => [.s d.toNat (x.signExtend 32)]
  | .slit d => some fun g => [.s d.toNat g.lit]
  | .getm d => some fun g => [.s d.toNat g.mode]
  | _ => none

/-- The predicate words (R194): the write from the group at the issue clock. -/
def predicateWrite : Instr → Option (Group → RegWrite)
  | .pand d a b => some fun g => .p d.toNat (readP g a.toNat &&& readP g b.toNat)
  | .por d a b => some fun g => .p d.toNat (readP g a.toNat ||| readP g b.toNat)
  | .pxor d a b => some fun g => .p d.toNat (readP g a.toNat ^^^ readP g b.toNat)
  | .pnot d a => some fun g => .p d.toNat (~~~(readP g a.toNat))
  | .pmov d a => some fun g => .p d.toNat (readP g a.toNat)
  | .psets d x => some fun g => .p d.toNat (readS g x.toNat)
  | .plane d x => some fun g => .p d.toNat (if (readS g x.toNat).toNat < 32 then (1 : W32) <<< (readS g x.toNat).toNat else 0)
  | .pgets d a => some fun g => .s d.toNat (readP g a.toNat)
  | .pcnt d a => some fun g => .s d.toNat (BitVec.ofNat 32 ((List.range 32).countP fun k => (readP g a.toNat).getLsbD k))
  | .pffs d a => some fun g => .s d.toNat (BitVec.ofNat 32 ((List.range 32).takeWhile fun k => !(readP g a.toNat).getLsbD k).length)
  | _ => none

/-! ## Transfers and MODE -/

/-- Cond(cond, SF) by the table of R96: even codes state a relation, the next odd code its negation. -/
def condTable (c : BitVec 4) (z n cy v : Bool) : Bool :=
  match c.toNat with
  | 0 => z | 1 => !z
  | 2 => n ^^ v | 3 => !(n ^^ v)
  | 4 => z || (n ^^ v) | 5 => !(z || (n ^^ v))
  | 6 => !cy | 7 => cy
  | 8 => !cy || z | 9 => !(!cy || z)
  | 10 => n | 11 => !n
  | 12 => v | 13 => !v
  | 14 => true
  | _ => false

/-- Whether a transfer word is taken, its target, and whether it pops the loops left behind (R169, R170, R173). -/
def transferOf (g : Group) : Instr → Option (Bool × W32 × Bool)
  | .br off => some (true, g.pc + off.signExtend 32, true)
  | .brc c off => some (condTable c (g.sf.getLsbD 0) (g.sf.getLsbD 1) (g.sf.getLsbD 2) (g.sf.getLsbD 3), g.pc + off.signExtend 32, true)
  | .pbr p test off =>
    let on := lanesOn g
    let hit := on.filter fun l => (readP g p.toNat).getLsbD l
    some (if test = 0 then !hit.isEmpty else if test = 1 then decide (hit = on) else hit.isEmpty, g.pc + off.signExtend 32, true)
  | .call off => some (true, g.pc + off.signExtend 32, false)
  | .ret => some (true, readS g 383, false)
  | .jmpr a => some (true, readS g a.toNat, true)
  | _ => none

/-- The state in which a transfer is taken: CALL puts the next word's index in flight to s383 (R169). -/
def linked (i : Instr) (s : State) : State :=
  match i with
  | .call _ => inFlight (atIssue i s) 2 [.s 383 (nextWord (groupIn i s).pc 0)] 0
  | _ => atIssue i s

/-- Where a MODE field of SETM stands: its lowest bit and its width (R101, R179). -/
def modeField (f : BitVec 4) : Nat × Nat :=
  match f.toNat with
  | 0 => (0, 4) | 1 => (4, 1) | 2 => (5, 5) | 3 => (10, 3) | 4 => (13, 1) | _ => (14, 4)

/-- A value that a MODE field takes (R103, R179): it fits the field, and no rounding code of 6 or 7. -/
def modeValue (f : BitVec 4) (v : Nat) : Prop := v < 2 ^ (modeField f).2 ∧ (f = 3 → v < 6)

/-- MODE with one field replaced, bit by bit. -/
def withField (m : W32) (f : BitVec 4) (v : Nat) (k : Nat) : Bool :=
  if (modeField f).1 ≤ k ∧ k < (modeField f).1 + (modeField f).2 then v.testBit (k - (modeField f).1) else m.getLsbD k

end Sys2Proof.Safety
end

