-- ==== Sys2Proof/Safety/Vector.lean ====
section
/-!
DEFINITION. What the vector words compute in one lane, written from the tables of R198 to R230, for the statements about them.
-/

namespace Sys2Proof.Safety
open Sys2Proof.Machine

/-! ## Integer elements -/

/-- The integer types: codes 0 to 3 signed, 4 to 7 unsigned, of 8, 16, 32 and 64 bits (R102). -/
def intSigned (e : Nat) : Bool := decide (e < 4)
def intWidth (e : Nat) : Nat := 8 * 2 ^ (e % 4)

/-- E(r, l): the element's w bits; 64 bits stand in an even register and its odd partner (R102, R114). -/
def element (g : Group) (r : BitVec 8) (l w : Nat) : BitVec w :=
  if w = 64 then (readV g (r.toNat + 1) l ++ readV g r.toNat l : BitVec (32 + 32)).setWidth w else (readV g r.toNat l).setWidth w

/-- The integer an element stands for. -/
def valueOf {w : Nat} (signed : Bool) (x : BitVec w) : Int := if signed then x.toInt else x.toNat

/-- The element of an exact integer: clamped to the type's range under ISAT, else modulo 2^w (R115). -/
def narrowed (sat signed : Bool) (w : Nat) (r : Int) : BitVec w :=
  let lo : Int := if signed then -2 ^ (w - 1) else 0
  let hi : Int := if signed then 2 ^ (w - 1) - 1 else 2 ^ w - 1
  BitVec.ofInt w (if sat then max lo (min hi r) else r)

/-- The writes of an element to lane l (R114): a narrow signed element is sign-extended to the lane, any other zero-extended. -/
def elementOut (signed : Bool) (r : BitVec 8) (l : Nat) {w : Nat} (x : BitVec w) : List RegWrite :=
  if w = 64 then [.v r.toNat l (x.setWidth 32), .v (r.toNat + 1) l ((x >>> 32).setWidth 32)]
  else [.v r.toNat l (if signed then x.signExtend 32 else x.setWidth 32)]

/-- An integer operation on the elements of a type: sign, width, a, b and d to the exact result. -/
abbrev IntOp := (signed : Bool) → (w : Nat) → BitVec w → BitVec w → BitVec w → Int

/-- The integer words of R200 to R203: vd, va, vb and the exact result. A shift by w or more gives what a shift by w gives. -/
def vectorInteger : Instr → Option (BitVec 8 × BitVec 8 × BitVec 8 × IntOp)
  | .vadd d a b => some (d, a, b, fun sg _ x y _ => valueOf sg x + valueOf sg y)
  | .vsub d a b => some (d, a, b, fun sg _ x y _ => valueOf sg x - valueOf sg y)
  | .vmul d a b => some (d, a, b, fun sg _ x y _ => valueOf sg x * valueOf sg y)
  | .vmulh d a b => some (d, a, b, fun sg w x y _ => valueOf sg x * valueOf sg y / 2 ^ w)
  | .vmad d a b => some (d, a, b, fun sg _ x y z => valueOf sg x * valueOf sg y + valueOf sg z)
  | .vmin d a b => some (d, a, b, fun sg _ x y _ => min (valueOf sg x) (valueOf sg y))
  | .vmax d a b => some (d, a, b, fun sg _ x y _ => max (valueOf sg x) (valueOf sg y))
  | .vshl d a b => some (d, a, b, fun sg w x y _ => valueOf sg x * 2 ^ min y.toNat w)
  | .vshr d a b => some (d, a, b, fun sg w x y _ => valueOf sg x / 2 ^ min y.toNat w)
  | .vabs d a => some (d, a, a, fun sg _ x _ _ => ((valueOf sg x).natAbs : Int))
  | _ => none

/-- VCLZ and VPOPC (R203): a count, which is no saturating result. -/
def vectorCount : Instr → Option (BitVec 8 × BitVec 8 × ((w : Nat) → BitVec w → Nat))
  | .vclz d a => some (d, a, fun w x => ((List.range w).takeWhile fun k => !x.getMsbD k).length)
  | .vpopc d a => some (d, a, fun w x => (List.range w).countP fun k => x.getLsbD k)
  | _ => none

/-- The relation of a condition code of VCMP (R204). -/
def relation (c : BitVec 4) (a b : Int) : Bool :=
  match c.toNat with
  | 0 => decide (a = b) | 1 => decide (a ≠ b) | 2 => decide (a < b) | 3 => decide (a ≤ b) | 4 => decide (b < a) | 5 => decide (b ≤ a)
  | _ => false

/-- The combination of two exact integers in VSCAN and VRED (R208): 0 add, 1 min, 2 max, 3 and, 4 or, 5 xor. -/
def combine (op : BitVec 4) (w : Nat) (a b : Int) : Int :=
  match op.toNat with
  | 0 => a + b
  | 1 => min a b
  | 2 => max a b
  | 3 => (BitVec.ofInt w a &&& BitVec.ofInt w b).toNat
  | 4 => (BitVec.ofInt w a ||| BitVec.ofInt w b).toNat
  | _ => (BitVec.ofInt w a ^^^ BitVec.ofInt w b).toNat

/-- The element that VSCAN or VRED makes of the elements of lanes: the sum clamped or reduced once, any other result as it stands. -/
def combined (op : BitVec 4) (sat signed : Bool) (w : Nat) (xs : List (BitVec w)) : BitVec w :=
  match xs.map (valueOf signed) with
  | [] => 0
  | x :: r => narrowed (sat && op == 0) signed w (r.foldl (combine op w) x)

/-! ## Bit words -/

/-- The width that a bit word gives a type (R198): nf counts as 32 bits. -/
def bitWidth (e : Nat) : Nat :=
  if e < 8 then intWidth e else if e = 8 ∨ e = 9 then 16 else if e = 11 then 64 else 32

/-- The bit, select and permute words (R200, R203, R205, R207): opcode, whether disabled lanes are written, vd, va, vb, and lane l's w bits. -/
def vectorBits : Instr → Option (Nat × Bool × BitVec 8 × BitVec 8 × BitVec 8 × (Group → Nat → (w : Nat) → BitVec w))
  | .vand d a b => some (0x4D, false, d, a, b, fun g l w => element g a l w &&& element g b l w)
  | .vor d a b => some (0x4E, false, d, a, b, fun g l w => element g a l w ||| element g b l w)
  | .vxor d a b => some (0x4F, false, d, a, b, fun g l w => element g a l w ^^^ element g b l w)
  | .vnot d a => some (0x50, false, d, a, a, fun g l w => ~~~(element g a l w))
  | .vmov d a => some (0x59, false, d, a, a, fun g l w => element g a l w)
  | .vsel d a b => some (0x58, true, d, a, b, fun g l w => if guardAt g l then element g a l w else element g b l w)
  | .vshfl d a b => some (0x5C, false, d, a, b, fun g l w =>
      if 32 ≤ (readV g b.toNat l).toNat then 0 else element g a (readV g b.toNat l).toNat w)
  | .vrot d a k => some (0x5D, false, d, a, a, fun g l w => element g a ((l + k.toNat) % 32) w)
  | _ => none

/-- The lane results of a bit word. -/
def bitResults (g : Group) (all : Bool) (d a b : BitVec 8) (f : Group → Nat → (w : Nat) → BitVec w) : List LaneResult :=
  let w := bitWidth (modeEtype g)
  ((List.range 32).filter fun l => all || guardAt g l).map fun l =>
    { lane := l, ws := elementOut (decide (modeEtype g < 4)) d l (f g l w), flags := 0,
      opa := (element g a l w).toNat, opb := (element g b l w).toNat }

/-- An nf slot that the vector words other than VPACK and VUNPK accept, when the type is nf (R121, R198). -/
def SlotUsable (s : State) : Prop :=
  modeEtype (curGroup s) = 12 →
    nfSlotOk (curTask s) (modeNfs (curGroup s)) = true ∧ (nfSlot (curTask s) (modeNfs (curGroup s))).blk = 0

/-! ## Types -/

/-- The classes of R198: the types that a vector word accepts, and the block sizes of its nf slot; none of a word that ignores the type. -/
def legalTypes : Instr → Option ((Nat → Bool) × (Nat → Bool))
  | .vadd _ _ _ | .vsub _ _ _ | .vmul _ _ _ | .vmulh _ _ _ | .vmad _ _ _ | .vshl _ _ _ | .vshr _ _ _ | .vmin _ _ _ | .vmax _ _ _ | .vabs _ _
  | .vclz _ _ | .vpopc _ _ | .vcmp _ _ _ _ | .vscan _ _ _ | .vred _ _ _ | .vitof _ _ _ => some (fun e => decide (e < 8), fun _ => false)
  | .vand _ _ _ | .vor _ _ _ | .vxor _ _ _ | .vnot _ _ | .vmov _ _ | .vsel _ _ _ | .vshfl _ _ _ | .vrot _ _ _ => some (fun e => decide (e ≤ 12), (· == 0))
  | .vpack _ _ _ | .vunpk _ _ _ => some (fun e => e ∈ [0, 1, 4, 5, 8, 9, 12], fun _ => true)
  | .vfadd _ _ _ | .vfsub _ _ _ | .vfmul _ _ _ | .vfmulz _ _ _ | .vfma _ _ _ | .vfms _ _ _ | .vfnma _ _ _ | .vfdiv _ _ _ | .vfsqrt _ _ | .vfrsq _ _
  | .vfrcp _ _ | .vfexp _ _ | .vfexp2 _ _ | .vfexpm1 _ _ | .vflog _ _ | .vflog2 _ _ | .vflog1p _ _ | .vfsin _ _ | .vfcos _ _ | .vftan _ _ | .vfatan _ _
  | .vfatan2 _ _ _ | .vftanh _ _ | .vferf _ _ | .vfpow _ _ _ | .vfhyp _ _ _ | .vfmin _ _ _ | .vfmax _ _ _ | .vfabs _ _ | .vfneg _ _ | .vfcps _ _ _
  | .vfrnd _ _ | .vftoi _ _ _ | .vfcvt _ _ _ | .vfcls _ _ | .vfcmp _ _ _ _ | .vfsmx _ _ _ | .vfssq _ _ | .vfred _ _ _ | .vfscan _ _ _ | .vfldx _ _ _
  | .vffrx _ _ _ | .vfrem _ _ _ => some (fun e => decide (8 ≤ e ∧ e ≤ 12), (· == 0))
  | .vfqnt _ _ _ | .vfdq _ _ _ => some (fun e => e == 12, fun b => b ∈ [0, 16, 32])
  | .vfrot _ _ _ => some (fun e => e ∈ [8, 9, 10], fun _ => false)
  | _ => none

/-! ## Words that ignore the type -/

/-- The moves between lanes and registers and the hash (R206, R210): the writes from the group at the issue clock. -/
def laneMove : Instr → Option (Group → List RegWrite)
  | .vbcast d x => some fun g => (lanesOn g).map fun l => .v d.toNat l (readS g x.toNat)
  | .vlane d => some fun g => (lanesOn g).map fun l => .v d.toNat l (BitVec.ofNat 32 l)
  | .vxtr d a l => some fun g => [.s d.toNat (readV g a.toNat l.toNat)]
  | .vins d x l => some fun g => [.v d.toNat l.toNat (readS g x.toNat)]
  | .vhash d a => some fun g => (lanesOn g).map fun l => .v d.toNat l (hashMix (readV g a.toNat l))
  | _ => none

/-- One lane of VPACK (R209). -/
def packed (g : Group) (a b : BitVec 8) (l : Nat) : W32 :=
  let byte (r : Nat) : BitVec 8 := (readV g r l).setWidth 8
  let half (r : Nat) : BitVec 16 := (readV g r l).setWidth 16
  if modeEtype g = 0 ∨ modeEtype g = 4 ∨ modeEtype g = 12 then byte (b.toNat + 1) ++ byte b.toNat ++ byte (a.toNat + 1) ++ byte a.toNat
  else half b.toNat ++ half a.toNat

/-- One lane of VUNPK (R209): sub-element k, sign-extended for the signed integer types. -/
def unpacked (g : Group) (a : BitVec 8) (k : BitVec 2) (l : Nat) : W32 :=
  if modeEtype g = 0 ∨ modeEtype g = 4 ∨ modeEtype g = 12 then
    let x := (readV g a.toNat l).extractLsb' (8 * k.toNat) 8
    if modeEtype g = 0 then x.signExtend 32 else x.setWidth 32
  else
    let x := (readV g a.toNat l).extractLsb' (16 * k.toNat) 16
    if modeEtype g = 1 then x.signExtend 32 else x.setWidth 32

/-! ## Floating words -/

/-- A lane's result by the exact value and the single rounding of R127, from format, group and lane. -/
abbrev LaneFloat := Fmt → Group → Nat → Rounded

/-- The floating words of one result per lane (R212, R213, R217): opcode, vd, va, vb and the lane's result. -/
def floatLane : Instr → Option (Nat × BitVec 8 × BitVec 8 × BitVec 8 × LaneFloat)
  | .vfadd d a b => some (0x68, d, a, b, fun f g l =>
      arith2 f (modeRnd g) l (addE (modeRnd g)) (laneVal g f a.toNat l) (laneVal g f b.toNat l))
  | .vfsub d a b => some (0x69, d, a, b, fun f g l =>
      arith2 f (modeRnd g) l (fun x y => addE (modeRnd g) x y.negate) (laneVal g f a.toNat l) (laneVal g f b.toNat l))
  | .vfmul d a b => some (0x6A, d, a, b, fun f g l => arith2 f (modeRnd g) l mulE (laneVal g f a.toNat l) (laneVal g f b.toNat l))
  | .vfmulz d a b => some (0x6B, d, a, b, fun f g l => mulz f (modeRnd g) l (laneVal g f a.toNat l) (laneVal g f b.toNat l))
  | .vfma d a b => some (0x6C, d, a, b, fun f g l =>
      fused f (modeRnd g) l false (laneVal g f a.toNat l) (laneVal g f b.toNat l) (laneVal g f d.toNat l))
  | .vfms d a b => some (0x6D, d, a, b, fun f g l =>
      let z := laneVal g f d.toNat l
      fused f (modeRnd g) l false (laneVal g f a.toNat l) (laneVal g f b.toNat l) (if z.isNan then z else z.negate))
  | .vfnma d a b => some (0x6E, d, a, b, fun f g l =>
      fused f (modeRnd g) l true (laneVal g f a.toNat l) (laneVal g f b.toNat l) (laneVal g f d.toNat l))
  | .vfmin d a b => some (0x82, d, a, b, fun f g l =>
      minMax f false (laneVal g f a.toNat l) (laneVal g f b.toNat l) (laneCode g f a.toNat l) (laneCode g f b.toNat l))
  | .vfmax d a b => some (0x83, d, a, b, fun f g l =>
      minMax f true (laneVal g f a.toNat l) (laneVal g f b.toNat l) (laneCode g f a.toNat l) (laneCode g f b.toNat l))
  | .vfrnd d a => some (0x87, d, a, a, fun f g l => rndOf f (modeRnd g) l (laneVal g f a.toNat l))
  | _ => none

/-- What VFLDX, or VFFRX's fraction, makes of a value (R217): a finite one `scaled` and rounded once; a zero, an infinity or a NaN as RoundTo and R131
return it. -/
def partResult (f : Fmt) (m : Rnd) (dth : Nat) (scaled : Q → Q) (a : FVal) : Rounded :=
  match a with
  | .fin q => roundTo f m dth (.fin (scaled q))
  | .nan .. => ⟨(roundTo f .rne 0 a).code, if a.isSig then (roundTo f .rne 0 a).flags ||| fNV else (roundTo f .rne 0 a).flags⟩
  | _ => roundTo f m dth a

/-- The sign words (R214): opcode, vd, va, vb and the new sign bit from the operands' sign bits. -/
def signLane : Instr → Option (Nat × BitVec 8 × BitVec 8 × BitVec 8 × (Bool → Bool → Bool))
  | .vfabs d a => some (0x84, d, a, a, fun _ _ => false)
  | .vfneg d a => some (0x85, d, a, a, fun x _ => !x)
  | .vfcps d a b => some (0x86, d, a, b, fun _ y => y)
  | _ => none

/-- The words of the divider (R216), with the least latency of a 64-bit type (R151). -/
def dividerLane : Instr → Option (BitVec 8 × Nat × LaneFloat)
  | .vfdiv d a b => some (d, 20, fun f g l => arith2 f (modeRnd g) l divE (laneVal g f a.toNat l) (laneVal g f b.toNat l))
  | .vfsqrt d a => some (d, 18, fun f g l => sqrtOf f (modeRnd g) l (laneVal g f a.toNat l))
  | .vfrem d a b => some (d, 20, fun f g l => remOf f (modeRnd g) l (laneVal g f a.toNat l) (laneVal g f b.toNat l))
  | _ => none

/-- The elementary words (R222 to R226): opcode, vd, va, vb, the source registers, and the lane's result. -/
def elementaryLane : Instr → Option (Nat × BitVec 8 × BitVec 8 × BitVec 8 × List (BitVec 8) × LaneFloat)
  | .vfrsq d a => some (0x71, d, a, a, [a], fun f g l => elem1 f (modeRnd g) l .rsq (laneVal g f a.toNat l))
  | .vfrcp d a => some (0x72, d, a, a, [a], fun f g l => elem1 f (modeRnd g) l .rcp (laneVal g f a.toNat l))
  | .vfexp d a => some (0x73, d, a, a, [a], fun f g l => elem1 f (modeRnd g) l .exp (laneVal g f a.toNat l))
  | .vfexp2 d a => some (0x74, d, a, a, [a], fun f g l => elem1 f (modeRnd g) l .exp2 (laneVal g f a.toNat l))
  | .vfexpm1 d a => some (0x75, d, a, a, [a], fun f g l => elem1 f (modeRnd g) l .expm1 (laneVal g f a.toNat l))
  | .vflog d a => some (0x76, d, a, a, [a], fun f g l => elem1 f (modeRnd g) l .log (laneVal g f a.toNat l))
  | .vflog2 d a => some (0x77, d, a, a, [a], fun f g l => elem1 f (modeRnd g) l .log2 (laneVal g f a.toNat l))
  | .vflog1p d a => some (0x78, d, a, a, [a], fun f g l => elem1 f (modeRnd g) l .log1p (laneVal g f a.toNat l))
  | .vfsin d a => some (0x79, d, a, a, [a], fun f g l => elem1 f (modeRnd g) l .sin (laneVal g f a.toNat l))
  | .vfcos d a => some (0x7A, d, a, a, [a], fun f g l => elem1 f (modeRnd g) l .cos (laneVal g f a.toNat l))
  | .vftan d a => some (0x7B, d, a, a, [a], fun f g l => elem1 f (modeRnd g) l .tan (laneVal g f a.toNat l))
  | .vfatan d a => some (0x7C, d, a, a, [a], fun f g l => elem1 f (modeRnd g) l .atan (laneVal g f a.toNat l))
  | .vftanh d a => some (0x7E, d, a, a, [a], fun f g l => elem1 f (modeRnd g) l .tanh (laneVal g f a.toNat l))
  | .vferf d a => some (0x7F, d, a, a, [a], fun f g l => elem1 f (modeRnd g) l .erf (laneVal g f a.toNat l))
  | .vfatan2 d a b => some (0x7D, d, a, b, [a, b], fun f g l => elemAtan2 f (modeRnd g) l (laneVal g f a.toNat l) (laneVal g f b.toNat l))
  | .vfpow d a b => some (0x80, d, a, b, [a, b], fun f g l => elemPow f (modeRnd g) l (laneVal g f a.toNat l) (laneVal g f b.toNat l))
  | .vfhyp d a b => some (0x81, d, a, b, [a, b], fun f g l => elemHyp f (modeRnd g) l (laneVal g f a.toNat l) (laneVal g f b.toNat l))
  | .vfsmx d a b => some (0x8F, d, a, b, [a, b], fun f g l => elemSmx f (modeRnd g) l (laneVal g f a.toNat l) (laneVal g f b.toNat l))
  | _ => none

/-- The conversions (R218): vd, va, the destination code, and whether the source class is integer. -/
def conversion : Instr → Option (Nat × BitVec 8 × BitVec 8 × BitVec 5 × Bool)
  | .vftoi d a k => some (0x88, d, a, k, false)
  | .vitof d a k => some (0x89, d, a, k, true)
  | .vfcvt d a k => some (0x8A, d, a, k, false)
  | _ => none

/-- VFRED and VFSCAN (R227): opcode, whether each lane folds only the lanes up to it, vd, va and the operation. -/
def floatReduction : Instr → Option (Nat × Bool × BitVec 8 × BitVec 8 × BitVec 4)
  | .vfred d a op => some (0x91, false, d, a, op)
  | .vfscan d a op => some (0x92, true, d, a, op)
  | _ => none

/-- The value of an element code: one of a companded slot is rounded once to binary32 (R126). -/
def codeValue (f : Fmt) (c : Nat) : FVal :=
  match f with
  | .nar n => if n.curve.isEmpty then f.decode c else Fmt.f32.decode (roundTo .f32 .rne 0 (f.decode c)).code
  | _ => f.decode c

/-- The fold of VFRED and VFSCAN over lanes (R227): the exact sum rounded once, or VFMIN or VFMAX in lane order. -/
def folded (f : Fmt) (g : Group) (va : BitVec 8) (op : BitVec 4) (dither : Nat) (lanes : List Nat) : Rounded :=
  if op = 0 then sumRound f (modeRnd g) dither (lanes.map fun j => laneVal g f va.toNat j)
  else foldMinMax f (op == 2) (codeValue f) (lanes.map fun j => laneCode g f va.toNat j)

/-- The results of VFRED and VFSCAN: a scan gives each enabled lane the fold of the enabled lanes up to it, a reduction gives all of them one fold,
which stands with the first. -/
def foldResults (f : Fmt) (g : Group) (scan : Bool) (vd va : BitVec 8) (op : BitVec 4) : List LaneResult :=
  if scan then (lanesOn g).map fun l =>
    let r := folded f g va op l ((lanesOn g).filter fun j => decide (j ≤ l))
    { lane := l, ws := laneWrites f vd.toNat l r.code, flags := r.flags }
  else (lanesOn g).head?.toList.map fun l0 =>
    let r := folded f g va op 0 (lanesOn g)
    { lane := l0, ws := (lanesOn g).flatMap fun l => laneWrites f vd.toNat l r.code, flags := r.flags, di := some 0 }

/-- Registers named by operands of a type, a pair each when it is wide. -/
def named (g : Group) (rs : List (BitVec 8)) : List Nat :=
  rs.flatMap fun r => if modeEtype g = 11 then [r.toNat, r.toNat + 1] else [r.toNat]

end Sys2Proof.Safety
end

