-- ==== Sys2Proof/Safety/Order.lean ====
section
/-!
DEFINITION. Terms for the statements about the order of issue checks, the landing of writes, the frames of words, and the taking of a fault (R88, R107 to
R109, R144, R148, R410 to R413).
-/

namespace Sys2Proof.Safety
open Sys2Proof.Machine

/-! ## Issue -/

/-- The word of a running group that is not frozen (R154) comes to its checks: no arithmetic trap is to be taken at its issue clock (R135). -/
structure AtChecks (i : Instr) (s : State) : Prop where
  running : (curGroup s).st = .running
  unfrozen : frozenAt s.now (curGroup s) = false
  noTrap : pendingTrap (groupIn i s) = none

/-- The words of opcodes 0x11 to 0x16, and RDSR and WRSR of a supervisor register (R105, R108). -/
def supervisorWord : Instr → Bool
  | .eret => true
  | .xsel _ => true
  | .xrv _ _ => true
  | .xwv _ _ => true
  | .xrs _ _ _ => true
  | .xws _ _ _ => true
  | .rdsr _ n => decide (256 ≤ n.toNat)
  | .wrsr _ n => decide (256 ≤ n.toNat)
  | _ => false

/-- The vector registers that an integer, bit or floating word of one result per lane names. -/
def vectorNames (i : Instr) : List (BitVec 8) :=
  match vectorInteger i, vectorBits i, floatLane i with
  | some (d, a, b, _), _, _ => [d, a, b]
  | _, some (_, _, d, a, b, _), _ => [d, a, b]
  | _, _, some (_, d, a, b, _) => [d, a, b]
  | _, _, _ => []

/-- The s registers of a two-address word (R91, R92). -/
def scalarNames (d a : BitVec 9) (pair : Bool) : List Nat :=
  if pair then [d.toNat, d.toNat + 1, a.toNat, a.toNat + 1] else [d.toNat, a.toNat]

/-! ## Frames -/

/-- The words of fixed latency that only put register writes in flight (R148). -/
def fixedWord (i : Instr) : Bool :=
  (twoAddress i).isSome || (oneOperand i).isSome || (sfWordOf i).isSome || (scalarMove i).isSome || (predicateWrite i).isSome
    || (vectorInteger i).isSome || (vectorCount i).isSome || (vectorBits i).isSome || (laneMove i).isSome || (floatLane i).isSome

/-- The words that reach global memory (spec/10). -/
def globalForm (i : Instr) : Bool :=
  (loadForm i).isSome || (storeForm i).isSome || (atomicForm i).isSome ||
    match i with
    | .pref _ _ _ => true
    | .fence _ => true
    | .drainnt => true
    | _ => false

/-! ## Faults -/

/-- The fault record of a group, word by word (R412). -/
def recordOf (s : State) (idx : W32) (imm : Nat) (f : FaultInfo) : List W32 :=
  let g := curGroup s
  let gg := curGang s
  let core := curCore s
  let handler := s.cur.blk = 16
  let blk : BitVec 4 := if handler then 0 else BitVec.ofNat 4 s.cur.blk
  let grp : BitVec 6 := if handler then 0 else BitVec.ofNat 6 s.cur.grp
  [ (BitVec.ofNat 8 f.code ++ BitVec.ofNat 4 f.cause ++ (0 : BitVec 2) ++ BitVec.ofBool f.iret ++ BitVec.ofBool f.impr ++ BitVec.ofNat 8 f.freg
      ++ BitVec.ofNat 8 f.fclass : BitVec 32),
    BitVec.ofNat 32 f.lane, idx, BitVec.ofNat 32 f.prog, BitVec.ofNat 32 f.va, BitVec.setWidth 32 (BitVec.ofNat 20 (f.va / 2 ^ 32)), guardMask g,
    BitVec.ofNat 32 imm, BitVec.ofNat 32 gg.gx, BitVec.ofNat 32 gg.gy,
    (BitVec.ofNat 4 (core / 16) ++ BitVec.ofNat 4 core ++ blk ++ grp ++ (0 : BitVec 14) : BitVec 32),
    (BitVec.ofNat 16 ((curTask s).lpbAt / 256) ++ BitVec.ofNat 16 (curLpb s).asid : BitVec 32),
    BitVec.ofNat 32 f.key, BitVec.ofNat 32 (f.key / 2 ^ 32), BitVec.ofNat 32 f.pos, BitVec.ofNat 32 f.head ]

/-- A fault's fields fit the record. -/
structure Fits (f : FaultInfo) : Prop where
  code : f.code < 2 ^ 8
  cause : f.cause < 2 ^ 4
  freg : f.freg < 2 ^ 8
  fclass : f.fclass < 2 ^ 8

/-- Where the record of a stopped group goes (R408, R410, R411): of a handler group, to the failure of its task; else to the pager for the codes that
are the pager's when the task has one; else to the host-call ring; else to the failure of the task. -/
def routed (s : State) (code : Nat) (ws : List W32) : State :=
  if s.cur.blk = 16 ∧ code ≠ 0x21 then failTask s (curGang s).task 2 code ws
  else if code ∈ [0x06, 0x10, 0x1A, 0x1B, 0x1C, 0x1D, 0x1E] ∧ (curLpb s).pager ≠ 0 then
    setCurGang s { curGang s with work := addWork (curGang s).work ⟨0, ws, 0, s.cur.blk, s.cur.grp, s.now, false⟩ }
  else if (curLpb s).hcring ≠ 0 then
    { s with calls := s.calls ++ [⟨ws, (curLpb s).hcring, (curLpb s).hclog, s.cur.gang, 0, s.cur.blk, s.cur.grp, none, false, none⟩] }
  else failTask s (curGang s).task 2 code ws

end Sys2Proof.Safety
end

