-- ==== Sys2Proof/Safety/Supervisor.lean ====
section
/-!
DEFINITION. What the special registers hold and what the supervisor words reach, written from the tables of R105, R184 and R409, for the statements
about them.
-/

namespace Sys2Proof.Safety
open Sys2Proof.Machine

/-- The special registers of R105 as the user group (blk, grp) of the gang in focus, with the record g, shows them: number and value. -/
def specials (s : State) (blk grp : Nat) (g : Group) : List (Nat × W32) :=
  let gg := curGang s
  let l := curLpb s
  [ (0x000, g.flags), (0x001, g.trapen), (0x002, g.sf), (0x003, BitVec.ofNat 32 g.psd),
    (0x004, g.lclk.extractLsb' 0 32), (0x005, g.clkHi), (0x006, BitVec.ofNat 32 grp), (0x007, BitVec.ofNat 32 blk),
    (0x008, BitVec.ofNat 32 gg.gx), (0x009, BitVec.ofNat 32 gg.gy), (0x00A, BitVec.ofNat 32 l.gridx), (0x00B, BitVec.ofNat 32 l.gridy),
    (0x00C, placeWord (coreOf s s.cur.gang blk) (partOf s s.cur.gang blk grp)),
    (0x00D, BitVec.ofNat 32 l.argp), (0x00E, BitVec.ofNat 32 (l.argp / 2 ^ 32)), (0x00F, BitVec.ofNat 32 s.now), (0x010, g.cycHi),
    (0x011, loopCount g), (0x012, 0) ]

/-- A group after a read of one of its special registers (R105): CLKLO latches the logical clock's high half, CYCLO that of the CCLK count. -/
def latched (now : Nat) (g : Group) (num : Nat) : Group :=
  { g with clkHi := if num = 0x004 then g.lclk.extractLsb' 32 32 else g.clkHi
           cycHi := if num = 0x00F then BitVec.ofNat 32 (now / 2 ^ 32) else g.cycHi }

/-- The registers of R105 that a group may write, with the bits that are not reserved (R104). -/
def writables (g : Group) (x : W32) : List (Nat × Group) :=
  [ (0x000, { g with flags := x &&& 0xFF }), (0x001, { g with trapen := x &&& 0x1FF }), (0x002, { g with sf := x &&& 0xF }) ]

/-- The supervisor registers that hold state of a stopped target (R409): number and value. -/
def targetRegisters (t : Group) : List (Nat × W32) :=
  let e (k : Nat) : LoopEntry := t.loops.get LoopEntry.zero k
  [ (0x100, t.mode), (0x101, t.resume), (0x103, arrWord t.arr), (0x130, BitVec.ofNat 32 t.loopd),
    (0x131, (e 0).start), (0x132, (e 0).last), (0x133, (e 0).count), (0x134, (e 1).start), (0x135, (e 1).last), (0x136, (e 1).count),
    (0x137, (e 2).start), (0x138, (e 2).last), (0x139, (e 2).count), (0x13A, (e 3).start), (0x13B, (e 3).last), (0x13C, (e 3).count) ]

/-- The writes of those registers that are accepted, with the target they leave (R409). -/
def targetWrites (t : Group) (x : W32) : List (Nat × Group) :=
  let put (k : Nat) (f : LoopEntry → LoopEntry) : Group := { t with loops := t.loops.set LoopEntry.zero k (f (t.loops.get LoopEntry.zero k)) }
  let start (e : LoopEntry) : LoopEntry := { e with start := x }
  let last (e : LoopEntry) : LoopEntry := { e with last := x }
  let count (e : LoopEntry) : LoopEntry := { e with count := x }
  (if x.toNat < 2 ^ 18 ∧ x.toNat / 2 ^ 10 % 8 < 6 then [(0x100, { t with mode := x })] else []) ++
  (if x.toNat ≤ 4 then [(0x130, { t with loopd := x.toNat })] else []) ++
  [ (0x101, { t with resume := x }),
    (0x131, put 0 start), (0x132, put 0 last), (0x133, put 0 count), (0x134, put 1 start), (0x135, put 1 last), (0x136, put 1 count),
    (0x137, put 2 start), (0x138, put 2 last), (0x139, put 2 count), (0x13A, put 3 start), (0x13B, put 3 last), (0x13C, put 3 count) ]

/-- The group selected by the supervisor group in focus is (b, k), stopped, with the record t once its fixed-latency writes have landed, and
is not the supervisor group itself (R182, R186). -/
structure Target (s : State) (b k : Nat) (t : Group) : Prop where
  sel : (curGroup s).sel = some (b, k)
  record : t = landAt s.now (groupAt s s.cur.gang b k)
  stopped : t.st = .fault ∨ t.st = .trap ∨ t.st = .brk ∨ t.st = .savePoint
  apart : groupKey s.cur.gang b k ≠ groupKey s.cur.gang s.cur.blk s.cur.grp

/-- A register of a group awaits no write (R186). -/
def Settled (t : Group) (r : Reg) : Prop :=
  (∀ f ∈ t.flights, r ∉ f.locks ∧ (f.parks = true → ∀ n ∈ f.srcs, r ≠ .v n)) ∧ ∀ p ∈ t.pend, ∀ w ∈ p.ws, w.reg ≠ some r

/-- What XRS reads of its target in the spaces 0 to 2 (R184). -/
def spaceRead (t : Group) (space : BitVec 3) (n : Nat) : Option W32 :=
  match space.toNat with
  | 0 => if n < 384 then some (readS t n) else none
  | 1 => if n < 16 then some (readP t n) else none
  | 2 => if n < 8 then some (if n < t.depth then t.stk.get 0 n else 0) else none
  | _ => none

/-- What XWS leaves of its target (R184). -/
def spaceWrite (t : Group) (space : BitVec 3) (n : Nat) (x : W32) : Option Group :=
  match space.toNat with
  | 0 => if n < 384 then some (writeS t n x) else none
  | 1 => if n < 16 then some (writeP t n x) else none
  | 2 => if n < 8 then some { t with stk := t.stk.set 0 n x } else none
  | 3 =>
    match n with
    | 0x000 => some { t with flags := x &&& 0xFF }
    | 0x001 => some { t with trapen := x &&& 0x1FF }
    | 0x002 => some { t with sf := x &&& 0xF }
    | 0x003 => if x.toNat ≤ 8 then some { t with depth := x.toNat, psd := x.toNat } else none
    | 0x004 => some { t with lclk := t.lclk.extractLsb' 32 32 ++ x }
    | 0x005 => some { t with lclk := x ++ t.lclk.extractLsb' 0 32 }
    | _ => none
  | _ => none

/-- The target's register that a space and an index name, where it can await a write. -/
def spaceReg (space : BitVec 3) (n : Nat) : Option Reg :=
  match space.toNat with
  | 0 => some (.s n)
  | 1 => some (.p n)
  | 3 => if n = 2 then some .sf else if n = 3 then some .psd else none
  | _ => none

/-- A supervisor group's event: a handler group in focus. -/
def HandlerFocus (s : State) : Prop := (curGroup s).handler = true

end Sys2Proof.Safety
end

