-- ==== Sys2Proof/Safety/Tender.lean ====
section
/-!
DEFINITION. The Tender's words as spec/11 gives them: how a word ends, the values of its integer words, and when a copy word can take its record;
for the statements about them.
-/

namespace Sys2Proof.Safety
open Sys2Proof.Machine

/-! ## How a word of the Tender in focus ends -/

/-- The Tender in focus issues words (R289). -/
def TenderRuns (s : State) : Prop := (curTnd s).st = .running ∨ (curTnd s).st = .waiting

/-- With its effects made in `u`, the Tender goes on at the index `target`. -/
def tenderJumps (u : State) (target : W32) : State :=
  setCurTnd u { curTnd u with tpc := target, st := .running, held := 0, got := none, tested := false, sides := [] }
/-- With its effects made in `u`, the Tender goes on at the next word. -/
def tenderGoes (s u : State) : State := tenderJumps u ((curTnd s).tpc + 1)
/-- The Tender waits at its word. -/
def tenderWaits (u : State) : State := setCurTnd u { curTnd u with st := .waiting }
/-- Every earlier access of the Tender is performed: no copy word is in flight, and the host has answered its words' own stores (R316). -/
abbrev TenderDone (s : State) : Prop :=
  (curTnd s).active = [] ∧ ∀ a ∈ s.hostAccs, ¬ (a.strm = 1 ∧ a.gang = s.cur.gang ∧ a.blk = s.cur.blk ∧ a.flight = 16 ∧ a.kind = 1)
/-- No copy word of the Tender stands at a fault of its own. -/
abbrev NoneStuck (s : State) : Prop := ∀ x ∈ (curTnd s).active, x.2.stuck = false
/-- The Tender's word raises a fault: nothing of it is performed, and the Tender is suspended at it (R317). -/
def tenderFaults (s : State) (f : FaultInfo) : State := tenderFault (setCurTnd s { curTnd s with tested := false }) f
/-- The address of TLD and TST, an exact sum (R234, R296). -/
def tenderSum (s : State) (ta : BitVec 6) (imm : BitVec 10) : Int := ((readT (curTnd s) ta.toNat).toNat : Int) + imm.toInt

/-! ## Integer words (R293, R294) -/

/-- A register of a Tender and its value as a signed number. -/
def tInt (t : Tender) (n : BitVec 6) : Int := (readT t n.toNat).toInt
def tNat (t : Tender) (n : BitVec 6) : Nat := (readT t n.toNat).toNat

/-- The result of an integer word, before it is reduced modulo 2^64: its destination, and the number, on the registers before the word. -/
def tenderValue : Instr → Option (BitVec 6 × (Tender → Int))
  | .tli d x => some (d, fun _ => x.toInt)
  | .tlih d sh x => some (d, fun t =>
      (tNat t d : Int) - (tNat t d / 2 ^ (16 * sh.toNat) % 2 ^ 16 : Nat) * 2 ^ (16 * sh.toNat) + x.toNat * 2 ^ (16 * sh.toNat))
  | .tadd d a b => some (d, fun t => tInt t a + tInt t b)
  | .taddImm d a x => some (d, fun t => tInt t a + x.toInt)
  | .tsub d a b => some (d, fun t => tInt t a - tInt t b)
  | .tsubImm d a x => some (d, fun t => tInt t a - x.toInt)
  | .tmul d a b => some (d, fun t => tInt t a * tInt t b)
  | .tmulImm d a x => some (d, fun t => tInt t a * x.toInt)
  | .tmad d a b => some (d, fun t => tInt t d + tInt t a * tInt t b)
  | .tmadImm d a x => some (d, fun t => tInt t d + tInt t a * x.toInt)
  | .tshl d a b => some (d, fun t => (tNat t a * 2 ^ tNat t b : Nat))
  | .tshlImm d a x => some (d, fun t => (tNat t a * 2 ^ (x.signExtend 64).toNat : Nat))
  | .tshr d a b => some (d, fun t => (tNat t a / 2 ^ tNat t b : Nat))
  | .tshrImm d a x => some (d, fun t => (tNat t a / 2 ^ (x.signExtend 64).toNat : Nat))
  | .tmin d a b => some (d, fun t => min (tInt t a) (tInt t b))
  | .tminImm d a x => some (d, fun t => min (tInt t a) x.toInt)
  | .tmax d a b => some (d, fun t => max (tInt t a) (tInt t b))
  | .tmaxImm d a x => some (d, fun t => max (tInt t a) x.toInt)
  | .tand d a b => some (d, fun t => (readT t a.toNat &&& readT t b.toNat).toInt)
  | .tandImm d a x => some (d, fun t => (readT t a.toNat &&& x.signExtend 64).toInt)
  | .tor d a b => some (d, fun t => (readT t a.toNat ||| readT t b.toNat).toInt)
  | .torImm d a x => some (d, fun t => (readT t a.toNat ||| x.signExtend 64).toInt)
  | _ => none

/-- The relation of `TBC` to 0, by its condition code (R295). -/
def tenderRelation (cond : BitVec 3) (x : Int) : Prop :=
  (cond = 0 ∧ x = 0) ∨ (cond = 1 ∧ x ≠ 0) ∨ (cond = 2 ∧ x < 0) ∨ (cond = 3 ∧ 0 ≤ x) ∨ (cond = 4 ∧ 0 < x) ∨ (cond = 5 ∧ x ≤ 0)

/-- The value of an environment index (R297). -/
def environment (s : State) : Nat → Nat
  | 0 => (curLpb s).argp
  | 1 => (curGang s).gx
  | 2 => (curGang s).gy
  | 3 => s.cur.blk
  | 4 => (curLpb s).gridx
  | 5 => (curLpb s).gridy
  | 6 => (curLpb s).blocks
  | _ => (curLpb s).seed.toNat

/-! ## Copy words (R302 to R304) -/

/-- The lowest free copy record. -/
def FreeRecord (t : Tender) (k : Nat) : Prop :=
  k < 16 ∧ t.recs.get none k = none ∧ ∀ j, j < k → t.recs.get none j ≠ none

/-- Tests 1 to 5 of R248 for the Tender, on `len` bytes at `off` of an A- or W-buffer handle. -/
structure SideOk (e : HEntry) (a : HAccess) (off len : Nat) : Prop where
  buffer : hBuf e < 2
  mask : inMask (if a = .read then hCons e else hProd e) .tender = true
  range : off + len ≤ hExt e
  swizzle : hSwz e ≤ 4 ∧ (hSwz e = 0 ∨ hExt e % 128 = 0)

/-- The descriptor's number of a handle bound to one, and the arrangement found by a read, are those of the copy's descriptor (R303). -/
def Matches (e : HEntry) (a : HAccess) (dn : Nat) (x : TDescr) : Prop :=
  (hDv e = 1 → hDesc e = dn) ∧ (a = .read → hFv e = 1 → hFswz e = dDswz x)

/-- Test 6 of R248; with a begin transition, that the transition is legal: FULL to DRAINING for a read, FREE to FILLING for a write (R249, R304). -/
def StateFits (e : HEntry) (a : HAccess) (bg : Bool) : Prop :=
  if bg = true then hState e = (if a = .read then 2 else 0) else if a = .read then hState e = 2 ∨ hState e = 3 else hState e = 1

/-- A begin transition, where one is asked for, is the first of its handle in this clock (R250). -/
def MayBegin (s : State) (blk h : Nat) (bg : Bool) : Prop := bg = true → canMove s s.cur.gang blk h = true
/-- The begin transition of a side, where one is asked for. -/
def begins (s : State) (blk h : Nat) (a : HAccess) (bg : Bool) : State :=
  let e := handleAt (blockAt s s.cur.gang blk) h
  if bg = true then moveHandle s s.cur.gang blk h (if a = .read then putBits e 124 2 3 else putBits (putBits e 124 2 1) 118 1 0) else s

/-- A descriptor whose fields and type are legal, with its `dims` registers from `tn` on inside the register file (R301). -/
structure DescrOk (s : State) (x : TDescr) (tn : BitVec 6) (dims : Nat) : Prop where
  reserved : bitsOf x 245 11 = 0 ∧ bitsOf x 61 3 = 0
  rank : 1 ≤ dNdim x ∧ dNdim x ≤ 5
  swizzle : dDswz x ≤ 4
  type : (descrType (curTask s) x).isSome = true
  registers : tn.toNat + dims ≤ 64

/-- What a new record holds: the word's index, opcode and captured operands, nothing done yet. -/
structure Captured (s : State) (r : CopyRec) (op dn : Nat) (args : List W64) (fin ev : Bool) (count : Nat) : Prop where
  word : r.op = op ∧ r.idx = (curTnd s).tpc ∧ r.fin = fin ∧ r.ev = ev
  descr : r.dn = dn ∧ r.desc = readD (curTnd s) dn
  args : r.args = args
  start : r.prog = 0 ∧ r.count = count ∧ r.stuck = false ∧ r.fins = 0 ∧ r.ended = 0
  order : r.seq = s.nextFlight

/-- The copy word goes on with its record in place `k`, its other effects made in `u`; its place in program order is taken. -/
def takesRecord (s u : State) (k : Nat) (r : CopyRec) : State :=
  tenderGoes s (setCurTnd { u with nextFlight := s.nextFlight + 1 } { curTnd u with recs := (curTnd u).recs.set none k (some r) })

end Sys2Proof.Safety
end

