-- ==== Sys2Proof/Certificates/Slice0/Obligations.lean ====
section
/-!
DEFINITION. The statements about the machine that are to be proved.
-/

open Sys2Proof Sys2Proof.Machine Sys2Proof.Safety

/-! ## Scalar, predicate and control words -/

/-- R187, R188, R148, R151: each two-address word has the SS layout with x[5] the width; it issues and puts Op(S(sd), S(sa)) in flight to sd with a latency
of two clocks, and sets no flag. Each division issues into the partition's divider, for at least ten clocks, eighteen for a pair, with its quotient or
remainder to write, and DZ to set with it when the divisor is 0. -/
def Obligations.TwoAddressResult : Prop :=
  (∀ i d a pair f, twoAddress i = some (d, a, pair, f) ∨ division i = some (d, a, pair, f) → EncodedSS i d a pair) ∧
  (∀ i d a pair f s, twoAddress i = some (d, a, pair, f) → CanIssue i s →
    exec i s = .next (afterWrites i s (scalarOut d pair (f _ (scalarIn (groupIn i s) d pair) (scalarIn (groupIn i s) a pair))))) ∧
  (∀ i d a pair f s, division i = some (d, a, pair, f) → CanIssue i s →
    exec i s = .next (after i s (launchFlight (atIssue i s)
      (scalarOut d pair (f _ (scalarIn (groupIn i s) d pair) (scalarIn (groupIn i s) a pair)))
      (if scalarIn (groupIn i s) a pair = 0 then fDZ else 0) .none true (if pair then 18 else 10))))

/-- R189, R190, R191, R148: each one-operand word, SCMP, SCMPN, SADDC and SSUBB has the SS layout with x[5] the pair bit. A one-operand word puts Op(S(sa))
in flight to sd; SCMP and SCMPN put SF in flight, SADDC and SSUBB sd and SF, from the operands and the carry at issue; all with a latency of two clocks. -/
def Obligations.OneOperandAndCompareResults : Prop :=
  (∀ i d a pair f, oneOperand i = some (d, a, pair, f) → EncodedSS i d a pair) ∧
  (∀ i d a pair wr f, sfWordOf i = some (d, a, pair, wr, f) → EncodedSS i d a pair) ∧
  (∀ i d a pair f s, oneOperand i = some (d, a, pair, f) → CanIssue i s →
    exec i s = .next (afterWrites i s (scalarOut d pair (f _ (scalarIn (groupIn i s) a pair))))) ∧
  (∀ i d a pair wr f s, sfWordOf i = some (d, a, pair, wr, f) → CanIssue i s →
    let r := f _ ((groupIn i s).sf.getLsbD 2) (scalarIn (groupIn i s) d pair) (scalarIn (groupIn i s) a pair)
    exec i s = .next (afterWrites i s ((if wr then scalarOut d pair r.1 else []) ++ [.sf r.2])))

/-- R180, R192, R193: SSEL, SADDI, SMOVI, SLIT and GETM put their value in flight. R194: each predicate word puts its value in flight, on whole masks
whatever the guard holds. R195: PPUSH pushes below depth 8 and PPOP pops above depth 0; at the limits they raise a predicate-stack fault. The
next push or pop finds the new depth at once, and `PSDEPTH` shows it after two clocks (the model's reading, log entry 46). -/
def Obligations.MoveAndPredicateResults : Prop :=
  (∀ i f s, scalarMove i = some f → CanIssue i s → exec i s = .next (afterWrites i s (f (groupIn i s)))) ∧
  (∀ i f s, predicateWrite i = some f → CanIssue i s → exec i s = .next (afterWrites i s [f (groupIn i s)])) ∧
  (∀ pa s, CanIssue (.ppush pa) s → let g := groupIn (.ppush pa) s
    exec (.ppush pa) s = .next (if g.depth < 8
      then after (.ppush pa) s (inFlight (setCurGroup (atIssue (.ppush pa) s)
        { g with stk := g.stk.set 0 g.depth (readP g pa.toNat), depth := g.depth + 1 }) 2 [.psd (g.depth + 1)] 0)
      else afterFault (.ppush pa) s (FaultInfo.plain 0x08))) ∧
  (∀ pd s, CanIssue (.ppop pd) s → let g := groupIn (.ppop pd) s
    exec (.ppop pd) s = .next (if 0 < g.depth
      then after (.ppop pd) s (inFlight (setCurGroup (atIssue (.ppop pd) s) { g with depth := g.depth - 1 }) 2
        [.p pd.toNat (g.stk.get 0 (g.depth - 1)), .psd (g.depth - 1)] 0)
      else afterFault (.ppop pd) s (FaultInfo.plain 0x08)))

/-- R169 to R171, R173: a transfer taken to an index that is no multiple of 8 goes there; one not taken goes on at the next word; one taken to a control
word's index raises an illegal packet. R172, R168: LOOPS with a count of 0 goes on at the next word after the body, which after a SLIT is the word after its
literal, as a fetch at the body's last word shows (the model's reading, log entry 117); else it pushes the loop when fewer than four are held, and at four it
raises a loop-stack fault. The loop test is made as a word retires, at LOOPS itself too (the model's reading, log entry 7). -/
def Obligations.Transfers : Prop :=
  (∀ i taken target pops s, transferOf (groupIn i s) i = some (taken, target, pops) → CanIssue i s →
    (taken = true → target.toNat % 8 ≠ 0 → exec i s = .next (afterJump i s (linked i s) target pops)) ∧
    (taken = true → target.toNat % 8 = 0 → exec i s = .next (afterFault i s (FaultInfo.plain 0x01))) ∧
    (taken = false → exec i s = .next (after i s (atIssue i s)))) ∧
  (∀ n last s, CanIssue (.loops n last) s →
    let g := groupIn (.loops n last) s
    let s1 := atIssue (.loops n last) s
    let e := g.pc + last.setWidth 32
    (∀ bs u, readS g n.toNat = 0 → codeWordAt s1 e = .ok bs u → exec (.loops n last) s =
      .next (setCurGroup u (retireTo (curGroup u) u.now (nextWord e (if opcodeOf (fetchedWord bs 0) = 0x34 then 1 else 0))))) ∧
    (readS g n.toNat ≠ 0 → g.loopd < 4 → exec (.loops n last) s = .next (setCurGroup s1
      { retire g s1.now 0 with
        pc := nextWord g.pc 0
        loops := g.loops.set LoopEntry.zero g.loopd ⟨nextWord g.pc 0, e, readS g n.toNat⟩
        loopd := g.loopd + 1 })) ∧
    (readS g n.toNat ≠ 0 → 4 ≤ g.loopd → exec (.loops n last) s = .next (afterFault (.loops n last) s (FaultInfo.plain 0x07))))

/-- R175: NOP does nothing; YIELD only puts off the group's next issue to the second clock. R179, R180: SETM writes one field of MODE and SETMR all of
it, for the next word; a value out of range raises an illegal-instruction fault and leaves MODE as it was. -/
def Obligations.NopYieldAndMode : Prop :=
  (∀ s, CanIssue .nop s → exec .nop s = .next (after .nop s (atIssue .nop s))) ∧
  (∀ s, CanIssue .yield s → ∃ t, exec .yield s = .next t ∧
    t = setCurGroup (atIssue .yield s) { retire (groupIn .yield s) (atIssue .yield s).now 0 with readyAt := (curGroup t).readyAt } ∧
    (atIssue .yield s).now + 2 ≤ (curGroup t).readyAt) ∧
  (∀ i f v s, (i = .setm f v ∨ ∃ r, i = .setmReg f r ∧ v.toNat = (readS (groupIn i s) r.toNat).toNat) → f.toNat ≤ 5 → modeValue f v.toNat →
    CanIssue i s → ∃ m : W32, exec i s = .next (after i s (setCurGroup (atIssue i s) { groupIn i s with mode := m })) ∧
      ∀ k, k < 32 → m.getLsbD k = withField (groupIn i s).mode f v.toNat k) ∧
  (∀ f r s, CanIssue (.setmReg f r) s → ¬ modeValue f (readS (groupIn (.setmReg f r) s) r.toNat).toNat →
    exec (.setmReg f r) s = .next (afterFault (.setmReg f r) s (FaultInfo.plain 0x02))) ∧
  (∀ r s, CanIssue (.setmr r) s → let g := groupIn (.setmr r) s
    let x := readS g r.toNat
    exec (.setmr r) s = .next (if x.toNat < 2 ^ 18 ∧ x.toNat / 2 ^ 10 % 8 < 6
      then after (.setmr r) s (setCurGroup (atIssue (.setmr r) s) { g with mode := x })
      else afterFault (.setmr r) s (FaultInfo.plain 0x02)))

/-! ## Special registers, the end of a group, and the supervisor words -/

/-- R105, R181: RDSR of a listed number in a user group puts its value in flight, CLKLO and CYCLO latching the high half; WRSR writes FLAGS, TRAPEN or SF for
the next word; a number below 0x100 that is not listed, or is read-only for WRSR, raises an illegal-instruction fault. R409: a handler group reads and writes
the registers that hold its stopped target's state; without a selection, or with a target that is not stopped, such a read or write raises a cross-group
fault. -/
def Obligations.SpecialRegisters : Prop :=
  (∀ sd num x s, let i := Instr.rdsr sd num
    CanIssue i s → s.cur.blk ≠ handlerBlk → (groupIn i s).handler = false →
    (num.toNat, x) ∈ specials (atIssue i s) s.cur.blk s.cur.grp (groupIn i s) →
    exec i s = .next (after i s
      (inFlight (setCurGroup (atIssue i s) (latched (atIssue i s).now (groupIn i s) num.toNat)) 2 [.s sd.toNat x] 0))) ∧
  (∀ sd num g s, CanIssue (.wrsr sd num) s →
    (num.toNat, g) ∈ writables (groupIn (.wrsr sd num) s) (readS (groupIn (.wrsr sd num) s) sd.toNat) →
    exec (.wrsr sd num) s = .next (after (.wrsr sd num) s (setCurGroup (atIssue (.wrsr sd num) s) g))) ∧
  (∀ sd num s, AtChecks (.rdsr sd num) s → markOk (groupIn (.rdsr sd num) s).ctl = true → 0x012 < num.toNat → num.toNat < 0x100 →
    exec (.rdsr sd num) s = .next (afterFault (.rdsr sd num) s (FaultInfo.plain 0x02))) ∧
  (∀ sd num s, AtChecks (.wrsr sd num) s → markOk (groupIn (.wrsr sd num) s).ctl = true → 3 ≤ num.toNat → num.toNat < 0x100 →
    exec (.wrsr sd num) s = .next (afterFault (.wrsr sd num) s (FaultInfo.plain 0x02))) ∧
  (∀ sd num x b k t s, CanIssue (.rdsr sd num) s → Target (atIssue (.rdsr sd num) s) b k t → (num.toNat, x) ∈ targetRegisters t →
    exec (.rdsr sd num) s = .next (afterWrites (.rdsr sd num) s [.s sd.toNat x])) ∧
  (∀ sd num b k t u s, CanIssue (.wrsr sd num) s → Target (atIssue (.wrsr sd num) s) b k t →
    (num.toNat, u) ∈ targetWrites t (readS (groupIn (.wrsr sd num) s) sd.toNat) →
    exec (.wrsr sd num) s = .next (after (.wrsr sd num) s (setGroupAt (atIssue (.wrsr sd num) s) s.cur.gang b k u))) ∧
  (∀ (sd num : BitVec 9) (write : Bool) s, let i := if write then Instr.wrsr sd num else .rdsr sd num
    CanIssue i s → num.toNat ∈ (targetRegisters Group.vacant).map Prod.fst →
    (∀ b k, (groupIn i s).sel = some (b, k) → (landAt (atIssue i s).now (groupAt (atIssue i s) s.cur.gang b k)).st = .running) →
    exec i s = .next (afterFault i s (FaultInfo.plain 0x09)))

/-- R176: STOP of a user group whose counters are 0 and that has nothing in flight exits it, its stores marked as those of an exited group; while a register
is locked or a counter is not 0 the group stays at STOP. R178, R413: BKPT, without all-stop, stops the group at a breakpoint that resumes at its next word,
and routes a record with its imm24, its code index and the guard mask. R177, R414: TRAP of a task with a host-call ring, once its counters are 0 and no host
access but an STNT is outstanding, commits the gang's stores and hands a record with its imm24 and code index to the ring; without a ring it raises an
illegal-instruction fault. -/
def Obligations.StopTrapAndBreakpoint : Prop :=
  (∀ s, CanIssue .stop s → (groupIn .stop s).handler = false →
    let g := groupIn .stop s
    let s1 := atIssue .stop s
    (g.vmc = 0 → g.bfc = 0 → g.sfc = 0 → (∀ f ∈ g.flights, f.locks = []) →
      exec .stop s = .next (setCurGroup
        (setCurGang s1 { curGang s1 with store := markRetired (curGang s1).store s.cur.blk s.cur.grp })
        { g with st := .exited, lclk := g.lclk + 1, sel := none })) ∧
    (g.vmc ≠ 0 ∨ g.bfc ≠ 0 ∨ g.sfc ≠ 0 ∨ (∃ f ∈ g.flights, f.locks ≠ []) → exec .stop s = .next s1)) ∧
  (∀ imm s, CanIssue (.bkpt imm) s → (atIssue (.bkpt imm) s).mgmt.dbgctl % 2 = 0 →
    let g := groupIn (.bkpt imm) s
    let s1 := atIssue (.bkpt imm) s
    exec (.bkpt imm) s = .next (routeRecord (setCurGroup s1 { g with st := .brk, owed := true, resume := nextWord g.pc 0 }) s.cur.gang 0 s.cur.blk s.cur.grp
      0x21 (faultWords s1 s.cur.gang 0 s.cur.blk s.cur.grp g.pc (guardMask g) { FaultInfo.plain 0x21 with imm := imm.toNat }))) ∧
  (∀ imm s, CanIssue (.trap imm) s →
    let i := Instr.trap imm
    let g := groupIn i s
    let s1 := atIssue i s
    ((curLpb s1).hcring = 0 → exec i s = .next (afterFault i s (FaultInfo.plain 0x02))) ∧
    ((curLpb s1).hcring ≠ 0 → g.vmc = 0 → g.bfc = 0 → g.sfc = 0 → g.called = false → (∀ a ∈ groupHostWaits s1, a.nt = true) →
      ∃ t, exec i s = .next t ∧
        t.calls = (commitGang (setCurGroup s1 { g with called := true, resume := nextWord g.pc 0 }) s.cur.gang).calls ++
          [⟨faultWords s1 s.cur.gang 0 s.cur.blk s.cur.grp g.pc (guardMask g) { FaultInfo.plain 0x22 with imm := imm.toNat },
            (curLpb s1).hcring, (curLpb s1).hclog, s.cur.gang, 0, s.cur.blk, s.cur.grp, none, false, none⟩] ∧
        (curGang t).store = [] ∧ (curGang t).window = false ∧ (curGroup t).resume = nextWord g.pc 0 ∧ (curGroup t).pc = g.pc))

/-- R182: XSEL selects a group within the gang's shape and raises a cross-group fault for any other value. R185, R416, R425: ERET outside a save or restore
makes the target run from its resume index and ends the selection, and the supervisor group goes on at its next word; while an all-stop holds the gang the
target stays stopped there; during a restore it is only made ready. An index that names a control word is moved to the next word (the model's choice, log
entry 135). -/
def Obligations.SelectionWords : Prop :=
  (∀ sa s, CanIssue (.xsel sa) s →
    let i := Instr.xsel sa
    let x := readS (groupIn i s) sa.toNat
    let l := curLpb (atIssue i s)
    exec i s = .next (if x.toNat < 1024 ∧ x.toNat / 64 < l.blocks ∧ x.toNat % 64 < l.groups
      then after i s (setCurGroup (atIssue i s) { groupIn i s with sel := some (x.toNat / 64, x.toNat % 64) })
      else afterFault i s (FaultInfo.plain 0x09))) ∧
  (∀ b k t s, CanIssue .eret s → Target (atIssue .eret s) b k t →
    let s1 := atIssue .eret s
    ∃ u, exec .eret s = .next (after .eret s u) ∧ (curGroup u) = { groupIn .eret s with sel := none } ∧ u.mem = s1.mem ∧
      ((curGang s1).phase = .running →
        (groupAt u s.cur.gang b k).pc = (if t.resume.toNat % 8 = 0 then t.resume + 1 else t.resume) ∧
        (groupAt u s.cur.gang b k).st = if b ≠ handlerBlk ∧ (curGang s1).allStop then .savePoint else .running) ∧
      ((curGang s1).phase = .restoring → groupAt u s.cur.gang b k = { t with freed := true }))

/-- R183, R184: XRV and XRS put the target's register in flight to the supervisor group's own register; XWV and XWS write the target's register at
once. -/
def Obligations.TargetAccess : Prop :=
  (∀ own target b k t s, CanIssue (.xrv own target) s → Target (atIssue (.xrv own target) s) b k t → target.toNat < t.nv →
    Settled t (.v target.toNat) → exec (.xrv own target) s = .next (after (.xrv own target) s (launchFlight (atIssue (.xrv own target) s)
      ((List.range 32).map fun l => .v own.toNat l (readV t target.toNat l)) 0 .none false))) ∧
  (∀ own target b k t s, CanIssue (.xwv own target) s → Target (atIssue (.xwv own target) s) b k t → target.toNat < t.nv →
    Settled t (.v target.toNat) → ∃ u, exec (.xwv own target) s =
        .next (after (.xwv own target) s (setGroupAt (atIssue (.xwv own target) s) s.cur.gang b k u)) ∧
      u = { t with v := u.v } ∧
      ∀ r l, l < 32 → readV u r l = if r = target.toNat then readV (groupIn (.xwv own target) s) own.toNat l else readV t r l) ∧
  (∀ sd idx space b k t x s, CanIssue (.xrs sd idx space) s → Target (atIssue (.xrs sd idx space) s) b k t →
    spaceRead t space idx.toNat = some x → (∀ r, spaceReg space idx.toNat = some r → Settled t r) →
    exec (.xrs sd idx space) s = .next (after (.xrs sd idx space) s
      (launchFlight (atIssue (.xrs sd idx space) s) [.s sd.toNat x] 0 .none false))) ∧
  (∀ sd idx b k t x s, let i := Instr.xrs sd idx 3
    CanIssue i s → Target (atIssue i s) b k t → b ≠ handlerBlk → t.handler = false →
    (idx.toNat, x) ∈ specials (atIssue i s) b k t → (∀ r, spaceReg 3 idx.toNat = some r → Settled t r) →
    exec i s = .next (after i s (launchFlight
      (setGroupAt (atIssue i s) s.cur.gang b k (latched (atIssue i s).now t idx.toNat)) [.s sd.toNat x] 0 .none false))) ∧
  (∀ sd idx space b k t u s, CanIssue (.xws sd idx space) s → Target (atIssue (.xws sd idx space) s) b k t →
    spaceWrite t space idx.toNat (readS (groupIn (.xws sd idx space) s) sd.toNat) = some u →
    (∀ r, spaceReg space idx.toNat = some r → Settled t r) →
    exec (.xws sd idx space) s = .next (after (.xws sd idx space) s (setGroupAt (atIssue (.xws sd idx space) s) s.cur.gang b k u)))

/-- R241, R361, R409: a supervisor group's writes of XREL, XFAIL, TINVCTL and KVINVCTL. XREL releases the Tender and the sequencer of the selected block;
XFAIL with a non-zero code fails the task, with no selection too (the model's reading, log entry 61); TINVCTL with no invalidation in progress starts one;
KVINVCTL starts one where bit 0 is set. R241, R361, R440: when the oldest invalidation is done, no TLB holds a translation it covers, a host's request is
answered, and no cluster holds a KV entry of the space. -/
def Obligations.SupervisorInvalidations : Prop :=
  (∀ val b k s, HandlerFocus s → (curGroup s).sel = some (b, k) → exec (.xrel val) s = .next
    (let s1 := if val.getLsbD 0 ∧ (blockAt s s.cur.gang b).tnd.st = .suspended then noteFreed (releaseTender s s.cur.gang b) s.cur.gang 1 b 0 else s
     if val.getLsbD 1 ∧ (blockAt s1 s.cur.gang b).mat.st = .suspended then noteFreed (releaseMatrix s1 s.cur.gang b) s.cur.gang 2 b 0 else s1)) ∧
  (∀ val s, HandlerFocus s → exec (.xfail val) s = .next
    (if val.toNat % 256 = 0 then s else failTask s (curGang s).task 3 (val.toNat % 256) [])) ∧
  (∀ val s, HandlerFocus s → val.toNat / 2 ^ 16 % 4 ≠ 3 → s.tinvs = [] → exec (.tinvctl val) s = .next
    { s with tinvs := [(val, (curGroup s).tinvhi.toNat * 2 ^ 32 + (curGroup s).tinvlo.toNat, 0)] }) ∧
  (∀ val s, HandlerFocus s → exec (.kvinvctl val) s = .next (if val.getLsbD 0
    then { s with kvinvs := s.kvinvs ++
      [devicePa s (curLpb s).asid ((curGroup s).kvinvhi.toNat * 2 ^ 32 + (curGroup s).kvinvlo.toNat) .read] } else s)) ∧
  (∀ x va tag r s, s.tinvs = (x, va, tag) :: r → ∃ t, exec .translationInvalidationDone s = .next t ∧ t.tinvs = r ∧ t.mem = s.mem ∧
    (∀ c, ∀ e ∈ (coreAt t c).tlb, tinvCovers x va e = false) ∧ (∀ c, ∀ e ∈ (clusterAt t c).tlb, tinvCovers x va e = false) ∧
    t.outbox = s.outbox ++ (if tag = 0 then [] else [⟨0x85, 0, tag - 1, 0, 0, []⟩])) ∧
  (∀ d r s, s.kvinvs = some d :: r → ∃ t, exec .kvInvalidationDone s = .next t ∧ t.kvinvs = r ∧ t.mem = s.mem ∧
    ∀ c, ∀ e ∈ (clusterAt t c).kvtlb, e.desc ≠ d)

/-! ## Rounding -/

/-- R116, R119, R125, R127 to R131: decoding, and RoundTo into every format and mode. The code of a finite value decodes to its magnitude and sign. A
non-zero value, with its magnitude on the companding curve, is rounded to a neighbour as the mode's row says, with the overflow result beyond the largest
finite value, and raises exactly the flags of step 5 and of R129; a zero, an infinity and a NaN become what steps 1 and 2 and R131 say. The largest finite
negative value of a narrow integer format is −(2^m − 1) (the model's reading, log entry 13). -/
def Obligations.RoundTo : Prop :=
  (∀ f neg j, FmtOk f → curveOf f = [] → j < magnitudes f → (neg = true → unsignedFlag f = none) →
    (j = 0 → f.decode (finiteCode f neg j) = .zero (decide (signBit f neg ≠ 0))) ∧
    (j ≠ 0 → ∃ q, f.decode (finiteCode f neg j) = .fin q ∧ 0 < q.den ∧ q.num ≠ 0 ∧
      ratOf q = if neg then -gridAt (gridOf f) j else gridAt (gridOf f) j)) ∧
  (∀ f mode dth q y, FmtOk f → 0 < q.den → q.num ≠ 0 → OnCurve (curveOf f) (size (ratOf q)) y →
    RoundsTo f mode dth (decide (q.num < 0)) (cutAt y) (roundTo f mode dth (.fin q))) ∧
  (∀ f q, FmtOk f → 0 < q.den → q.num ≠ 0 → ∃ y, OnCurve (curveOf f) (size (ratOf q)) y) ∧
  (∀ f mode dth neg, FmtOk f → roundTo f mode dth (.zero neg) = roundedZero f neg) ∧
  (∀ f mode dth neg, FmtOk f → roundTo f mode dth (.inf neg) = roundedInf f mode neg) ∧
  ∀ f mode dth neg sig frac fs, FmtOk f → RoundsNan f neg sig frac fs (roundTo f mode dth (.nan neg sig frac fs))

/-- R131, R132, R211 to R213, R216, R227: the exact arithmetic before the one rounding. Sum, product, quotient, fused product and exact sum of finite
operands deliver the rounding of the rational result, zeros with the signs of R132; infinities, the invalid cases and x ÷ 0 give what R131 and R134
say; the first NaN operand is the result. A remainder is a − n × b for the nearest n, ties to even; a square root is that of a square, or lies between
two values that round alike and enclose it, if precision suffices (log entry 23); minimum and maximum give an operand's code. -/
def Obligations.ExactArithmetic : Prop :=
  (∀ f m dth a b x y, FmtOk f → Proper a → Proper b → realOf a = some x → realOf b = some y →
    Delivers f m dth (x + y) (zeroSign m [a, b]) (arith2 f m dth (addE m) a b) ∧
    Delivers f m dth (x * y) (a.sign != b.sign) (arith2 f m dth mulE a b) ∧
    (y ≠ 0 → Delivers f m dth (x / y) (a.sign != b.sign) (arith2 f m dth divE a b)) ∧
    (y = 0 → x ≠ 0 → arith2 f m dth divE a b =
      ⟨(roundTo f m dth (.inf (a.sign != b.sign))).code, (roundTo f m dth (.inf (a.sign != b.sign))).flags ||| fDZ⟩) ∧
    (y = 0 → x = 0 → arith2 f m dth divE a b = invalidResult f m) ∧
    (y ≠ 0 → x ≠ 0 → ∃ n : Int, 2 * size (x - n * y) ≤ size y ∧ (2 * size (x - n * y) = size y → n % 2 = 0) ∧
      Delivers f m dth (x - n * y) a.sign (remOf f m dth a b)) ∧
    (∀ mx ca cb, x < y → minMax f mx a b ca cb = ⟨if mx then cb else ca, 0⟩ ∧ minMax f mx b a cb ca = ⟨if mx then cb else ca, 0⟩)) ∧
  (∀ f m dth np a b d x y z, FmtOk f → Proper a → Proper b → Proper d → realOf a = some x → realOf b = some y → realOf d = some z →
    Delivers f m dth ((if np then -(x * y) else x * y) + z)
      (zeroSign m [if x * y = 0 then .zero ((a.sign != b.sign) != np) else .fin Q.one, d]) (fused f m dth np a b d)) ∧
  (∀ f m dth (ts : List FVal) (xs : List Rat), FmtOk f → (∀ t ∈ ts, Proper t) → ts.map realOf = xs.map some →
    Delivers f m dth (xs.foldl (· + ·) 0) (zeroSign m ts) (sumRound f m dth ts)) ∧
  (∀ f m dth (ts : List FVal) p, FmtOk f → (∀ t ∈ ts, t.isNan = false) → .inf p ∈ ts →
    sumRound f m dth ts = if .inf (!p) ∈ ts then invalidResult f m else roundTo f m dth (.inf p)) ∧
  (∀ f m dth p b x, FmtOk f → Proper b → realOf b = some x → let inf (neg : Bool) := roundTo f m dth (.inf neg)
    arith2 f m dth (addE m) (.inf p) b = inf p ∧ arith2 f m dth (addE m) b (.inf p) = inf p ∧
    (x ≠ 0 → arith2 f m dth mulE (.inf p) b = inf (p != b.sign) ∧ arith2 f m dth mulE b (.inf p) = inf (p != b.sign)) ∧
    (x = 0 → arith2 f m dth mulE (.inf p) b = invalidResult f m ∧ arith2 f m dth mulE b (.inf p) = invalidResult f m) ∧
    arith2 f m dth divE (.inf p) b = inf (p != b.sign) ∧ arith2 f m dth divE b (.inf p) = roundTo f m dth (.zero (p != b.sign))) ∧
  (∀ f m dth p q, FmtOk f → let inf (neg : Bool) := roundTo f m dth (.inf neg)
    arith2 f m dth (addE m) (.inf p) (.inf q) = (if p = q then inf p else invalidResult f m) ∧
    arith2 f m dth mulE (.inf p) (.inf q) = inf (p != q) ∧ arith2 f m dth divE (.inf p) (.inf q) = invalidResult f m) ∧
  (∀ f m dth np a b d, FmtOk f → d.isNan = false →
    ((a.isInf = true ∧ b.isZero = true ∨ a.isZero = true ∧ b.isInf = true) → fused f m dth np a b d = invalidResult f m) ∧
    ((a.isInf = true ∧ b.isNan = false ∧ b.isZero = false ∨ b.isInf = true ∧ a.isNan = false ∧ a.isZero = false) →
      let s := (a.sign != b.sign) != np
      fused f m dth np a b d = if d = .inf (!s) then invalidResult f m else roundTo f m dth (.inf s)) ∧
    (a.isFinite = true → b.isFinite = true → ∀ p, d = .inf p → fused f m dth np a b d = roundTo f m dth d)) ∧
  (∀ f m dth a b, a.isZero = true ∨ b.isZero = true → mulz f m dth a b = roundTo f m dth (.zero (a.sign != b.sign))) ∧
  (∀ f m dth (op : FVal → FVal → Exact) a b, a.isNan = true ∨ b.isNan = true →
    let v := if a.isNan = true then a else b
    arith2 f m dth op a b = ⟨(roundTo f .rne 0 v).code, if a.isSig || b.isSig then (roundTo f .rne 0 v).flags ||| fNV else (roundTo f .rne 0 v).flags⟩) ∧
  (∀ f m dth q, FmtOk f → 0 < q.den → 0 < q.num →
    (∃ v, Proper v ∧ (∃ x, realOf v = some x ∧ 0 < x ∧ x * x = ratOf q) ∧ sqrtOf f m dth (.fin q) = roundTo f m dth v) ∨
    (∃ lo hi, Proper (.fin lo) ∧ Proper (.fin hi) ∧ 0 < ratOf lo ∧ ratOf lo * ratOf lo ≤ ratOf q ∧ 0 < ratOf hi ∧ ratOf q ≤ ratOf hi * ratOf hi ∧
      sqrtOf f m dth (.fin q) = roundTo f m dth (.fin lo) ∧ sqrtOf f m dth (.fin q) = roundTo f m dth (.fin hi)) ∨
    sqrtOf f m dth (.fin q) = ⟨Config.undecidedCode f.width % 2 ^ f.width, fNX⟩) ∧
  ∀ f m dth v, (∃ q, v = .fin q ∧ q.num < 0) ∨ v = .inf true → sqrtOf f m dth v = invalidResult f m

/-! ## Vector words -/

/-- R197, R200 to R203, R148: under an integer type, each integer word puts in flight, for every enabled lane and no other, the exact result clamped
under ISAT or reduced modulo 2^w, with vector-integer latency and no flag. R204: VCMP puts a whole mask in flight, bit l the relation of the enabled
lane l's elements, 0 for a disabled lane. R208: VSCAN gives every enabled lane the combination of the enabled lanes up to it, VRED that of all enabled
lanes. -/
def Obligations.VectorIntegerResults : Prop :=
  (∀ i d a b f s, vectorInteger i = some (d, a, b, f) → CanIssue i s → let g := groupIn i s
    let e := modeEtype g
    e < 8 → exec i s = .next (after i s (inFlight (atIssue i s) 4
      ((lanesOn g).flatMap fun l => elementOut (intSigned e) d l (narrowed (modeIsat g) (intSigned e) (intWidth e)
        (f (intSigned e) (intWidth e) (element g a l _) (element g b l _) (element g d l _)))) 0))) ∧
  (∀ i d a f s, vectorCount i = some (d, a, f) → CanIssue i s → let g := groupIn i s
    let e := modeEtype g
    e < 8 → exec i s = .next (after i s (inFlight (atIssue i s) 4
      ((lanesOn g).flatMap fun l => elementOut false d l (BitVec.ofNat (intWidth e) (f (intWidth e) (element g a l _)))) 0))) ∧
  (∀ pd cond va vb s, let i := Instr.vcmp pd cond va vb
    CanIssue i s → let g := groupIn i s
    let e := modeEtype g
    e < 8 → ∃ m : W32, exec i s = .next (after i s (inFlight (atIssue i s) 4 [.p pd.toNat m] 0)) ∧
      ∀ l, l < 32 → m.getLsbD l = (guardAt g l &&
        relation cond (valueOf (intSigned e) (element g va l (intWidth e))) (valueOf (intSigned e) (element g vb l (intWidth e))))) ∧
  (∀ i d a op s, (i = .vscan d a op ∨ i = .vred d a op) → CanIssue i s → let g := groupIn i s
    let e := modeEtype g
    e < 8 → exec i s = .next (after i s (inFlight (atIssue i s) 4
      ((lanesOn g).flatMap fun l => elementOut (intSigned e) d l (combined op (modeIsat g) (intSigned e) (intWidth e)
        (((lanesOn g).filter fun j => decide (i = .vred d a op ∨ j ≤ l)).map fun j => element g a j _))) 0)))

/-- R198, R203, R205, R207: under any legal type, each bit, select and permute word delivers its w bits, to the enabled lanes or, for VSEL, to all.
R206, R210: VBCAST, VLANE, VXTR, VINS and VHASH put their values in flight whatever the type; VHASH's mix is a bijection that maps 0 to 0. R209: VPACK
and VUNPK move 8-bit or 16-bit units, blocked nf slots included; VUNPK of unit 2 or 3 of a 16-bit type is illegal. -/
def Obligations.VectorBitResults : Prop :=
  (∀ i opc all d a b f s, vectorBits i = some (opc, all, d, a, b, f) → CanIssue i s → modeEtype (groupIn i s) ≤ 12 → SlotUsable (atIssue i s) →
    exec i s = .next (after i s (delivered (atIssue i s) 4 (parkOf opc d a b) (bitResults (groupIn i s) all d a b f)))) ∧
  (∀ i f s, laneMove i = some f → CanIssue i s → exec i s = .next (after i s (inFlight (atIssue i s) 4 (f (groupIn i s)) 0))) ∧
  (∀ x y, hashMix x = hashMix y → x = y) ∧ (∀ y, ∃ x, hashMix x = y) ∧ hashMix 0 = 0 ∧
  (∀ vd va vb s, let i := Instr.vpack vd va vb
    CanIssue i s → let g := groupIn i s
    modeEtype g ∈ [0, 1, 4, 5, 8, 9, 12] → (modeEtype g = 12 → nfSlotOk (curTask (atIssue i s)) (modeNfs g) = true) →
    exec i s = .next (after i s (delivered (atIssue i s) 4 (parkOf 0x61 vd va vb)
      ((lanesOn g).map fun l => { lane := l, ws := [.v vd.toNat l (packed g va vb l)], flags := 0 })))) ∧
  (∀ vd va k s, let i := Instr.vunpk vd va k
    CanIssue i s → let g := groupIn i s
    modeEtype g ∈ [0, 1, 4, 5, 8, 9, 12] → (modeEtype g = 12 → nfSlotOk (curTask (atIssue i s)) (modeNfs g) = true) →
    exec i s = .next (if modeEtype g ∈ [1, 5, 8, 9] ∧ 2 ≤ k.toNat then afterFault i s (FaultInfo.plain 0x02)
      else after i s (delivered (atIssue i s) 4 (parkOf 0x62 vd va va)
        ((lanesOn g).map fun l => { lane := l, ws := [.v vd.toNat l (unpacked g va k l)], flags := 0 }))))

/-- R121, R198: a vector word issued with a type outside its class raises an illegal-type fault: integer, bit, pack, floating, quantise and rotation words,
each with its own types and, under nf, with its own block sizes; so do an nf slot whose descriptor is invalid, and a conversion to nf through a slot that
is invalid or blocked. -/
def Obligations.IllegalType : Prop :=
  (∀ i types blocks s, legalTypes i = some (types, blocks) → CanIssue i s → types (modeEtype (groupIn i s)) = false →
    exec i s = .next (afterFault i s (FaultInfo.plain 0x04))) ∧
  (∀ i types blocks s, legalTypes i = some (types, blocks) → CanIssue i s → let t := curTask (atIssue i s)
    let k := modeNfs (groupIn i s)
    modeEtype (groupIn i s) = 12 → (nfSlotOk t k = false ∨ blocks (nfSlot t k).blk = false) → exec i s = .next (afterFault i s (FaultInfo.plain 0x04))) ∧
  ∀ i opc d a k fromInt s, conversion i = some (opc, d, a, k, fromInt) → k = 12 → CanIssue i s → let t := curTask (atIssue i s)
    let n := modeNfs (groupIn i s)
    (nfSlotOk t n = false ∨ (nfSlot t n).blk ≠ 0) → exec i s = .next (afterFault i s (FaultInfo.plain 0x04))

/-- R211 to R213, R217: each floating word of one result per lane delivers, for every enabled lane, the single rounding of its exact result, with
floating-point latency; on a companded slot the lane of a NaN operand does not park. R214: VFABS, VFNEG and VFCPS write the operand's code with a new sign
bit and set no flag; an nf slot without a sign is an illegal type. -/
def Obligations.FloatLaneResults : Prop :=
  (∀ i opc d a b f fm s, floatLane i = some (opc, d, a, b, f) → CanIssue i s → floatFmt (curTask (atIssue i s)) (groupIn i s) = some fm →
    let g := groupIn i s
    ∃ nd : Nat → ParkNeed, exec i s = .next (after i s (delivered (atIssue i s) 6 (parkOf opc d a b) ((lanesOn g).map fun l =>
      { lane := l, ws := laneWrites fm d.toNat l (f fm g l).code, flags := (f fm g l).flags,
        opa := laneCode g fm a.toNat l, opb := laneCode g fm b.toNat l, need := nd l }))) ∧
      ∀ l, (laneVal g fm a.toNat l).isNan = true ∨ (laneVal g fm b.toNat l).isNan = true → nd l = .never) ∧
  (∀ i opc d a b f fm s, signLane i = some (opc, d, a, b, f) → CanIssue i s → floatFmt (curTask (atIssue i s)) (groupIn i s) = some fm →
    let g := groupIn i s
    ((∃ n, fm = .nar n ∧ n.sgn = false) → exec i s = .next (afterFault i s (FaultInfo.plain 0x04))) ∧
    ((∀ n, fm = .nar n → n.sgn = true) → ∃ rs : List LaneResult, exec i s = .next (after i s (delivered (atIssue i s) 6 (parkOf opc d a b) rs)) ∧
      rs.map LaneResult.lane = lanesOn g ∧ ∀ r ∈ rs, r.flags = 0 ∧ ∃ c, r.ws = laneWrites fm d.toNat r.lane c ∧
        c.testBit (fm.width - 1) = f ((laneCode g fm a.toNat r.lane).testBit (fm.width - 1)) ((laneCode g fm b.toNat r.lane).testBit (fm.width - 1)) ∧
        ∀ k, k ≠ fm.width - 1 → c.testBit k = (laneCode g fm a.toNat r.lane).testBit k))

/-- R215: VFCMP delivers a whole mask and its flags; no lane of it parks, on a companded slot either (the model's reading, log entry 63). R217: VFCLS writes
one class bit to one register whatever the type; VFLDX scales by a power of two and rounds once; VFFRX gives the fraction, through RoundTo where a format
cannot hold it (log entry 114), or the exponent. Zeros, infinities and NaNs are returned by VFLDX and by VFFRX's fraction as under R131, and their exponent
is 0, or 0x7FFFFFFF with `NV`. -/
def Obligations.CompareAndPartsResults : Prop :=
  (∀ pd cond va vb fm s, let i := Instr.vfcmp pd cond va vb
    CanIssue i s → floatFmt (curTask (atIssue i s)) (groupIn i s) = some fm →
    let g := groupIn i s
    let rel (l : Nat) := floatRel cond.toNat (laneVal g fm va.toNat l) (laneVal g fm vb.toNat l)
    ∃ (m : W32) (fl : FlagSet), exec i s =
        .next (after i s (delivered (atIssue i s) 6 (parkOf 0x8E 0 va vb) [{ lane := 0, ws := [.p pd.toNat m], flags := fl }])) ∧
      (∀ l, l < 32 → m.getLsbD l = (guardAt g l && (rel l).1)) ∧
      ∀ k, fl.getLsbD k = (List.range 32).any fun l => guardAt g l && (rel l).2.getLsbD k) ∧
  (∀ vd va fm s, let i := Instr.vfcls vd va
    CanIssue i s → floatFmt (curTask (atIssue i s)) (groupIn i s) = some fm → let g := groupIn i s
    exec i s = .next (after i s (delivered (atIssue i s) 6 (parkOf 0x8D vd va va) ((lanesOn g).map fun l =>
      { lane := l, ws := [.v vd.toNat l (BitVec.ofNat 32 (2 ^ classBit fm (laneCode g fm va.toNat l)))], flags := 0,
        opa := laneCode g fm va.toNat l })))) ∧
  (∀ vd va vb fm s, let i := Instr.vfldx vd va vb
    CanIssue i s → floatFmt (curTask (atIssue i s)) (groupIn i s) = some fm → let g := groupIn i s
    ∃ rs : List LaneResult, exec i s = .next (after i s (delivered (atIssue i s) 6 (parkOf 0x94 vd va vb) rs)) ∧
      rs.map LaneResult.lane = lanesOn g ∧ ∀ r ∈ rs,
        let x := partResult fm (modeRnd g) r.lane (fun q => q.scale2 (readV g vb.toNat r.lane).toInt) (laneVal g fm va.toNat r.lane)
        r.ws = laneWrites fm vd.toNat r.lane x.code ∧ r.flags = x.flags) ∧
  (∀ vd va (sel : BitVec 1) fm s, let i := Instr.vffrx vd va sel
    CanIssue i s → floatFmt (curTask (atIssue i s)) (groupIn i s) = some fm → let g := groupIn i s
    ∃ rs : List LaneResult, exec i s = .next (after i s (delivered (atIssue i s) 6 (parkOf 0x95 vd va va) rs)) ∧
      rs.map LaneResult.lane = lanesOn g ∧ ∀ r ∈ rs, let a := laneVal g fm va.toNat r.lane
        (sel = 1 → if a.isNan = true ∨ a.isInf = true then r.ws = [.v vd.toNat r.lane 0x7FFFFFFF] ∧ r.flags = fNV
          else r.ws = [.v vd.toNat r.lane (BitVec.ofInt 32 (if a.isZero then 0 else a.q.log2 + 1))] ∧ r.flags = 0) ∧
        (sel = 0 → let x := partResult fm (modeRnd g) r.lane (fun q => q.scale2 (-(q.log2 + 1))) a
          r.ws = laneWrites fm vd.toNat r.lane x.code ∧ r.flags = x.flags))

/-- R151, R216: VFDIV, VFSQRT and VFREM go to the partition's divider with the results of the enabled lanes and its least latency, and never park; on a
companded slot they raise SFC (log entry 63), and a remainder that a format cannot hold goes through RoundTo (log entry 114). R156 to R158, R221 to R226:
each elementary word is launched as an escalatable word with the results of the enabled lanes, whichever of them park; the lane of a NaN operand does not; a
table's fixed result is delivered through RoundTo (log entry 115). -/
def Obligations.DividerAndElementaryResults : Prop :=
  (∀ i d wide f fm s, dividerLane i = some (d, wide, f) → CanIssue i s → floatFmt (curTask (atIssue i s)) (groupIn i s) = some fm →
    let g := groupIn i s
    ∃ fl : FlagSet, exec i s = .next (after i s (launchFlight (atIssue i s) ((lanesOn g).flatMap fun l => laneWrites fm d.toNat l (f fm g l).code) fl
        (if companded (curTask (atIssue i s)) g then .sfc else .none) true (if typeWide g then wide else 12))) ∧
      ∀ k, fl.getLsbD k = (List.range 32).any fun l => guardAt g l && (f fm g l).flags.getLsbD k) ∧
  (∀ i opc d a b srcs f fm s, elementaryLane i = some (opc, d, a, b, srcs, f) → CanIssue i s →
    floatFmt (curTask (atIssue i s)) (groupIn i s) = some fm → let g := groupIn i s
    ∃ rs : List LaneResult, exec i s = .next (after i s (escLaunch (atIssue i s) ⟨opc, 0, d.toNat, a.toNat, b.toNat, named g srcs⟩ rs)) ∧
      rs.map LaneResult.lane = lanesOn g ∧
      ∀ r ∈ rs, r.ws = laneWrites fm d.toNat r.lane (f fm g r.lane).code ∧ r.flags = (f fm g r.lane).flags ∧
        ((laneVal g fm a.toNat r.lane).isNan = true → r.need = .never))

/-- R218: a conversion rounds the operand's value once to the destination type; with a companded slot on either side it is escalatable. R219, R220: on an
unblocked slot VFQNT rounds each enabled lane's binary32 value to the slot's format and writes 0 as side data, and VFDQ rounds each enabled lane's code to
binary32. R123, R124, R126: on a blocked slot VFQNT builds each block that has an enabled lane, a disabled one counting as +0, and writes its codes to the
enabled lanes of vd and its side data to all its lanes of vb; VFDQ gives each enabled lane its outlier record's value, or its code times the scale, rounded
once; a NaN scale the canonical NaN. Left open: a scale format with no positive value (log entry 109), special codes under special scales (log entry 111). -/
def Obligations.ConversionResults : Prop :=
  (∀ i opc d a k fromInt sf df s, conversion i = some (opc, d, a, k, fromInt) → CanIssue i s → let g := groupIn i s
    let t := curTask (atIssue i s)
    (if fromInt then modeEtype g < 8 ∧ sf = .int (intSigned (modeEtype g)) (intWidth (modeEtype g)) else floatFmt t g = some sf) →
    convFmt t g k.toNat = some df → ∃ nd : Nat → ParkNeed,
    let rs : List LaneResult := (lanesOn g).map fun l =>
      let r := roundTo df (modeRnd g) l (laneVal g sf a.toNat l)
      { lane := l, ws := laneWrites df d.toNat l r.code, flags := r.flags, opa := laneCode g sf a.toNat l, need := nd l }
    exec i s = .next (after i s (if convComp t g k.toNat then escLaunch (atIssue i s) (parkOf opc d a a) rs
      else inFlight (atIssue i s) 6 (rs.flatMap LaneResult.ws) (rs.foldl (fun x r => x ||| r.flags) 0)))) ∧
  (∀ vd va vb n s, let i := Instr.vfqnt vd va vb
    CanIssue i s → let g := groupIn i s
    quantFmt (curTask (atIssue i s)) g = some n →
    ∃ rs : List LaneResult, exec i s = .next (after i s (delivered (atIssue i s) 6 (parkOf 0x8B vd va vb) rs)) ∧
      (n.blk = 0 → rs.map LaneResult.lane = lanesOn g ∧ ∀ r ∈ rs,
        let x := roundTo (.nar n) (modeRnd g) r.lane (Fmt.f32.decode (readV g va.toNat r.lane).toNat)
        r.ws = [.v vd.toNat r.lane (BitVec.ofNat 32 x.code), .v vb.toNat r.lane 0] ∧ r.flags = x.flags) ∧
      (n.blk ≠ 0 → let sf := scaleFmt (curTask (atIssue i s)) n
        (∃ k x, ScaleValue sf k x) → ∃ q : Nat → QBlock,
          (∀ j, builtBlock g n j = true → Quantised n sf (modeRnd g) 0 (blockInputs g va n j) (q j)) ∧
          rs.map (fun r => (r.lane, r.ws, r.flags)) = ((List.range (32 / n.blk)).filter (builtBlock g n)).flatMap fun j => (List.range n.blk).map fun p =>
            let l := n.blk * j + p
            (l, (if guardAt g l then [.v vd.toNat l (BitVec.ofNat 32 (((q j).codes[p]?).getD 0))] else []) ++ [.v vb.toNat l (sideData (q j) p)],
              if p = 0 then (q j).flags else 0)) ∧
      ∀ r ∈ rs, ∀ w ∈ r.ws, ∃ l x, w = .v vb.toNat l x ∨ (w = .v vd.toNat l x ∧ guardAt g l = true)) ∧
  (∀ vd va vb n s, let i := Instr.vfdq vd va vb
    CanIssue i s → let g := groupIn i s
    quantFmt (curTask (atIssue i s)) g = some n →
    ∃ rs : List LaneResult, exec i s = .next (after i s (delivered (atIssue i s) 6 (parkOf 0x8C vd va vb) rs)) ∧
      rs.map LaneResult.lane = lanesOn g ∧ (∀ r ∈ rs, ∃ x, r.ws = [.v vd.toNat r.lane x]) ∧
      (n.blk = 0 → n.curve = [] → ∀ r ∈ rs,
        let x := roundTo .f32 (modeRnd g) r.lane (n.decode ((readV g va.toNat r.lane).toNat % 2 ^ n.width))
        r.ws = [.v vd.toNat r.lane (BitVec.ofNat 32 x.code)] ∧ r.flags = x.flags) ∧
      (n.blk = 0 → n.curve ≠ [] → ∀ r ∈ rs, r.flags = 0 ∧ r.ws = [.v vd.toNat r.lane (BitVec.ofNat 32
        (roundTo .f32 .rne 0 (n.decode ((readV g va.toNat r.lane).toNat % 2 ^ n.width))).code)]) ∧
      (n.blk ≠ 0 → ∀ r ∈ rs, let side (k : Nat) : Nat := (readV g vb.toNat (r.lane / n.blk * n.blk + k)).toNat
        ∃ v, BlockValue n (scaleFmt (curTask (atIssue i s)) n) (side 0 % 2 ^ 8)
            ((List.range (min (side 0 / 2 ^ 8 % 2 ^ 8) n.outl)).map fun k => (side (1 + k) % 2 ^ 6, side (1 + k) / 2 ^ 16)) (r.lane % n.blk)
            ((readV g va.toNat r.lane).toNat % 2 ^ n.width) v ∧
          if n.curve = [] then r.ws = [.v vd.toNat r.lane (BitVec.ofNat 32 (roundTo .f32 (modeRnd g) r.lane v).code)] ∧
              r.flags = (roundTo .f32 (modeRnd g) r.lane v).flags
            else r.ws = [.v vd.toNat r.lane (BitVec.ofNat 32 (roundTo .f32 .rne 0 v).code)] ∧ r.flags = 0))

/-- R227: VFRED and VFSCAN of operation 0 are escalatable exact sums rounded once; of operations 1 and 2 they never park; with no lane
enabled nothing is written. VFSSQ is the exact sum of squares in every enabled lane. R198, R228: VFROT, under f16, bf16 or f32, is escalatable
and writes the enabled lanes of each pair with the rotated components; another type is illegal. -/
def Obligations.FoldAndRotationResults : Prop :=
  (∀ i opc scan d a op fm s, floatReduction i = some (opc, scan, d, a, op) → CanIssue i s →
    floatFmt (curTask (atIssue i s)) (groupIn i s) = some fm → let g := groupIn i s
    let rs := foldResults fm g scan d a op
    ∃ nd : Nat → ParkNeed, exec i s = .next (after i s (
      if op = 0 then escLaunch (atIssue i s) ⟨opc, 1, d.toNat, a.toNat, a.toNat, named g [a]⟩ (rs.map fun r => { r with need := nd r.lane })
      else if companded (curTask (atIssue i s)) g then escLaunch (atIssue i s) (parkOf opc d a a) rs
      else launchFlight (atIssue i s) (rs.flatMap LaneResult.ws) (rs.foldl (fun x r => x ||| r.flags) 0) .none false
        (if typeWide g then 16 else 12)))) ∧
  (∀ d a fm s, let i := Instr.vfssq d a
    CanIssue i s → floatFmt (curTask (atIssue i s)) (groupIn i s) = some fm → let g := groupIn i s
    let r := sumSquares fm (modeRnd g) ((lanesOn g).map fun j => laneVal g fm a.toNat j)
    ∃ nd : ParkNeed, exec i s = .next (after i s (escLaunch (atIssue i s) ⟨0x90, 1, d.toNat, a.toNat, a.toNat, named g [a]⟩
      ((lanesOn g).head?.toList.map fun l0 =>
        { lane := l0, ws := (lanesOn g).flatMap fun l => laneWrites fm d.toNat l r.code, flags := r.flags, need := nd, di := some 0 })))) ∧
  (∀ d a b fm s, let i := Instr.vfrot d a b
    CanIssue i s → floatFmt (curTask (atIssue i s)) (groupIn i s) = some fm → let g := groupIn i s
    let pair (k : Nat) := rotPair fm (modeRnd g) (2 * k) (laneVal g fm a.toNat (2 * k)) (laneVal g fm a.toNat (2 * k + 1))
      (readV g b.toNat (2 * k)).toNat (Fmt.f32.decode (readV g b.toNat (2 * k + 1)).toNat)
    ((modeEtype g = 8 ∨ modeEtype g = 9 ∨ modeEtype g = 10) → ∃ rs : List LaneResult,
      exec i s = .next (after i s (escLaunch (atIssue i s) ⟨0x93, 1, d.toNat, a.toNat, b.toNat, [a.toNat, b.toNat]⟩ rs)) ∧
      rs.map LaneResult.lane = lanesOn g ∧ ∀ r ∈ rs,
        let x := if r.lane % 2 = 0 then (pair (r.lane / 2)).1 else (pair (r.lane / 2)).2
        r.ws = laneWrites fm d.toNat r.lane x.code ∧ r.flags = x.flags) ∧
    (modeEtype g = 11 ∨ modeEtype g = 12 → exec i s = .next (afterFault i s (FaultInfo.plain 0x04))))

/-- R229 to R231: the random words, with the latency of RNG words. RNGK and RNGF change no state; RNG draws from each enabled lane's key and counter and
advances those counters alone; RNGS seeds and RNGLD loads the enabled lanes; RNGSV reads them. A write of a lane's key and counter changes nothing else. -/
def Obligations.RandomResult : Prop :=
  (∀ vd va vb s, let i := Instr.rngk vd va vb
    CanIssue i s → let g := groupIn i s
    exec i s = .next (after i s (inFlight (atIssue i s) 8
      ((lanesOn g).map fun l => .v vd.toNat l (spar (element g va l 64) (element g vb l 64))) 0))) ∧
  (∀ vd va s, let i := Instr.rngf vd va
    CanIssue i s → let g := groupIn i s
    ∃ ws, exec i s = .next (after i s (inFlight (atIssue i s) 8 ws 0)) ∧ ws = (lanesOn g).map fun l =>
      .v vd.toNat l (BitVec.ofNat 32 (roundTo .f32 .rne 0 (FVal.ofQ false ((Q.ofInt ((readV g va.toNat l) >>> 8).toNat).scale2 (-24)))).code)) ∧
  (∀ vd s, let i := Instr.rng vd
    CanIssue i s → let g := groupIn i s
    exec i s = .next (after i s (inFlight (atIssue i s) 8 ((lanesOn g).flatMap fun l =>
      [.v vd.toNat l (spar (rngKeyAt g l) (rngCtrAt g l)), .rng l (rngKeyAt g l) (rngCtrAt g l + 1)]) 0))) ∧
  (∀ g l k c, let h := applyWrite g (.rng l k c)
    h = { g with rngKey := h.rngKey, rngCtr := h.rngCtr } ∧
      ∀ j, rngKeyAt h j = (if j = l then k else rngKeyAt g j) ∧ rngCtrAt h j = if j = l then c else rngCtrAt g j) ∧
  (∀ s, let i := Instr.rngs
    CanIssue i s → s.cur.blk ≠ handlerBlk → let g := groupIn i s
    let l := curLpb (atIssue i s)
    let gg := curGang (atIssue i s)
    exec i s = .next (after i s (inFlight (atIssue i s) 8 ((lanesOn g).map fun k =>
      let gl := (((gg.gy * l.gridx + gg.gx) * l.blocks + s.cur.blk) * l.groups + s.cur.grp) * 32 + k
      .rng k (l.seed ^^^ (BitVec.ofNat 64 gl * 0xBF58476D1CE4E5B9)) 0) 0))) ∧
  (∀ vd s, let i := Instr.rngsv vd
    CanIssue i s → let g := groupIn i s
    let out (t : Group) (l : Nat) : List RegWrite :=
      [ .v vd.toNat l ((rngKeyAt t l).extractLsb' 0 32), .v (vd.toNat + 1) l ((rngKeyAt t l).extractLsb' 32 32),
        .v (vd.toNat + 2) l ((rngCtrAt t l).extractLsb' 0 32), .v (vd.toNat + 3) l ((rngCtrAt t l).extractLsb' 32 32) ]
    (g.handler = false ∨ g.sel = none → exec i s = .next (after i s (inFlight (atIssue i s) 8 ((lanesOn g).flatMap (out g)) 0))) ∧
    (∀ b k t, g.handler = true → Target (atIssue i s) b k t → (∀ p ∈ t.pend, p.lat ≠ 0 → ∀ w ∈ p.ws, w.reg ≠ some .rng) →
      exec i s = .next (after i s (inFlight (atIssue i s) 8 ((List.range 32).flatMap (out t)) 0)))) ∧
  (∀ va s, let i := Instr.rngld va
    CanIssue i s → let g := groupIn i s
    let loaded (k : Nat) : RegWrite :=
      .rng k (readV g (va.toNat + 1) k ++ readV g va.toNat k) (readV g (va.toNat + 3) k ++ readV g (va.toNat + 2) k)
    (g.handler = false ∨ g.sel = none → exec i s = .next (after i s (inFlight (atIssue i s) 8 ((lanesOn g).map loaded) 0))) ∧
    (∀ b k t, g.handler = true → Target (atIssue i s) b k t → exec i s =
      .next (after i s (setGroupAt (atIssue i s) s.cur.gang b k
        { t with pend := t.pend ++ [⟨(atIssue i s).now + 8, g.pc, (List.range 32).map loaded, 0, 0, 1⟩] }))))

/-! ## Global memory words -/

/-- R269, R412: the lowest enabled lane whose address is not a multiple of the element size raises a misaligned-access fault that names the lane and the
address; with every lane aligned, the first failure of the region check raises its fault; the word performs nothing. R67, R68: the region check of an element
passes when each of its bytes lies in a record that admits the class; else the first failing byte decides: undeclared access where no record holds it, region
kind, naming the first record that holds it, where one does. R234 to R240: a translation that answers admits the access: no supervisor page for a user
access, a writable page for a write, an executable one for a fetch; and it changes nothing but TLBs. -/
def Obligations.AccessChecks : Prop :=
  (∀ i cls v va n s, ((∃ p, loadForm i = some (p, cls, v, va, n)) ∨ ∃ d, storeForm i = some (d, cls, none, v, va, n)) → CanIssue i s →
    modeEtype (groupIn i s) ≤ 12 → NotHeld (atIssue i s) (cls == .device) → let g := groupIn i s
    let z := elemBytes (modeEtype g)
    let ls := laneAddresses g n va
    (∀ l a, ls.find? (fun e => e.2 % z != 0) = some (l, a) → exec i s = .next (afterFault i s
      { FaultInfo.plain 0x0D with fclass := cls.code, lane := l, va := a })) ∧
    (∀ f, (∀ e ∈ ls, e.2 % z = 0) → g.handler = false → regionFault (filterOf (atIssue i s) s.cur.gang s.cur.blk) cls z ls = some f →
      exec i s = .next (afterFault i s f))) ∧
  (∀ rs cls a n,
    (regionCheck rs cls a n = none ↔ ∀ k, k < n → ∃ r ∈ rs, r.base ≤ a + k ∧ a + k < r.base + r.ext ∧ kindAdmits r.kind cls = true) ∧
    (∀ c reg b, regionCheck rs cls a n = some (c, reg, b) → a ≤ b ∧ b < a + n ∧
      (∀ k, a + k < b → ∃ r ∈ rs, r.holds (a + k) = true ∧ kindAdmits r.kind cls = true) ∧
      ((c = 0x0E ∧ reg = 0xFF ∧ ∀ r ∈ rs, r.holds b = false) ∨
       (c = 0x0F ∧ (∃ r, rs[reg]? = some r ∧ r.holds b = true) ∧ ∀ k r, k < reg → rs[k]? = some r → r.holds b = false)))) ∧
  (∀ s core asid va k sup e t, translate s core asid va k sup = .ok (e, t) →
    (e.sup = true → sup = true) ∧ (k = .write → e.w = true) ∧ (k = .fetch → e.x = true) ∧
    t = { s with cores := t.cores, clusters := t.clusters } ∧
    (∀ c, coreAt t c = { coreAt s c with tlb := (coreAt t c).tlb }) ∧ (∀ c, clusterAt t c = { clusterAt s c with tlb := (clusterAt t c).tlb }))

/-- R267, R270: a load whose lanes pass their checks and find no poison puts the loaded elements in flight and changes no byte of memory. LDD reads the
memory side, LDF the gang's view, and so does LD when its core's read cache and the gang's store buffer are empty; LDA is LDF up to cluster scope and
LDD beyond. Lanes in host memory send their requests. -/
def Obligations.LoadResult : Prop :=
  ∀ i p cls v va n ls s2 s, loadForm i = some (p, cls, v, va, n) → CanIssue i s → modeEtype (groupIn i s) ≤ 12 →
    NotHeld (atIssue i s) (cls == .device) →
    let e := modeEtype (groupIn i s)
    let z := elemBytes e
    let s1 := atIssue i s
    checkLanes s1 cls .read false n.toNat va.toNat z = .ok (ls, s2) → (∀ a ∈ ls, a.host = false → poisoned s1 a.pa = false) →
    ∃ t ws, exec i s = .next (afterLaunch i s t ws 0 .vmc) ∧ t.mem = s1.mem ∧
      ((∀ a ∈ ls, a.host = false) → p = .ldd → ws = ls.flatMap fun a => loadWrites e v.toNat a.lane (memNat s1 a.pa z)) ∧
      ((∀ a ∈ ls, a.host = false) → (p = .ldf ∨ (p = .ld ∧ (coreAt s1 (curCore s1)).rcache = [] ∧ (curGang s1).store = [])) →
        ws = ls.flatMap fun a => loadWrites e v.toNat a.lane (gangNat s1 s.cur.gang a.pa z)) ∧
      t.outbox.length = s1.outbox.length + (ls.filter LaneAccess.host).length

/-- R256, R260, R261, R268, R270: a store whose lanes pass their checks. STNT (at the memory side in its own step, the model's choice, log entry 5), STD and
STL of device or system scope leave at every byte of device memory that a lane stores to the highest such lane's byte, and no other byte changes (an address
with no memory behind it takes nothing, the model's choice, log entry 122); ST and the narrower STL change no byte of device memory, and with room in the
store buffers the gang sees its stored bytes, and every other byte as before. -/
def Obligations.StoreResult : Prop :=
  ∀ i direct cls rel v va n ls s2 s, storeForm i = some (direct, cls, rel, v, va, n) → CanIssue i s → modeEtype (groupIn i s) ≤ 12 →
    NotHeld (atIssue i s) (cls == .device) → (rel = some 5 → OnlyStnt (atIssue i s)) →
    let e := modeEtype (groupIn i s)
    let z := elemBytes e
    let s1 := atIssue i s
    let stored := storedByte (groupIn i s) v z (etypeWide e) ls
    checkLanes s1 cls .write false n.toNat va.toNat z = .ok (ls, s2) →
    ∃ t, exec i s = .next (afterLaunch i s t [] 0 .vmc) ∧
      (direct = true → ∀ a, memByte t a = if a < memSize then (stored a).getD (memByte s1 a) else memByte s1 a) ∧
      (direct = false → t.mem = s1.mem) ∧
      (direct = false → (∀ sc, rel = some sc → sc ≤ 2) → StoreRoom s1 →
        ∀ a, gangByte t s.cur.gang a = (stored a).getD (gangByte s1 s.cur.gang a))

/-- R257, R272 to R274, R404: PREF changes no byte that anyone sees; FENCE of cluster scope or wider and CKPT commit the gang's store buffer, a
narrower FENCE does nothing; DRAINNT raises VMC and its flight stays while an earlier `STNT` of the group awaits the host. R257, R259: a commit empties the gang's store buffer, closes
its window, and changes no byte of device memory and no register. -/
def Obligations.CommitWords : Prop :=
  (∀ va n scope s, let i := Instr.pref va n scope
    CanIssue i s → NotHeld (atIssue i s) false → ∃ t, exec i s = .next (afterLaunch i s t [] 0 .vmc) ∧ SameBytes (atIssue i s) t ∧
      t.groups = (atIssue i s).groups) ∧
  (∀ scope s, let i := Instr.fence scope
    CanIssue i s → exec i s = .next (after i s
      (noteFlight (launchFlight (if 3 ≤ scope.toNat then commitGang (atIssue i s) s.cur.gang else atIssue i s) [] 0 .vmc false) (atIssue i s).nextFlight
        fun f => { f with fence := some scope.toNat }))) ∧
  (∀ gang blk grp k f sc s, (groupAt s gang blk grp).flights.find? (fun x => x.id == k) = some f → f.fence = some sc →
    (∃ a ∈ s.hostAccs, a.strm = 0 ∧ a.gang = gang ∧ a.blk = blk ∧ a.grp = grp ∧ a.kind ≤ 4 ∧ a.flight < f.id ∧
      ((sc = 5 ∧ a.nt = false) ∨ 2 ≤ a.kind)) →
    exec (.variableLatencyWriteback gang blk grp k) s = .next s) ∧
  (∀ s, CanIssue .drainnt s → exec .drainnt s = .next (after .drainnt s
    (noteFlight (launchFlight (atIssue .drainnt s) [] 0 .vmc false) (atIssue .drainnt s).nextFlight fun f => { f with drains := true }))) ∧
  (∀ gang blk grp k f s, (groupAt s gang blk grp).flights.find? (fun x => x.id == k) = some f → f.drains = true →
    (∃ a ∈ s.hostAccs, a.strm = 0 ∧ a.gang = gang ∧ a.blk = blk ∧ a.grp = grp ∧ a.kind = 1 ∧ a.nt = true ∧ a.flight < f.id) →
    exec (.variableLatencyWriteback gang blk grp k) s = .next s) ∧
  (∀ s, CanIssue .ckpt s → exec .ckpt s = .next (after .ckpt s (commitGang (atIssue .ckpt s) s.cur.gang))) ∧
  (∀ s gang, (gangAt (commitGang s gang) gang).store = [] ∧ (gangAt (commitGang s gang) gang).window = false ∧
    (commitGang s gang).mem = s.mem ∧ (commitGang s gang).groups = s.groups ∧
    ∀ k, k ≠ gang → gangAt (commitGang s gang) k = gangAt s k)

/-- R275 to R280: an atomic whose lanes pass their checks and find no poison performs its lanes in order and puts the old elements and flags in flight; one
enabled lane at device or system scope leaves at its element in memory what the operation's table says, every other byte as it was, and a byte with no memory
behind it too (the model's choice, log entry 122). A contribution of a reproducible task is held; an atomic there whose result would show the order of others
raises a determinism fault, and one on a type it does not accept an illegal-type fault. -/
def Obligations.AtomicResult : Prop :=
  ∀ i o v va n sc s, atomicForm i = some (o, v, va, n, sc) → CanIssue i s →
    let s1 := atIssue i s
    let g := groupIn i s
    let e := modeEtype g
    let z := if etypeWide e then 8 else 4
    let hostBad := !(o == .add || o == .xchg || o == .cas)
    (o.accepts e = false → exec i s = .next (afterFault i s (FaultInfo.plain 0x04))) ∧
    (o.accepts e = true → (curLpb s1).repro = true → orderShows o v sc → exec i s = .next (afterFault i s (FaultInfo.plain 0x11))) ∧
    (∀ ls s2, o.accepts e = true → checkLanes s1 (atomicClass sc) .write hostBad n.toNat va.toNat z = .ok (ls, s2) →
      ((curLpb s1).repro = true → isContribution o v sc → ∀ s3, holdLanes o e v.toNat (etypeWide e) g ls s2 = some s3 →
        exec i s = .next (afterLaunch i s s3 [] 0 .vmc) ∧ (DieRoom s1 ls → s3.mem = s1.mem)) ∧
      (((curLpb s1).repro = false ∨ (¬ orderShows o v sc ∧ ¬ isContribution o v sc)) → NotHeld s1 (atomicClass sc == .device) →
        (sc = 5 → OnlyStnt s1) →
        (∀ a ∈ ls, a.host = false → poisoned s1 a.pa = false) →
        let r := atomicLanes o e z sc.toNat v.toNat (etypeWide e) g ls [] 0 (closeWindow (releaseAt s2 sc.toNat) s.cur.gang)
        exec i s = .next (afterLaunch i s r.2.2 r.1 r.2.1 .vmc) ∧
        (∀ a, ls = [a] → a.host = false → 4 ≤ sc.toNat → e < 8 →
          let w := 8 * z
          let p := atomicOperands o g v.toNat a.lane (etypeWide e)
          let x := newElement o (intSigned e) (BitVec.ofNat w (memNat s1 a.pa z)) (BitVec.ofNat w p.1) (BitVec.ofNat w p.2)
          r.1 = (if v = 0 then [] else loadWrites e v.toNat a.lane (memNat s1 a.pa z)) ∧
          ∀ b, memByte r.2.2 b = if a.pa ≤ b ∧ b < a.pa + z ∧ b < memSize then x.extractLsb' (8 * (b - a.pa)) 8 else memByte s1 b)))

/-! ## Typed buffers and KV space -/

/-- R244, R247, R248, R281 to R283: LDB, STB, ABADD and ABCAS of a type that they accept complete when the tests of R248 pass. LDB reads the handle's
bytes, from the A-buffer or the W-buffer; STB and the atomics write the block's A-buffer and its handle's swizzle record alone, and leave device memory and
every other buffer as they were. One enabled lane stores its low bytes, or leaves what the atomic's table says. -/
def Obligations.BufferResult : Prop :=
  (∀ v va h s, let i := Instr.ldb v va h
    CanIssue i s → let g := groupIn i s
    let s1 := atIssue i s
    let b := curBlock s1
    let e := handleAt b h.toNat
    let z := elemBytes (modeEtype g)
    modeEtype g ≤ 12 → HandleReady g.tested e [0, 1] .read z (laneOffsets g va.toNat) →
    exec i s = .next (afterBuffer i s s1 h true false ((laneOffsets g va.toNat).flatMap fun l =>
      loadWrites (modeEtype g) v.toNat l.1 (handleNat b e (hSwz e) l.2 z)) 0)) ∧
  (∀ v va h s, let i := Instr.stb v va h
    CanIssue i s → let g := groupIn i s
    let s1 := atIssue i s
    let b := curBlock s1
    let e := handleAt b h.toNat
    let z := elemBytes (modeEtype g)
    modeEtype g ≤ 12 → HandleReady g.tested e [0] .write z (laneOffsets g va.toNat) →
    ∃ b', exec i s = .next (afterBuffer i s (setCurBlock s1 b') h false true [] 0) ∧ b' = { b with abuf := b'.abuf, handles := b'.handles } ∧
      (∀ k, k ≠ h.toNat → handleAt b' k = handleAt b k) ∧
      (∀ l, laneOffsets g va.toNat = [l] → hBuf e = 0 → ∀ k, k < z → handleByte b' e (hSwz e) (l.2 + k) =
        BitVec.ofNat 8 (laneBits g v.toNat l.1 (etypeWide (modeEtype g)) / 2 ^ (8 * k)))) ∧
  (∀ i v va h cas s, (i = .abadd v va h ∧ cas = false ∨ i = .abcas v va h ∧ cas = true) → CanIssue i s → let g := groupIn i s
    let s1 := atIssue i s
    let b := curBlock s1
    let e := handleAt b h.toNat
    let et := modeEtype g
    let z := if etypeWide et then 8 else 4
    (et ∈ [2, 6, 3, 7, 10] ∨ (et = 11 ∧ cas = true)) → HandleReady g.tested e [0] .atomic z (laneOffsets g va.toNat) →
    let o : AtomicOp := if cas then .cas else if et = 10 then .fadd else .add
    let r := bufAtomicLanes o et z v.toNat h.toNat (etypeWide et) g e (laneOffsets g va.toNat) [] 0 b
    ∃ b', exec i s = .next (afterBuffer i s (setCurBlock s1 b') h true true r.1 r.2.1) ∧ b' = { b with abuf := r.2.2.abuf, handles := b'.handles } ∧
      (∀ k, k ≠ h.toNat → handleAt b' k = handleAt b k) ∧
      (∀ l, laneOffsets g va.toNat = [l] → hBuf e = 0 → et < 8 →
        let w := 8 * z
        let p := atomicOperands o g v.toNat l.1 (etypeWide et)
        let old := handleNat b e (hSwz e) l.2 z
        let x := newElement o (intSigned et) (BitVec.ofNat w old) (BitVec.ofNat w p.1) (BitVec.ofNat w p.2)
        r.1 = (if v = 0 then [] else loadWrites et v.toNat l.1 old) ∧
        ∀ k, k < z → handleByte b' e (hSwz e) (l.2 + k) = x.extractLsb' (8 * k) 8))

/-- R137, R139, R140, R244, R248, R281, R284, R285, R332, R408: LDC and STC of a user group complete when the tests of R248 pass, no element is pending and,
for LDC, each class 1 element's spill record passes its check. LDC writes D of each lane's element, with dither index l; STC writes each lane's value
exactly, in canonical form, the highest lane of an element last, sets `NV` for a signalling NaN alone, and leaves the other elements. In a handler group
they move the raw elements of the selected block, for the lanes of the guard (log entry 92); an offset that is no multiple of 16 names the element that
holds it (log entry 31). -/
def Obligations.AccumulatorResult : Prop :=
  (∀ v va h f s, let i := Instr.ldc v va h
    CanIssue i s → let g := groupIn i s
    let s1 := atIssue i s
    let e := handleAt (curBlock s1) h.toNat
    let ls := laneOffsets g va.toNat
    g.handler = false → accumFmt (curTask s1) g = some f → HandleReady g.tested e [2] .read 16 ls → NonePending s1 s.cur.blk e (hSwz e) ls →
    (∀ l ∈ ls, laCls (laAt s1 s.cur.gang s.cur.blk (laIndex e (hSwz e) l.2)) = 1 →
      (laRead s1 s.cur.gang s.cur.blk (laIndex e (hSwz e) l.2)).isSome = true) →
    ∃ (r : Nat → Rounded) (fl : FlagSet), ldcLanes s1 f e v.toNat g ls = some (ls.flatMap fun l => laneWrites f v.toNat l.1 (r l.1).code, fl) ∧
      exec i s = .next (afterBuffer i s s1 h true false (ls.flatMap fun l => laneWrites f v.toNat l.1 (r l.1).code) fl) ∧
      (∀ l ∈ ls, ∃ x y, ExactHeld s1 s.cur.gang s.cur.blk (laIndex e (hSwz e) l.2) x ∧ HeldValue (modeRnd g) x y ∧ RoundsOut f (modeRnd g) l.1 y (r l.1)
        ∨ 5 ≤ laCls (laAt s1 s.cur.gang s.cur.blk (laIndex e (hSwz e) l.2)) ∧ r l.1 = invalidResult f (modeRnd g)) ∧
      ∀ b, fl.getLsbD b = ls.any fun l => (r l.1).flags.getLsbD b) ∧
  (∀ v va h f s, let i := Instr.stc v va h
    CanIssue i s → let g := groupIn i s
    let s1 := atIssue i s
    let e := handleAt (curBlock s1) h.toNat
    let ls := laneOffsets g va.toNat
    g.handler = false → accumFmt (curTask s1) g = some f → HandleReady g.tested e [2] .write 16 ls → NonePending s1 s.cur.blk e (hSwz e) ls →
    let r := stcLanes f e v.toNat g ls 0 s1
    exec i s = .next (afterBuffer i s (if ls = [] then s1 else setCurBlock r.2 (setHandle (curBlock r.2) h.toNat
      (noteSwz (handleAt (curBlock r.2) h.toNat) (hSwz e)))) h false true [] r.1) ∧
      r.1 = (if ls.any fun l => (laneVal g f v.toNat l.1).isSig then fNV else 0) ∧
      ∀ c, match ls.reverse.find? fun l => laIndex e (hSwz e) l.2 == c with
        | some l => Written (laneVal g f v.toNat l.1) (laAt r.2 s.cur.gang s.cur.blk c)
        | none => laAt r.2 s.cur.gang s.cur.blk c = laAt s1 s.cur.gang s.cur.blk c) ∧
  (∀ v va h b k s, let i := Instr.ldc v va h
    CanIssue i s → let g := groupIn i s
    let s1 := atIssue i s
    let e := handleAt (blockAt s1 s.cur.gang b) h.toNat
    let ls := laneOffsets g va.toNat
    g.handler = true → g.sel = some (b, k) → hBuf e = 2 → (∀ l ∈ ls, l.2 + 16 ≤ hExt e) → NonePending s1 b e 0 ls →
    exec i s = .next (afterLaunch i s s1 (ls.flatMap fun l =>
      rawElemWrites v.toNat l.1 (laAt s1 s.cur.gang b ((hBase e + l.2) / 16))) 0 .bfc)) ∧
  (∀ v va h b k s, let i := Instr.stc v va h
    CanIssue i s → let g := groupIn i s
    let s1 := atIssue i s
    let e := handleAt (blockAt s1 s.cur.gang b) h.toNat
    let ls := laneOffsets g va.toNat
    g.handler = true → g.sel = some (b, k) → hBuf e = 2 → (∀ l ∈ ls, l.2 + 16 ≤ hExt e) → NonePending s1 b e 0 ls →
    ∃ t, exec i s = .next (afterLaunch i s t [] 0 .bfc) ∧ t.mem = s1.mem ∧ t.groups = s1.groups ∧
      (∀ l, ls = [l] → laAt t s.cur.gang b ((hBase e + l.2) / 16) = rawElemOf g v.toNat l.1))

/-- R362, R364: LDKV and STKV whose descriptor, ranges and translations pass launch their lanes' accesses and change no byte of memory at issue; without
KVDESC they are illegal. When the word lands, each read takes its cell's bits as they are then, and a write puts its bits into its cell and raises FILL; of
several lanes of one cell the highest one's value stands. R365 to R369: KVMAP, KVFORK, KVDROP and KVINFO with a legal descriptor and key, and no access of
the space in flight, complete with the result of their map operation. R357, R359, R366 to R368, for a key whose chain is one bucket: KVMAP maps it to a block
that is not free, or to the head of the free list, in the first empty entry, counts the block, refuses other requests, and changes nothing where the key has
the block already or the list is empty; KVFORK maps the copy to the same block and counts it; KVDROP empties the entry, and frees a block whose count falls
to 0 unless it is pinned. -/
def Obligations.KvWords : Prop :=
  (∀ v va src (write : Bool) s, let i := if write then Instr.stkv v va src else .ldkv v va src
    CanIssue i s → let g := groupIn i s
    let s1 := atIssue i s
    let q := kvSel (readS g src.toNat) (readS g (src.toNat + 1))
    ((curLpb s1).kvdesc = 0 → exec i s = .next (afterFault i s (FaultInfo.plain 0x02))) ∧
    ((curLpb s1).kvdesc ≠ 0 → ∀ as s2, kvCheckLanes s1 write v.toNat q (kvLanes g va.toNat) = .ok (as, s2) →
      exec i s = .next (after i s (launchKv (if write then closeWindow s2 s.cur.gang else s2) as)) ∧ s2.mem = s1.mem ∧
      as.map KvAcc.lane = lanesOn g ∧
      ∀ a ∈ as, a.reg = v.toNat ∧ a.val = if write then some (readV g v.toNat a.lane).toNat else none)) ∧
  (∀ gang blk grp k f s, (groupAt s gang blk grp).flights.find? (fun x => x.id == k) = some f → f.due ≤ s.now →
    flightWaits s gang blk grp f = false → kvBehind (groupAt s gang blk grp) f = false → f.consumes s = false → f.toPark = [] → f.held = 0 →
    ((∀ a ∈ f.kv, a.val = none) → exec (.variableLatencyWriteback gang blk grp k) s = .next (setGroupAt s gang blk grp
      (writeFlight (landAt s.now (groupAt s gang blk grp))
        { f with ws := f.ws ++ f.kv.map (fun a => .v a.reg a.lane (BitVec.ofNat 32 (a.read s))), kv := [] }))) ∧
    (∀ a x, f.kv = [a] → a.val = some x → ∃ t, exec (.variableLatencyWriteback gang blk grp k) s = .next t ∧
      t.mem = (match a.fill with | some (pa, n) => raiseFill (a.write x s) pa n | none => a.write x s).mem) ∧
    ((∀ a ∈ f.kv, a.val ≠ none) → ∃ t, exec (.variableLatencyWriteback gang blk grp k) s = .next t ∧
      ∀ (i : Nat) a x, f.kv[i]? = some a → a.val = some x → a.pas.Nodup → (∀ p ∈ a.pas, p < memSize) → a.bit + a.width ≤ 8 * a.pas.length →
        (∀ (j : Nat) b, i < j → f.kv[j]? = some b → ∀ p ∈ b.pas, p ∉ a.pas) →
        (∀ b ∈ f.kv, ∀ c, b.fill = some c → c.1 ∉ a.pas ∧ c.1 + 1 ∉ a.pas) → a.read t = x % 2 ^ a.width)) ∧
  (∀ sd sa d r t s, let i := Instr.kvmap sd sa
    CanIssue i s → let g := groupIn i s
    mapDesc (atIssue i s) true = .ok d → d.keyOk (readPair g sa.toNat).toNat = true → kvInFlight (atIssue i s) d = false →
    kvmapOp (atIssue i s) d (readPair g sa.toNat).toNat (readS g sd.toNat).toNat = .ok (r, t) →
    exec i s = .next (afterLaunch i s (closeWindow t s.cur.gang) [.s sd.toNat (BitVec.ofNat 32 r)] 0 .bfc)) ∧
  (∀ sd sa d t s, let i := Instr.kvfork sd sa
    CanIssue i s → let g := groupIn i s
    mapDesc (atIssue i s) true = .ok d → (readS g (sa.toNat + 1)).toNat ≤ 2 ^ 26 → kvInFlight (atIssue i s) d = false →
    forkLoop d (readS g sd.toNat).toNat (readS g sa.toNat).toNat (kvPairs d (readS g (sa.toNat + 1)).toNat) (closeWindow (atIssue i s) s.cur.gang) =
      (none, t) →
    exec i s = .next (afterLaunch i s t [] 0 .bfc)) ∧
  (∀ sd sa d n t s, let i := Instr.kvdrop sd sa
    CanIssue i s → let g := groupIn i s
    mapDesc (atIssue i s) true = .ok d → (readS g (sa.toNat + 1)).toNat ≤ 2 ^ 26 → kvInFlight (atIssue i s) d = false →
    dropLoop d (readS g sa.toNat).toNat (kvPairs d (readS g (sa.toNat + 1)).toNat) 0 (closeWindow (atIssue i s) s.cur.gang) = (none, n, t) →
    exec i s = .next (afterLaunch i s t [.s sd.toNat (BitVec.ofNat 32 n)] 0 .bfc)) ∧
  (∀ sd sa d t s, let i := Instr.kvinfo sd sa
    CanIssue i s → let g := groupIn i s
    mapDesc (atIssue i s) false = .ok d → d.keyOk (readPair g sa.toNat).toNat = true →
    (kvLookup (atIssue i s) (curCore (atIssue i s) / 16) d (readPair g sa.toNat).toNat = .ok (none, t) →
      exec i s = .next (afterLaunch i s t [.s sd.toNat 0xFFFFFFFF, .s (sd.toNat + 1) 0, .s (sd.toNat + 2) 0] 0 .bfc)) ∧
    (∀ k sh b, kvLookup (atIssue i s) (curCore (atIssue i s) / 16) d (readPair g sa.toNat).toNat = .ok (some (k, sh), t) →
      readBlk t d k false = .ok b → exec i s = .next (afterLaunch i s t
        [.s sd.toNat (BitVec.ofNat 32 k), .s (sd.toNat + 1) (BitVec.ofNat 32 b.ref),
          .s (sd.toNat + 2) (BitVec.ofNat 32 (b.fill + b.flg % 256 * 65536))] 0 .bfc))) ∧
  (∀ sd sa d h s, let i := Instr.kvmap sd sa
    CanIssue i s → let g := groupIn i s
    let s1 := atIssue i s
    let key := (readPair g sa.toNat).toNat
    let req := (readS g sd.toNat).toNat
    let result (t : State) (x : Nat) : State := afterMapWord i s t [.s sd.toNat (BitVec.ofNat 32 x)]
    mapDesc s1 true = .ok d → d.keyOk key = true → kvInFlight s1 d = false → OneBucket s1 d key h →
    (∀ b n, req < 0x7FFFFFFF → req < d.nblk → RecordOf s1 d req b → (blkFlg s1 b).testBit 0 = false → Unmapped s1 h key → FirstEmpty s1 h n →
      Separate [(h, 256), (b, 16), (d.pa + 0x40, 8)] → TablesApart s1 d.asid [homeVa d key, d.bda + 16 * req] [(h, 256), (b, 16)] →
      ∃ t, exec i s = .next (result t req) ∧ EntryPut s1 t h n key req ∧ Counted s1 t b (blkRef s1 b + 1) ∧ blkFill t b = blkFill s1 b ∧ SameFree s1 t d ∧
        OnlyIn s1 t [(h + 32 * n, 16), (b, 4), (b + 6, 1)]) ∧
    ((∃ b, req < 0x7FFFFFFF ∧ req < d.nblk ∧ RecordOf s1 d req b ∧ (blkFlg s1 b).testBit 0 = true) ∨ (d.nblk ≤ req ∨ 0x7FFFFFFF ≤ req) ∧ req < 0xFFFFFFFE →
      ∃ t, exec i s = .next (result t 0xFFFFFFFE) ∧ t.mem = s1.mem) ∧
    ((req = 0xFFFFFFFF ∨ req = 0xFFFFFFFE) → (Unmapped s1 h key ∨ ∃ n k, MapsAt s1 h n key k) → freeHead s1 d = 0xFFFFFFFF →
      ∃ t, exec i s = .next (result t 0xFFFFFFFF) ∧ t.mem = s1.mem) ∧
    (∀ b n, (req = 0xFFFFFFFF ∨ req = 0xFFFFFFFE) → freeHead s1 d < d.nblk → RecordOf s1 d (freeHead s1 d) b → Unmapped s1 h key → FirstEmpty s1 h n →
      Separate [(h, 256), (b, 16), (d.pa + 0x40, 8)] →
      TablesApart s1 d.asid [homeVa d key, d.bda + 16 * freeHead s1 d] [(h, 256), (b, 16), (d.pa + 0x40, 8)] →
      ∃ t, exec i s = .next (result t (freeHead s1 d)) ∧ EntryPut s1 t h n key (freeHead s1 d) ∧ blkRef t b = 1 ∧ blkFill t b = 0 ∧ blkFlg t b = 0 ∧
        freeHead t d = blkNext s1 b ∧ freeCount t d = (freeCount s1 d + 2 ^ 32 - 1) % 2 ^ 32 ∧
        OnlyIn s1 t [(h + 32 * n, 16), (b, 7), (d.pa + 0x40, 8)]) ∧
    (∀ b n, req < 0x7FFFFFFF → RecordOf s1 d req b → (blkFlg s1 b).testBit 0 = false → MapsAt s1 h n key req →
      ∃ t, exec i s = .next (result t req) ∧ t.mem = s1.mem)) ∧
  (∀ sd sa d h h' s, let i := Instr.kvfork sd sa
    CanIssue i s → let g := groupIn i s
    let s1 := atIssue i s
    let n := (readS g (sa.toNat + 1)).toNat
    let src := (readS g sa.toNat).toNat * 2 ^ 32
    let dst := (readS g sd.toNat).toNat * 2 ^ 32
    mapDesc s1 true = .ok d → kvInFlight s1 d = false → d.layers = 1 → 0 < n → n ≤ d.tb → OneBucket s1 d src h → OneBucket s1 d dst h' →
    (∀ b j m k, MapsAt s1 h j src k → Unmapped s1 h' dst → FirstEmpty s1 h' m → RecordOf s1 d k b →
      Separate [(h', 256), (b, 16), (d.pa + 0x40, 8)] → TablesApart s1 d.asid [d.bda + 16 * k] [(h', 256), (b, 16)] →
      ∃ t, exec i s = .next (afterMapWord i s t []) ∧ EntryPut s1 t h' m dst k ∧ Counted s1 t b (blkRef s1 b + 1) ∧ SameFree s1 t d ∧
        OnlyIn s1 t [(h' + 32 * m, 16), (b, 4), (b + 6, 1)]) ∧
    ((Unmapped s1 h src ∨ ∃ j m k, MapsAt s1 h j src k ∧ MapsAt s1 h' m dst k) → ∃ t, exec i s = .next (afterMapWord i s t []) ∧ t.mem = s1.mem)) ∧
  ∀ sd sa d h s, let i := Instr.kvdrop sd sa
    CanIssue i s → let g := groupIn i s
    let s1 := atIssue i s
    let n := (readS g (sa.toNat + 1)).toNat
    let key := (readS g sa.toNat).toNat * 2 ^ 32
    let result (t : State) (x : Nat) : State := afterMapWord i s t [.s sd.toNat (BitVec.ofNat 32 x)]
    mapDesc s1 true = .ok d → kvInFlight s1 d = false → d.layers = 1 → 0 < n → n ≤ d.tb → OneBucket s1 d key h →
    (Unmapped s1 h key → ∃ t, exec i s = .next (result t 0) ∧ t.mem = s1.mem) ∧
    ∀ b j k, MapsAt s1 h j key k → RecordOf s1 d k b → 0 < blkRef s1 b → Separate [(h, 256), (b, 16), (d.pa + 0x40, 8)] →
      TablesApart s1 d.asid [d.bda + 16 * k] [(h + 32 * j + 12, 4)] →
      (1 < blkRef s1 b ∨ (blkFlg s1 b).testBit 1 = true → ∃ t, exec i s = .next (result t 0) ∧ EntryEmptied s1 t h j ∧ Counted s1 t b (blkRef s1 b - 1) ∧
        SameFree s1 t d ∧ OnlyIn s1 t [(h + 32 * j + 12, 4), (b, 4), (b + 6, 1)]) ∧
      (blkRef s1 b = 1 → (blkFlg s1 b).testBit 1 = false → ∃ t, exec i s = .next (result t 1) ∧ EntryEmptied s1 t h j ∧ blkRef t b = 0 ∧ blkFill t b = 0 ∧
        blkFlg t b = 1 ∧ blkNext t b = freeHead s1 d ∧ freeHead t d = k ∧ freeCount t d = (freeCount s1 d + 1) % 2 ^ 32 ∧
        OnlyIn s1 t [(h + 32 * j + 12, 4), (b, 12), (d.pa + 0x40, 8)])

/-! ## Synchronisation words -/

/-- R26, R390 to R392: at a barrier without participants a barrier word raises a barrier fault. An arrival that does not complete the phase is
counted: BARA goes on, and BAR's group waits at its word. The arrival that completes the phase starts the next one. R391: a barrier word whose phase
has completed and been released, and BARW of a group that has arrived before and holds no arrival in the phase, go on at the next word. -/
def Obligations.BarrierWords : Prop :=
  (∀ i b mode s, barrierForm i = some (b, mode) → CanIssue i s →
    let s1 := atIssue i s
    let g := groupIn i s
    let x := barAt s1 s.cur.gang s.cur.blk b
    (participants s1 b = 0 → exec i s = .next (afterFault i s (FaultInfo.plain 0x0A))) ∧
    (participants s1 b ≠ 0 → mode ≤ 1 → g.barWait = none → g.arr.get 0 b ≠ 1 →
      ∃ t, exec i s = .next (if mode = 1 then after i s t else t) ∧
        barAt t s.cur.gang s.cur.blk b = (if participants s1 b ≤ x.count + 1 then { x with count := 0, gen := x.gen + 1 }
          else { x with count := x.count + 1 }) ∧
        (curGroup t).barWait = (if mode = 0 then some (b, x.gen, true) else none) ∧ (curGroup t).pc = g.pc ∧ t.mem = s1.mem)) ∧
  (∀ i b mode s, barrierForm i = some (b, mode) → CanIssue i s → participants (atIssue i s) b ≠ 0 →
    let s1 := atIssue i s
    let g := groupIn i s
    (∀ w, g.barWait = some w → w.2.1 < (barAt s1 s.cur.gang s.cur.blk b).rel →
      exec i s = .next (after i s (setCurGroup s1 { g with barWait := none }))) ∧
    (2 ≤ mode → g.barWait = none → g.arr.get 0 b ≠ 1 → g.ever.get 0 b ≠ 0 → exec i s = .next (after i s s1)))

/-- R249, R393, R394: HWAIT goes on when the entry has the state and phase asked for and else waits; HSET makes one legal transition, and raises a handle
fault for any other, after the group's own accesses through the handle that it waits for have landed, an illegal one too (the model's reading, log entry
132). R395, R396, R405: WAIT goes on when no counter is above its value; CLKSYNC when the group is the least of its gang; CLOCK reads the logical clock;
EVPOP takes the oldest record, or zeros when it polls an empty queue, or waits; the waiting ones of a queue are served one a clock in their order of issue. -/
def Obligations.HandleCounterAndEventWords : Prop :=
  (∀ h st ph s, let i := Instr.hwait h st ph
    CanIssue i s → let e := handleAt (curBlock (atIssue i s)) h.toNat
    exec i s = .next (if hState e = st.toNat ∧ hPhase e = ph.toNat then after i s (atIssue i s) else atIssue i s)) ∧
  (∀ h st s, let i := Instr.hset h st
    CanIssue i s → let b := curBlock (atIssue i s)
    let e := handleAt b h.toNat
    let mine := inMask (hProd e) .groups
    let theirs := inMask (hCons e) .groups
    let legal := (hState e = 0 ∧ st = 1 ∧ mine = true) ∨ (hState e = 1 ∧ st = 2 ∧ mine = true) ∨ (hState e = 2 ∧ st = 3 ∧ theirs = true) ∨
      ((hState e = 2 ∨ hState e = 3) ∧ st = 0 ∧ theirs = true)
    (handleBusy (groupIn i s) h.toNat st.toNat = true → exec i s = .next (atIssue i s)) ∧
    (handleBusy (groupIn i s) h.toNat st.toNat = false → canMove (atIssue i s) s.cur.gang s.cur.blk h.toNat = true →
    (legal → ∃ e', exec i s = .next (after i s (moveHandle (atIssue i s) s.cur.gang s.cur.blk h.toNat e')) ∧ hState e' = st.toNat ∧
      hPhase e' = (if st = 2 then 1 - hPhase e else hPhase e) ∧ hBase e' = hBase e ∧ hExt e' = hExt e ∧ hProd e' = hProd e ∧ hCons e' = hCons e ∧
      hFv e' = if st = 1 then 0 else hFv e) ∧
    (¬ legal → exec i s = .next (afterFault i s (FaultInfo.plain 0x0B))))) ∧
  (∀ m b f s, let i := Instr.wait m b f
    CanIssue i s → let g := groupIn i s
    exec i s = .next (if g.vmc ≤ m.toNat ∧ g.bfc ≤ b.toNat ∧ g.sfc ≤ f.toNat then after i s (atIssue i s) else atIssue i s)) ∧
  (∀ s, CanIssue .clksync s → exec .clksync s = .next (if leastGroup (atIssue .clksync s) then after .clksync s (atIssue .clksync s)
    else atIssue .clksync s)) ∧
  (∀ sd s, let i := Instr.clock sd
    CanIssue i s → let c := (groupIn i s).lclk
    exec i s = .next (afterWrites i s [.s sd.toNat (c.extractLsb' 0 32), .s (sd.toNat + 1) (c.extractLsb' 32 32)])) ∧
  (∀ sd poll s, let i := Instr.evpop sd poll
    CanIssue i s → let b := curBlock (atIssue i s)
    let out (x : BitVec 128) : List RegWrite := [.s sd.toNat (x.extractLsb' 0 32), .s (sd.toNat + 1) (x.extractLsb' 32 32),
      .s (sd.toNat + 2) (x.extractLsb' 64 32), .s (sd.toNat + 3) (x.extractLsb' 96 32)]
    let s1 := atIssue i s
    let waits : State := setCurBlock s1 { b with pops := popQueue s1 }
    (∀ r rest, b.events = r :: rest → (popTurn s1 = true → exec i s = .next (afterLaunch i s (setCurBlock s1
        { b with events := rest, pops := (popQueue s1).tail, popped := s1.now + 1 }) (out r) 0 .none)) ∧
      (popTurn s1 = false → exec i s = .next waits)) ∧
    (b.pops = [] → (popTurn s1 = true ↔ b.popped ≠ s1.now + 1)) ∧
    (∀ e ∈ b.pops, popWaits s1 e = true → e.at_ < s1.now → (∀ x ∈ b.pops, x.grp ≠ s.cur.grp) → popTurn s1 = false) ∧
    (b.events = [] → poll = true → exec i s = .next (afterLaunch i s s1 (out 0) 0 .none)) ∧
    (b.events = [] → poll = false → exec i s = .next waits))

/-- R397, R398: QPUSH and QPOP of a task that is not reproducible, at a descriptor that passes its checks, complete with the queue engine's result, a QPOP
that joins the waiter list waits, and a poisoned descriptor kills the gang (R74, R419); in a reproducible task they raise a determinism fault. R397: an entry
pushed into a legal queue that holds none, with no waiter, is popped by the next pop with status 0, and the queue is empty again. -/
def Obligations.QueueWords : Prop :=
  (∀ sd sa s, let i := Instr.qpush sd sa
    CanIssue i s → let g := groupIn i s
    let s1 := atIssue i s
    ((curLpb s1).repro = true → exec i s = .next (afterFault i s (FaultInfo.plain 0x11))) ∧
    ((curLpb s1).repro = false → NotHeld s1 true → ∀ a s2,
      checkOne s1 .device .write true (readPair g sa.toNat).toNat 64 64 = .ok (a, s2) →
      let r := queuePush (commitGang s2 s.cur.gang) a.pa ((List.range 16).map fun k => readS g (sd.toNat + k))
      (poisoned s2 a.pa = false →
        exec i s = .next (afterLaunch i s (closeWindow r.2 s.cur.gang) [.s (sd.toNat + 16) (BitVec.ofNat 32 r.1)] 0 .none)) ∧
      (poisoned s2 a.pa = true → exec i s = .next (consumedError s2 (accessFault 0x31 .device 0 a.va))))) ∧
  (∀ sd sa s, let i := Instr.qpop sd sa
    CanIssue i s → let g := groupIn i s
    let s1 := atIssue i s
    ((curLpb s1).repro = true → exec i s = .next (afterFault i s (FaultInfo.plain 0x11))) ∧
    ((curLpb s1).repro = false → ownWaiter s1 = none → NotHeld s1 true →
      ∀ a s2, checkOne s1 .device .write true (readPair g sa.toNat).toNat 64 64 = .ok (a, s2) →
        (poisoned s2 a.pa = true → exec i s = .next (consumedError s2 (accessFault 0x31 .device 0 a.va))) ∧
        (popPoisoned s2 a.pa = false → ∀ t, (∀ ws st, queuePop (closeWindow s2 s.cur.gang) a.pa sd.toNat = (some (ws, st), t) →
            exec i s = .next (afterPop i s t sd ws (BitVec.ofNat 32 st))) ∧
          (queuePop (closeWindow s2 s.cur.gang) a.pa sd.toNat = (none, t) → exec i s = .next t))) ∧
    ((curLpb s1).repro = false → ∀ w ws, ownWaiter s1 = some w → w.got = some ws →
      exec i s = .next (afterPop i s { s1 with waiters := s1.waiters.filter fun x => x != w } sd ws 0))) ∧
  (∀ s pa reg ws, (readDevQueue s pa).invalid = false → (readDevQueue s pa).held = 0 → (∀ w ∈ s.waiters, w.desc ≠ pa) → ws.length = 16 →
    pa + 64 ≤ (readDevQueue s pa).base → (readDevQueue s pa).slot (readDevQueue s pa).tail + 64 ≤ memSize → let p := queuePush s pa ws
    let q := queuePop p.2 pa reg
    p.1 = 0 ∧ q.1 = some (ws.take (readDevQueue s pa).words, 0) ∧ (readDevQueue q.2 pa).held = 0)

/-- R399: MWATCH arms the group's watch on the line of its address; MWAIT goes on when no watch is armed or a write has been seen, and takes the watch away,
and else waits; in a reproducible task both raise a determinism fault. R44, R400, R401: LAUNCH of a queue number from 0 to 63 with its LPB in device memory
completes with the queue engine's result, kills its gang where a line of the LPB is poisoned (R74, R419), and of a number above completes with 3; SIGNAL of a
vector below 64 commits the gang's stores and sends a class 0 interrupt, and of any other is illegal. R55 to R57, R402, R403: DEAL of a job card puts the
chunk its cluster is dealt in flight, the head of the cluster's queue where it holds one and (0, 0) where no record remains, waits while its cluster has to
steal, and outside a card is illegal; TKICK starts an ended Tender at the register's code index with its flags clear, is illegal where there is none, and
else waits. -/
def Obligations.WatchLaunchAndDeal : Prop :=
  (∀ sa s, let i := Instr.mwatch sa
    CanIssue i s → let va := (readPair (groupIn i s) sa.toNat).toNat
    ((curLpb (atIssue i s)).repro = true → exec i s = .next (afterFault i s (FaultInfo.plain 0x11))) ∧
    ((curLpb (atIssue i s)).repro = false → NotHeld (atIssue i s) true → ∀ a s2,
      checkOne (atIssue i s) .device .read true (va - va % 128) 128 1 = .ok (a, s2) →
      exec i s = .next (after i s (setCurGroup s2 { groupIn i s with watch := some (lineOf a.pa, false) })))) ∧
  (∀ s, CanIssue .mwait s → let g := groupIn .mwait s
    exec .mwait s = .next (if (curLpb (atIssue .mwait s)).repro then afterFault .mwait s (FaultInfo.plain 0x11)
      else match g.watch with
        | some (_, false) => atIssue .mwait s
        | _ => after .mwait s (setCurGroup (atIssue .mwait s) { g with watch := none }))) ∧
  (∀ sd sa a s2 s, let i := Instr.launch sd sa
    CanIssue i s → NotHeld (atIssue i s) true → let g := groupIn i s
    checkOne (atIssue i s) .device .read false (readPair g sa.toNat).toNat 256 256 = .ok (a, s2) →
    let s3 := closeWindow (commitGang s2 s.cur.gang) s.cur.gang
    (64 ≤ (readS g sd.toNat).toNat → exec i s = .next (afterLaunch i s (closeWindow s3 s.cur.gang) [.s sd.toNat 3] 0 .none)) ∧
    ((readS g sd.toNat).toNat < 64 → a.host = false → anyPoisoned s3 a.pa 256 = true →
      exec i s = .next (consumedError s3 (accessFault 0x31 .device 0 a.va))) ∧
    ((readS g sd.toNat).toNat < 64 → a.host = false → anyPoisoned s3 a.pa 256 = false →
      let r := enqueueLpb s3 (readS g sd.toNat).toNat ((List.range 256).map fun k => memByte s3 (a.pa + k))
      exec i s = .next (afterLaunch i s (closeWindow r.2 s.cur.gang) [.s sd.toNat (BitVec.ofNat 32 r.1)] 0 .none))) ∧
  (∀ sd sa s, let i := Instr.signal sd sa
    CanIssue i s → let g := groupIn i s
    let s1 := atIssue i s
    (64 ≤ (readS g sd.toNat).toNat → exec i s = .next (afterFault i s (FaultInfo.plain 0x02))) ∧
    ((readS g sd.toNat).toNat < 64 → OnlyStnt s1 → ∃ t, exec i s = .next (after i s t) ∧ (curGang t).store = [] ∧
      t.outbox = s1.outbox ++ [⟨0x90, 0, 0, 16 * (readS g sd.toNat).toNat, (readPair g sa.toNat).toNat, []⟩] ∧ t.mem = s1.mem)) ∧
  (∀ sd s, let i := Instr.deal sd
    CanIssue i s → let s1 := atIssue i s
    let task := (curGang s1).task
    let cl := (curGang s1).cluster
    let gives (t : State) (c : Nat × Nat) : State :=
      afterLaunch i s t [.s sd.toNat (BitVec.ofNat 32 c.1), .s (sd.toNat + 1) (BitVec.ofNat 32 c.2)] 0 .none
    ((curLpb s1).job = false → exec i s = .next (afterFault i s (FaultInfo.plain 0x02))) ∧
    ((curLpb s1).job = true →
      (∀ c t, dealChunk s1 task cl = (some c, t) → exec i s = .next (gives t c)) ∧
      (∀ t, dealChunk s1 task cl = (none, t) → exec i s = .next t) ∧
      (∀ c r, (taskAt s1 task).locals.get [] cl = c :: r → ∃ t, exec i s = .next (gives t c) ∧ r <+: (taskAt t task).locals.get [] cl) ∧
      ((taskAt s1 task).lpb.jcount ≤ (taskAt s1 task).dealNext → (∀ e ∈ (taskAt s1 task).locals, e.2 = []) →
        ∃ t, exec i s = .next (gives t (0, 0))))) ∧
  (∀ sa s, let i := Instr.tkick sa
    CanIssue i s → let s1 := atIssue i s
    let b := curBlock s1
    (b.tnd.st = .ended → exec i s = .next (after i s (setCurBlock s1
      { b with tnd := { b.tnd with tpc := readS (groupIn i s) sa.toNat, st := .running, tflags := 0 } }))) ∧
    (b.tnd.st = .idle → exec i s = .next (afterFault i s (FaultInfo.plain 0x02))) ∧
    (b.tnd.st ≠ .ended → b.tnd.st ≠ .idle → exec i s = .next s1))

/-! ## The Tender -/

/-- R288, R289, R293, R294, R297: each integer word writes its result modulo 2^64 to t[td] and goes on at the next word; TNOP does nothing; TLD.env writes
the environment's value. A write to t0 is discarded, t0 reads 0, and no other register changes. R295: TBC branches when its relation to 0 holds; TBA reads
t[ta] before it links t[td]; TLOOP counts down to 0 and branches while the count is not 0. A target is the word's index plus the signed offset, or the
register's for TBA. -/
def Obligations.TenderIntegerAndTransferWords : Prop :=
  (∀ i d f s, tenderValue i = some (d, f) → TenderRuns s →
    exec i s = .next (tenderGoes s (setCurTnd s (writeT (curTnd s) d.toNat (BitVec.ofInt 64 (f (curTnd s))))))) ∧
  (∀ s, TenderRuns s → exec .tnop s = .next (tenderGoes s s)) ∧
  (∀ td idx s, TenderRuns s → idx.toNat ≤ 7 → exec (.tldEnv td idx) s = .next (tenderGoes s
    (setCurTnd s (writeT (curTnd s) td.toNat (BitVec.ofNat 64 (environment s idx.toNat)))))) ∧
  (∀ t n x m, readT (writeT t n x) m = if m ≠ 0 ∧ m = n then x else readT t m) ∧
  (∀ ta cond off s, TenderRuns s → cond.toNat ≤ 5 → let t := curTnd s
    (tenderRelation cond (tInt t ta) → exec (.tbc ta cond off) s = .next (tenderJumps s (t.tpc + off.signExtend 32))) ∧
    (¬ tenderRelation cond (tInt t ta) → exec (.tbc ta cond off) s = .next (tenderGoes s s))) ∧
  (∀ td ta off s, TenderRuns s → let t := curTnd s
    exec (.tba td ta off) s = .next (tenderJumps (setCurTnd s (writeT t td.toNat (BitVec.ofNat 64 (t.tpc + 1).toNat)))
      ((if ta = 0 then t.tpc else BitVec.ofNat 32 (tNat t ta)) + off.signExtend 32))) ∧
  (∀ ta off s, TenderRuns s → let t := curTnd s
    (tNat t ta = 0 → exec (.tloop ta off) s = .next (tenderGoes s s)) ∧
    (tNat t ta = 1 → exec (.tloop ta off) s = .next (tenderGoes s (setCurTnd s (writeT t ta.toNat 0)))) ∧
    (2 ≤ tNat t ta → exec (.tloop ta off) s = .next
      (tenderJumps (setCurTnd s (writeT t ta.toNat (readT t ta.toNat - 1))) (t.tpc + off.signExtend 32))))

/-- R296, R298 to R300: TLD, TDESC and TLDB write the value they read; TST writes the low bytes of t[tv] at the cluster cache, no other byte, and closes the
gang's window; it waits for earlier copy words' writes to its bytes (R305), and for a request slot (R302). A global address that is not aligned to the
access raises a misaligned-access fault, and an aligned one outside 0 to 2^52 − 1 an undeclared-access fault. TLDB raises a handle fault at a handle of a
ring (R307), of the wrong buffer or consumer, or beyond its extent, then a misaligned-access fault, then a swizzle-mismatch fault, and waits while the
handle's state does not permit a read (R248). -/
def Obligations.TenderMemory : Prop :=
  (∀ td ta sz imm a s1 s, TenderRuns s → sz ≠ 3 → let n := if sz = 2 then 8 else 4
    let va := (tenderSum s ta imm).toNat
    0 ≤ tenderSum s ta imm →
    checkOne s .read .read false va n n = .ok (a, s1) → a.host = false → tenderRoom s1 1 = true → poisoned s1 a.pa = false →
    ∃ u x, exec (.tld td ta sz imm) s = .next (tenderGoes s (setCurTnd u (writeT (curTnd s) td.toNat x))) ∧ u.mem = s.mem ∧
      u.groups = s.groups ∧ u.blocks = s.blocks ∧ (rcacheNat s1 (curCore s) a.pa n = none →
        let y := natOf ((List.range n).map fun k => clusterByte s1 (curCore s / 16) (a.pa + k))
        x = if sz = 1 then (BitVec.ofNat 32 y).signExtend 64 else BitVec.ofNat 64 y)) ∧
  (∀ td ta sz imm s, TenderRuns s → sz ≠ 3 → let n := if sz = 2 then 8 else 4
    let va := (tenderSum s ta imm).toNat
    0 ≤ tenderSum s ta imm →
    va % n ≠ 0 → exec (.tld td ta sz imm) s = .next (tenderFaults s { FaultInfo.plain 0x0D with va := va })) ∧
  (∀ td ta sz imm s, TenderRuns s → sz ≠ 3 → (curGroup s).handler = false → tenderSum s ta imm % (if sz = 2 then 8 else 4) = 0 →
    tenderSum s ta imm < 0 ∨ 2 ^ 52 ≤ tenderSum s ta imm → ∃ f, exec (.tld td ta sz imm) s = .next (tenderFaults s f) ∧ f.code = 0x0E) ∧
  (∀ tv ta sz imm a s1 s, TenderRuns s → sz = 0 ∨ sz = 2 → let n := if sz = 2 then 8 else 4
    let va := (tenderSum s ta imm).toNat
    0 ≤ tenderSum s ta imm →
    checkOne s .write .write false va n n = .ok (a, s1) → a.host = false →
    (writeBehind s1 s1.nextFlight [(0, a.pa, n)] = true ∨ tenderRoom s1 1 = false → exec (.tst tv ta sz imm) s = .next (tenderWaits s1)) ∧
    (writeBehind s1 s1.nextFlight [(0, a.pa, n)] = false → tenderRoom s1 1 = true →
    ∃ u, exec (.tst tv ta sz imm) s = .next (tenderGoes s u) ∧ u.mem = s.mem ∧ u.groups = s.groups ∧ u.blocks = s.blocks ∧
      (curGang u).window = false ∧
      ∀ b, clusterByte u (curCore s / 16) b = if a.pa ≤ b ∧ b < a.pa + n then BitVec.ofNat 8 ((readT (curTnd s) tv.toNat).toNat / 2 ^ (8 * (b - a.pa)))
        else clusterByte s (curCore s / 16) b)) ∧
  (∀ tv ta sz imm s, TenderRuns s → sz = 0 ∨ sz = 2 → let n := if sz = 2 then 8 else 4
    (0 ≤ tenderSum s ta imm → tenderSum s ta imm % (n : Int) ≠ 0 →
      exec (.tst tv ta sz imm) s = .next (tenderFaults s { FaultInfo.plain 0x0D with fclass := 1, va := (tenderSum s ta imm).toNat })) ∧
    ((curGroup s).handler = false → tenderSum s ta imm % (n : Int) = 0 → tenderSum s ta imm < 0 ∨ 2 ^ 52 ≤ tenderSum s ta imm →
      ∃ f, exec (.tst tv ta sz imm) s = .next (tenderFaults s f) ∧ f.code = 0x0E)) ∧
  (∀ td h tb sz s, TenderRuns s → sz ≠ 3 → let n := if sz = 2 then 8 else 4
    let o := tNat (curTnd s) tb
    let e := handleAt (curBlock s) h.toNat
    let i := Instr.tldb td h tb sz
    (inRing (curTnd s) h.toNat = true → exec i s = .next (tenderFaults s (FaultInfo.plain 0x0B))) ∧
    (inRing (curTnd s) h.toNat = false → (curTnd s).tested = false →
      (2 ≤ hBuf e ∨ inMask (hCons e) .tender = false ∨ hExt e < o + n → exec i s = .next (tenderFaults s (FaultInfo.plain 0x0B))) ∧
      (hBuf e < 2 → inMask (hCons e) .tender = true → o + n ≤ hExt e → o % n ≠ 0 → exec i s = .next (tenderFaults s (FaultInfo.plain 0x0D))) ∧
      (SideOk e .read o n → o % n = 0 → hFv e = 1 → hFswz e ≠ hSwz e → exec i s = .next (tenderFaults s (FaultInfo.plain 0x0C))) ∧
      (SideOk e .read o n → o % n = 0 → (hFv e = 1 → hFswz e = hSwz e) → ¬ StateFits e .read false →
        exec i s = .next (tenderWaits (setCurTnd s { curTnd s with tested := true }))))) ∧
  (∀ td h tb sz s, TenderRuns s → sz ≠ 3 → let n := if sz = 2 then 8 else 4
    let o := tNat (curTnd s) tb
    let e := handleAt (curBlock s) h.toNat
    inRing (curTnd s) h.toNat = false → ((curTnd s).tested = false → SideOk e .read o n ∧ o % n = 0) → (hFv e = 1 → hFswz e = hSwz e) →
    StateFits e .read false →
    let y := natOf ((List.range n).map fun k => handleByte (curBlock s) e (hSwz e) (o + k))
    exec (.tldb td h tb sz) s = .next (tenderGoes s (setCurTnd s
      (writeT (curTnd s) td.toNat (if sz = 1 then (BitVec.ofNat 32 y).signExtend 64 else BitVec.ofNat 64 y))))) ∧
  (∀ d ta s, TenderRuns s → let va := tNat (curTnd s) ta
    (va % 32 ≠ 0 → exec (.tdesc d ta) s = .next (tenderFaults s { FaultInfo.plain 0x0D with va := va })) ∧
    ((curGroup s).handler = false → va % 32 = 0 → 2 ^ 52 ≤ va → ∃ f, exec (.tdesc d ta) s = .next (tenderFaults s f) ∧ f.code = 0x0E)) ∧
  (∀ d ta a s1 s, TenderRuns s → checkOne s .read .read false (tNat (curTnd s) ta) 32 32 = .ok (a, s1) → a.host = false →
    tenderRoom s1 1 = true → poisoned s1 a.pa = false →
    ∃ u t, exec (.tdesc d ta) s = .next (tenderGoes s (setCurTnd u t)) ∧ u.mem = s.mem ∧ u.groups = s.groups ∧ u.blocks = s.blocks ∧
      t = { curTnd s with d := t.d } ∧ ∀ k, k < 16 → readD t k = if k = d.toNat
        then BitVec.ofNat 256 (natOf ((List.range 32).map fun j => clusterByte s1 (curCore s / 16) (a.pa + j))) else readD (curTnd s) k)

/-- R315, R316, R304: the Tender's synchronisation words. TBAR raises a barrier fault at a barrier without participants, counts its arrival once every
earlier access of the Tender is performed, and goes on when its phase is released; THSET makes a legal transition of a handle outside every ring, to FULL once the writes of
earlier copy words through it have landed, and raises a handle fault for another; THWAIT, TWAIT and TFENCE go on when what they wait for holds; TEVT and TEND post their record, and
TEND ends the Tender; TTRAP suspends it with the next word to go on at. -/
def Obligations.TenderSynchronisation : Prop :=
  (∀ g n mode s, TenderRuns s → mode.toNat ≤ 2 → (g = true → n.toNat ≤ 3) → let b := if g = true then 16 + n.toNat else n.toNat
    let t := curTnd s
    let x := barAt s s.cur.gang s.cur.blk b
    (participants s b = 0 → TenderDone s → exec (.tbar g n mode) s = .next (tenderFaults s (FaultInfo.plain 0x0A))) ∧
    (∀ w, participants s b ≠ 0 → t.barWait = some w → w.2.1 < x.rel →
      exec (.tbar g n mode) s = .next (tenderGoes s (setCurTnd s { t with barWait := none }))) ∧
    (participants s b ≠ 0 → t.barWait = none → t.arr.get 0 b = 0 → TenderDone s → mode ≠ 2 →
      ∃ u, exec (.tbar g n mode) s = .next (if mode = 1 then tenderGoes s u else tenderWaits u) ∧ u.mem = s.mem ∧
        barAt u s.cur.gang s.cur.blk b = if participants s b ≤ x.count + 1 then { x with count := 0, gen := x.gen + 1 }
          else { x with count := x.count + 1 })) ∧
  (∀ h st s, TenderRuns s → inRing (curTnd s) h.toNat = false → canMove s s.cur.gang s.cur.blk h.toNat = true →
    (st = 2 → writesLeft s s.cur.gang s.cur.blk h.toNat s.nextFlight = false) →
    let e := handleAt (curBlock s) h.toNat
    let mine := inMask (hProd e) .tender
    let theirs := inMask (hCons e) .tender
    let legal := (hState e = 0 ∧ st = 1 ∧ mine = true) ∨ (hState e = 1 ∧ st = 2 ∧ mine = true) ∨ (hState e = 2 ∧ st = 3 ∧ theirs = true) ∨
      ((hState e = 2 ∨ hState e = 3) ∧ st = 0 ∧ theirs = true)
    (legal → ∃ e', exec (.thset h st) s = .next (tenderGoes s (moveHandle s s.cur.gang s.cur.blk h.toNat e')) ∧
      hState e' = st.toNat ∧ hPhase e' = (if st = 2 then 1 - hPhase e else hPhase e) ∧ hBase e' = hBase e ∧ hExt e' = hExt e) ∧
    (¬ legal → exec (.thset h st) s = .next (tenderFaults s (FaultInfo.plain 0x0B)))) ∧
  (∀ h st ph s, TenderRuns s → inRing (curTnd s) h.toNat = false → let e := handleAt (curBlock s) h.toNat
    exec (.thwait h st ph) s = .next (if hState e = st.toNat ∧ hPhase e = ph.toNat then tenderGoes s s else tenderWaits s)) ∧
  (∀ n s, TenderRuns s → n.toNat ≤ 15 →
    exec (.twait n) s = .next (if (curTnd s).active.length ≤ n.toNat then tenderGoes s s else tenderWaits s)) ∧
  (∀ sc s, TenderRuns s → sc.toNat ≤ 5 → exec (.tfence sc) s = .next
    (if TenderDone s then tenderGoes s s else tenderWaits s)) ∧
  (∀ ta tag f c s, TenderRuns s → TenderDone s → (curTnd s).held = 0 → (curBlock s).events.length < 64 → (curBlock s).posts = [] →
    let t := curTnd s
    let data := if f = true then tNat t ta / 256 * 256 + t.tflags.toNat else tNat t ta
    exec (.tevt ta tag f c) s = .next (tenderGoes s (setCurBlock s { curBlock s with
      events := (curBlock s).events ++ [eventRec 1 0 tag.toNat s.cur.blk t.tpc data]
      tnd := { t with tflags := if c = true then 0 else t.tflags } }))) ∧
  (∀ s, TenderRuns s → TenderDone s → (curTnd s).held = 0 → (curBlock s).events.length < 64 → (curBlock s).posts = [] →
    exec .tend s = .next (setCurBlock s { curBlock s with
      events := (curBlock s).events ++ [eventRec 1 3 0 s.cur.blk (curTnd s).tpc (curTnd s).tflags.toNat]
      tnd := { curTnd s with st := .ended, held := 0 } })) ∧
  (∀ imm s, TenderRuns s → (curTnd s).active = [] → exec (.ttrap imm) s = .next (suspendTender
    (setCurTnd s { curTnd s with tpc := (curTnd s).tpc + 1 }) s.cur.gang s.cur.blk (curTnd s).tpc { FaultInfo.plain 0x19 with imm := imm.toNat }))

/-- R302 to R304, R306 to R314: a copy word that finds a free record, whose descriptor and handle pass the checks and whose handle is in the state its access
needs, takes the lowest free record with its captured operands and goes on; with BG it makes its begin transition first. A TKVR or TKVW, whose rows in the
handle have RB + 1 bytes (the model's reading, log entry 36), faults in flight where its rows do not exist (R303 step 8; log entry 72): with a range fault,
or a KV miss at the row whose key is unmapped, and its Tender is suspended with the record at that row. A TSEND announces its message, in a flit of the
model's type 0xE0 (log entry 39), unless an earlier one of its channel is still to be announced (R445; log entries 55 and 121). TMCAST with an empty mask,
and TCOPYL of no iteration, only go on. -/
def Obligations.CopyWordsIssue : Prop :=
  (∀ d tc tb bg fin ev k s, TenderRuns s → (curTnd s).held = 0 → FreeRecord (curTnd s) k → ∀ out : Bool,
    let i := if out = true then Instr.tstore d tc tb bg fin ev else .tcopy d tc tb bg fin ev
    let acc : HAccess := if out = true then .read else .write
    let x := readD (curTnd s) d.toNat
    let z := descrSize (curTask s) x
    let e := handleAt (curBlock s) (dHnd x)
    let off := tNat (curTnd s) tb
    DescrOk s x tc (dNdim x) → inRing (curTnd s) (dHnd x) = false → SideOk e acc off (z * dElems x) → off % z = 0 → Matches e acc d.toNat x →
    StateFits e acc bg → MayBegin s s.cur.blk (dHnd x) bg →
    ∃ r, Captured s r (if out = true then 0x16 else 0x15) d.toNat (readT (curTnd s) tb.toNat :: readTs (curTnd s) tc.toNat (dNdim x)) fin ev (dElems x) ∧
      exec i s = .next (takesRecord s (begins s s.cur.blk (dHnd x) acc bg) k r)) ∧
  (∀ d tc tn k3 ring k s, TenderRuns s → (curTnd s).held = 0 → FreeRecord (curTnd s) k → k3.toNat ≤ 4 →
    let x := readD (curTnd s) d.toNat
    DescrOk s x tc (dNdim x) → tn.toNat ≤ 62 → k3.toNat < dNdim x → dHnd x + ring.toNat ≤ 63 →
    (∀ e ∈ (curTnd s).active, e.2.loop = none) →
    (tNat (curTnd s) tn = 0 → exec (.tcopyl d tc tn k3 ring) s = .next (tenderGoes s s)) ∧
    (tNat (curTnd s) tn ≠ 0 → ∃ r, Captured s r 0x17 d.toNat (readTs (curTnd s) tc.toNat (dNdim x)) true false (dElems x) ∧
      r.loop = some ⟨tNat (curTnd s) tn, readT (curTnd s) (tn.toNat + 1), k3.toNat, ring.toNat + 1, 0, []⟩ ∧
      exec (.tcopyl d tc tn k3 ring) s = .next (takesRecord s s k r))) ∧
  (∀ d ti tn h k s, TenderRuns s → (curTnd s).held = 0 → FreeRecord (curTnd s) k → ∀ out : Bool,
    let i := if out = true then Instr.tscat d ti tn h else .tgath d ti tn h
    let acc : HAccess := if out = true then .read else .write
    let x := readD (curTnd s) d.toNat
    let n := tNat (curTnd s) tn
    let e := handleAt (curBlock s) (dHnd x)
    let eh := handleAt (curBlock s) h.toNat
    DescrOk s x 0 0 → dNdim x ≤ 2 → inRing (curTnd s) (dHnd x) = false → inRing (curTnd s) h.toNat = false →
    SideOk e acc 0 (n * (descrSize (curTask s) x * dBox x 0)) → Matches e acc d.toNat x → StateFits e acc false →
    SideOk eh .read (tNat (curTnd s) ti) (4 * n) → tNat (curTnd s) ti % 4 = 0 → (hFv eh = 1 → hFswz eh = hSwz eh) → StateFits eh .read false →
    ∃ r, Captured s r (if out = true then 0x19 else 0x18) d.toNat [readT (curTnd s) ti.toNat] false false n ∧ r.h = h.toNat ∧
      exec i s = .next (takesRecord s s k r)) ∧
  (∀ d tk tn bg fin ev k kd s, TenderRuns s → (curTnd s).held = 0 → FreeRecord (curTnd s) k → ∀ out : Bool,
    let i := if out = true then Instr.tkvw d tk tn bg fin ev else .tkvr d tk tn bg fin ev
    let acc : HAccess := if out = true then .read else .write
    let x := readD (curTnd s) d.toNat
    let n := tNat (curTnd s) tn
    let e := handleAt (curBlock s) (dHnd x)
    DescrOk s x tk 2 → tNat (curTnd s) tk < 2 ^ 51 → (curLpb s).kvdesc ≠ 0 → kvDesc s (curTask s) (curLpb s).kvdesc = .ok kd →
    inRing (curTnd s) (dHnd x) = false →
    SideOk e acc 0 (n * (kd.rb + 1)) → Matches e acc d.toNat x → StateFits e acc bg → MayBegin s s.cur.blk (dHnd x) bg →
    ∃ r, Captured s r (if out = true then 0x1B else 0x1A) d.toNat [readT (curTnd s) tk.toNat, readT (curTnd s) (tk.toNat + 1)] fin ev n ∧
      exec i s = .next (takesRecord s (begins s s.cur.blk (dHnd x) acc bg) k r)) ∧
  (∀ dd ds rnd bg fin k s, TenderRuns s → (curTnd s).held = 0 → FreeRecord (curTnd s) k → rnd.toNat ≤ 5 →
    let x := readD (curTnd s) dd.toNat
    let y := readD (curTnd s) ds.toNat
    let ex := handleAt (curBlock s) (dHnd x)
    let ey := handleAt (curBlock s) (dHnd y)
    DescrOk s x 0 0 → DescrOk s y 0 0 → dElems x = dElems y → dHnd x ≠ dHnd y → inRing (curTnd s) (dHnd x) = false →
    inRing (curTnd s) (dHnd y) = false → SideOk ey .read 0 (descrSize (curTask s) y * dElems y) → Matches ey .read ds.toNat y → StateFits ey .read bg →
    SideOk ex .write 0 (descrSize (curTask s) x * dElems x) → Matches ex .write dd.toNat x → StateFits ex .write bg →
    MayBegin s s.cur.blk (dHnd x) bg → MayBegin s s.cur.blk (dHnd y) bg →
    ∃ r, Captured s r 0x1C dd.toNat [] fin false (dElems x) ∧ r.desc2 = y ∧ r.rnd = Rnd.ofCode rnd.toNat ∧
      exec (.tcvt dd ds rnd bg fin) s = .next
        (takesRecord s (begins (begins s s.cur.blk (dHnd y) .read bg) s.cur.blk (dHnd x) .write bg) k r)) ∧
  (∀ dd ds tn rnd sat k s, TenderRuns s → (curTnd s).held = 0 → FreeRecord (curTnd s) k → rnd.toNat ≤ 5 →
    let x := readD (curTnd s) dd.toNat
    let y := readD (curTnd s) ds.toNat
    let n := tNat (curTnd s) tn
    let ey := handleAt (curBlock s) (dHnd y)
    DescrOk s x tn (1 + dNdim x) → dEtype x ∈ [2, 3, 6, 7, 8, 9, 10, 11] → DescrOk s y 0 0 → dElems x = dElems y → 1 ≤ n → n ≤ 256 →
    inRing (curTnd s) (dHnd y) = false → SideOk ey .read 0 (n * (descrSize (curTask s) y * dElems y)) → Matches ey .read ds.toNat y →
    StateFits ey .read false →
    ∃ r, Captured s r 0x1D dd.toNat (readT (curTnd s) tn.toNat :: readTs (curTnd s) (tn.toNat + 1) (dNdim x)) false false (dElems x) ∧ r.desc2 = y ∧
      r.rnd = Rnd.ofCode rnd.toNat ∧ r.sat = sat ∧ exec (.tred dd ds tn rnd sat) s = .next (takesRecord s s k r)) ∧
  (∀ d tc tm bg fin ev k s, TenderRuns s → (curTnd s).held = 0 → FreeRecord (curTnd s) k →
    let x := readD (curTnd s) d.toNat
    let m := readT (curTnd s) tm.toNat
    DescrOk s x tc (dNdim x) → m.toNat < 2 ^ (curLpb s).blocks → (curLpb s).blocks ≤ 16 →
    (∀ b, m.getLsbD b = true → inRing (blockAt s s.cur.gang b).tnd (dHnd x) = false) →
    (∀ b, m.getLsbD b = true → let e := handleAt (blockAt s s.cur.gang b) (dHnd x)
      SideOk e .write 0 (descrSize (curTask s) x * dElems x) ∧ Matches e .write d.toNat x ∧ StateFits e .write bg ∧
      MayBegin s b (dHnd x) bg) →
    (m = 0 → exec (.tmcast d tc tm bg fin ev) s = .next (tenderGoes s s)) ∧
    (m ≠ 0 → ∃ r, Captured s r 0x1E d.toNat (m :: readTs (curTnd s) tc.toNat (dNdim x)) fin ev (dElems x) ∧
      exec (.tmcast d tc tm bg fin ev) s = .next (takesRecord s ((maskBlocks m).foldl (fun u b => begins u b (dHnd x) .write bg) s) k r))) ∧
  (∀ d tc tq ev k s, TenderRuns s → (curTnd s).held = 0 → FreeRecord (curTnd s) k → ∀ send : Bool,
    let i := if send = true then Instr.tsend d tc tq ev else .trecv d tc tq ev
    let x := readD (curTnd s) d.toNat
    let q := tNat (curTnd s) tq
    let len := descrSize (curTask s) x * dElems x
    let p := portAt s (q % 16)
    let first := !send || p.sends.all fun m => m.chan != q / 16 || m.announced
    let box : PeerMsg := ⟨q / 16, len, [], s.cur.gang, s.cur.blk, k, first, false, 0, false⟩
    DescrOk s x tc (dNdim x) → q < 2 ^ 12 → p.inactive = false →
    ∃ r u, Captured s r (if send = true then 0x23 else 0x24) d.toNat (readT (curTnd s) tq.toNat :: readTs (curTnd s) tc.toNat (dNdim x)) false ev (dElems x) ∧
      exec i s = .next (takesRecord s u k r) ∧ u.mem = s.mem ∧ u.blocks = s.blocks ∧
      portAt u (q % 16) = (if send = true then { p with sends := p.sends ++ [box] } else { p with recvs := p.recvs ++ [box] }) ∧
      u.outbox = s.outbox ++ (if send = true ∧ first = true then [⟨0xE0, 0, q % 16, q / 16, len, []⟩] else [])) ∧
  (∀ gang blk k r d s0, let s := atBlock s0 gang blk
    recAt s k = some r → r.op = 0x1A ∨ r.op = 0x1B → r.stuck = false → r.loop = none → r.prog < r.count → (curTnd s).st = .running →
    (∀ x ∈ (curTnd s).active, r.seq ≤ x.2.seq) → kvDesc s (curTask s) (curLpb s).kvdesc = .ok d →
    let q := kvRowSel ((r.args[0]?).getD 0)
    let pos := ((r.args[1]?).getD 0).toNat
    let beyond := d.layers ≤ q.layer ∨ d.heads ≤ q.head ∨ 2 ^ 26 ≤ pos ∨ 2 ^ 26 < pos + r.count
    let suspends (code : Nat) : Prop := ∃ f t, exec (.copyWordComplete gang blk k) s0 = .next (suspendTender t gang blk r.idx f) ∧ f.code = code ∧
      f.prog = r.prog ∧ t.mem = s.mem ∧ t.groups = s.groups ∧ ∃ r', recAt t k = some r' ∧ r'.prog = r.prog ∧ r'.stuck = true
    (beyond → suspends 0x1B) ∧
    (¬ beyond → (r.prog = 0 → r.count * (d.rb + 1) ≤ hExt (handleAt (curBlock s) (dHnd r.desc))) → tenderRoom s 1 = true →
      (∃ x, kvLookup s (curCore s / 16) d (d.keyOf q.seq q.layer (pos + r.prog)) = .ok (none, x)) → suspends 0x1C))

/-! ## The matrix sequencer and the engine -/

/-- R319, R323 to R327, R346: the sequencer words write their result and go on; MBR and MLOOP branch by the word's index plus the signed offset; MSETF,
MTILE, MBIND and MRMT set formats, geometry and bindings; MCHK and MSTAT read the status once the operation queue is empty, and wait before. A K beyond
its 9 bits is held as 511, which no engine word takes either (the model's reading, log entry 42). -/
def Obligations.MatrixSequencerWords : Prop :=
  (∀ s, MatrixRuns s → exec .mnop s = .next (matrixGoes s s)) ∧
  (∀ md imm s, MatrixRuns s → exec (.mli md imm) s = .next (matrixGoes s (setCurMat s (writeM (curMat s) md.toNat (BitVec.ofInt 32 imm.toInt))))) ∧
  (∀ md imm s, MatrixRuns s → exec (.maddi md imm) s = .next (matrixGoes s
    (setCurMat s (writeM (curMat s) md.toNat (BitVec.ofInt 32 (mInt (curMat s) md + imm.toInt)))))) ∧
  (∀ ma cond off s, MatrixRuns s → cond.toNat ≤ 4 → (cond = 0 → ma = 0) →
    (matrixRelation cond (mInt (curMat s) ma) → exec (.mbr ma cond off) s = .next (matrixJumps s ((curMat s).mpc + off.signExtend 32))) ∧
    (¬ matrixRelation cond (mInt (curMat s) ma) → exec (.mbr ma cond off) s = .next (matrixGoes s s))) ∧
  (∀ ma off s, MatrixRuns s → let x := readM (curMat s) ma.toNat
    (x.toNat = 0 → exec (.mloop ma off) s = .next (matrixGoes s s)) ∧
    (x.toNat = 1 → exec (.mloop ma off) s = .next (matrixGoes s (setCurMat s (writeM (curMat s) ma.toNat 0)))) ∧
    (2 ≤ x.toNat → exec (.mloop ma off) s = .next
      (matrixJumps (setCurMat s (writeM (curMat s) ma.toNat (x - 1))) ((curMat s).mpc + off.signExtend 32)))) ∧
  (∀ ma s, MatrixRuns s → let x := readM (curMat s) ma.toNat
    exec (.msetf ma) s = .next (if x.toNat < 2 ^ 13 then matrixGoes s (setCurMat s { curMat s with mfmt := x })
      else matrixFault s (curMat s).mpc (FaultInfo.plain 0x15))) ∧
  (∀ mc nc ma s, MatrixRuns s → exec (.mtile mc nc ma) s = .next (matrixGoes s
    (setCurMat s { curMat s with tm := mc.toNat, tn := nc.toNat, tk := min (readM (curMat s) ma.toNat).toNat 511 }))) ∧
  (∀ slot h ma mb s, MatrixRuns s → (slot = 2 → mb = 0) → (slot = 3 → ma = 0 ∧ mb = 0) →
    let mref := if slot.toNat ≤ 1 then readM (curMat s) mb.toNat else 0
    let off := if slot = 3 then 0 else readM (curMat s) ma.toNat
    (MapReference mref → exec (.mbind slot h ma mb) s = .next (matrixGoes s
      (setCurMat s { curMat s with binds := (curMat s).binds.set Bind.zero slot.toNat ⟨0, h.toNat, off, mref⟩ }))) ∧
    (¬ MapReference mref → exec (.mbind slot h ma mb) s = .next (matrixFault s (curMat s).mpc (FaultInfo.plain 0x15)))) ∧
  (∀ src slot h ma mb s, MatrixRuns s → src.toNat ≤ 15 → slot.toNat ≤ 1 → let mask := readM (curMat s) mb.toNat
    exec (.mrmt src slot h ma mb) s = .next (if mask.toNat < 2 ^ 16
      then matrixGoes s (setCurMat s { curMat s with
        binds := (curMat s).binds.set Bind.zero slot.toNat ⟨src.toNat + 1, h.toNat, readM (curMat s) ma.toNat, mask⟩ })
      else matrixFault s (curMat s).mpc (FaultInfo.plain 0x15))) ∧
  (∀ c md s, MatrixRuns s → exec (.mchk c md) s = .next (if (curMat s).queue ≠ [] then matrixWaits s
    else matrixGoes s (setCurMat s { writeM (curMat s) md.toNat (BitVec.ofNat 32 (curMat s).mflags.toNat) with
      mflags := if c = true then 0 else (curMat s).mflags }))) ∧
  (∀ md sel s, MatrixRuns s → sel.toNat ≤ 6 → exec (.mstat md sel) s = .next (if (curMat s).queue ≠ [] then matrixWaits s
    else matrixGoes s (setCurMat s (writeM (curMat s) md.toNat (BitVec.ofNat 32 (statusOf s sel.toNat))))))

/-- R321, R344, R345: MBAR acts as TBAR does, with the engine words in the place of the copy words; MWAITH waits for a handle of the block, or of the
block that md names; MHSET makes a legal transition of it, to FULL once the engine's earlier writes through it have landed, and raises a handle
fault for another, and a multicast-target fault for a block that the
gang has not; MEND posts its record once the operation queue is empty, and ends the stream. -/
def Obligations.MatrixSynchronisation : Prop :=
  (∀ g n mode s, MatrixRuns s → mode.toNat ≤ 2 → (g = true → n.toNat ≤ 3) → let b := if g = true then 16 + n.toNat else n.toNat
    let m := curMat s
    let x := barAt s s.cur.gang s.cur.blk b
    (participants s b = 0 → m.queue = [] → exec (.mbar g mode n) s = .next (matrixFault s m.mpc (FaultInfo.plain 0x0A))) ∧
    (∀ w, participants s b ≠ 0 → m.barWait = some w → w.2.1 < x.rel →
      exec (.mbar g mode n) s = .next (matrixGoes s (setCurMat s { m with barWait := none }))) ∧
    (participants s b ≠ 0 → m.barWait = none → m.arr.get 0 b = 0 → m.queue = [] → mode ≠ 2 →
      ∃ u, exec (.mbar g mode n) s = .next (if mode = 1 then matrixGoes s u else matrixWaits u) ∧ u.mem = s.mem ∧
        barAt u s.cur.gang s.cur.blk b = if participants s b ≤ x.count + 1 then { x with count := 0, gen := x.gen + 1 }
          else { x with count := x.count + 1 })) ∧
  (∀ md h st ph s, MatrixRuns s → (md.toNat < 16 → md = 0) → let blk := if md.toNat < 16 then s.cur.blk else md.toNat - 16
    let e := handleAt (blockAt s s.cur.gang blk) h.toNat
    (md.toNat < 16 ∨ blk < (curLpb s).blocks → exec (.mwaith md h st ph) s = .next
      (if hState e = st.toNat ∧ hPhase e = ph.toNat then matrixGoes s s else matrixWaits s)) ∧
    (16 ≤ md.toNat → (curLpb s).blocks ≤ blk →
      exec (.mwaith md h st ph) s = .next (matrixFault s (curMat s).mpc (FaultInfo.plain 0x12)))) ∧
  (∀ md h st s, MatrixRuns s → (md.toNat < 16 → md = 0) →
    let blk := if md.toNat < 16 then s.cur.blk else md.toNat - 16
    let eng : Engine := if md.toNat < 16 then .matrix else .remote
    let b := blockAt s s.cur.gang blk
    let e := handleAt b h.toNat
    let mine := inMask (hProd e) eng
    let theirs := inMask (hCons e) eng
    let legal := (hState e = 0 ∧ st = 1 ∧ mine = true) ∨ (hState e = 1 ∧ st = 2 ∧ mine = true) ∨ (hState e = 2 ∧ st = 3 ∧ theirs = true) ∨
      ((hState e = 2 ∨ hState e = 3) ∧ st = 0 ∧ theirs = true)
    (md.toNat < 16 ∨ blk < (curLpb s).blocks → canMove s s.cur.gang blk h.toNat = true →
      (st = 2 → blk = s.cur.blk → engineWrites s s.cur.gang blk h.toNat = false) →
      (legal → ∃ e', exec (.mhset md h st) s = .next (matrixGoes s (moveHandle s s.cur.gang blk h.toNat e')) ∧
        hState e' = st.toNat ∧ hPhase e' = (if st = 2 then 1 - hPhase e else hPhase e) ∧ hBase e' = hBase e ∧ hExt e' = hExt e) ∧
      (¬ legal → exec (.mhset md h st) s = .next (matrixFault s (curMat s).mpc (FaultInfo.plain 0x0B)))) ∧
    (16 ≤ md.toNat → (curLpb s).blocks ≤ blk → exec (.mhset md h st) s = .next (matrixFault s (curMat s).mpc (FaultInfo.plain 0x12)))) ∧
  (∀ s, MatrixRuns s → let m := curMat s
    (m.queue ≠ [] → exec .mend s = .next (matrixWaits s)) ∧
    (m.queue = [] → m.held = 0 → (curBlock s).events.length < 64 → (curBlock s).posts = [] → exec .mend s = .next (setCurBlock s { curBlock s with
      events := (curBlock s).events ++ [eventRec 2 3 0 s.cur.blk m.mpc m.mflags.toNat]
      mat := { m with st := .ended, held := 0 } })))

/-- R321, R322, R327, R341, R343: a legal engine word enters the operation queue behind fewer than four others, with its operands captured; EPC counts an
epilogue, a KV store and an attention word (ATT: the model's reading, log entry 41), QORD a quantising epilogue with a tile number; with four words queued
the sequencer waits; an epilogue with an illegal control word or tile number, and a KV word without a KV space, are illegal at issue, before the word is
queued and whatever earlier words still do (the model's reading, log entry 71). -/
def Obligations.EngineWordsQueue : Prop :=
  ∀ i op md ma mb counts s, engineForm i = some (op, md, ma, mb, counts) → MatrixRuns s → let m := curMat s
    ((∀ c p r e a b d, i = .att c p r e a b d → r.toNat ≤ 5 ∧ p ≠ 3) → (∀ r k e a b d, i = .mepkv r k e a b d → k.toNat ≤ 5) →
      (4 ≤ m.queue.length → exec i s = .next (matrixWaits s)) ∧
      (m.queue.length < 4 → ¬ EngineLegal s i → exec i s = .next (matrixFault s m.mpc (FaultInfo.plain 0x15)))) ∧
    (m.queue.length < 4 → EngineLegal s i → ∃ w g,
      exec i s = .next (matrixGoes s (setCurMat { setCurGang s g with nextFlight := s.nextFlight + 1 } { m with
        queue := m.queue ++ [w]
        epc := if counts = true then m.epc + 1 else m.epc
        qord := if takesOrder s i = true then m.qord + 1 else m.qord })) ∧
      CapturedWord s w op md ma mb ∧ g = { curGang s with joins := g.joins, nextJoin := g.nextJoin } ∧
      (w.bindA.remote = 0 → w.bindB.remote = 0 → g = curGang s ∧ w.joinA = 0 ∧ w.joinB = 0))

/-- R97, R98, R289, R317, R321, R348: a word of a reserved opcode is illegal in its stream: 0x28 to 0xFF in a Tender's, 0x15 to 0xFF in a sequencer's. Its
own effect is a fault on every path: it suspends its stream at the word, posts a record of kind 2 with the code (0x14 of the Tender, 0x15 of the matrix
stream) and routes the fault record, here of a task with a host-call ring, to the host; the registers, memory and the other streams stay as they were. While
an older copy word stands at a fault, a Tender's word waits instead. A stream that is idle, suspended, stopped or ended issues nothing. -/
def Obligations.IllegalStreamWords : Prop :=
  (∀ w : W32, 0x28 ≤ w.toNat / 2 ^ 24 → decodeTender w = .tenderIllegal w) ∧
  (∀ w : W32, 0x15 ≤ w.toNat / 2 ^ 24 → decodeMatrix w = .matrixStreamIllegal w) ∧
  (∀ w s, TenderRuns s → NoneStuck s → (curLpb s).hcring ≠ 0 → (curBlock s).events.length < 64 → (curBlock s).posts = [] → s.cur.blk ≠ handlerBlk →
    exec (.tenderIllegal w) s = .next { setCurBlock s { curBlock s with
      events := (curBlock s).events ++ [eventRec 1 2 0 s.cur.blk (curTnd s).tpc (0x14 * 2 ^ 56)]
      tnd := { curTnd s with st := .suspended, tested := false } } with
        calls := s.calls ++ [⟨faultWords s s.cur.gang 1 s.cur.blk 0 (curTnd s).tpc 0 (FaultInfo.plain 0x14), (curLpb s).hcring, (curLpb s).hclog,
          s.cur.gang, 1, s.cur.blk, 0, none, false, none⟩] }) ∧
  (∀ w s, MatrixRuns s → (curLpb s).hcring ≠ 0 → (curBlock s).events.length < 64 → (curBlock s).posts = [] → s.cur.blk ≠ handlerBlk →
    exec (.matrixStreamIllegal w) s = .next { setCurBlock s { curBlock s with
      events := (curBlock s).events ++ [eventRec 2 2 0 s.cur.blk (curMat s).mpc (0x15 * 2 ^ 56)]
      mat := { curMat s with st := .suspended } } with
        calls := s.calls ++ [⟨faultWords s s.cur.gang 2 s.cur.blk 0 (curMat s).mpc 0 (FaultInfo.plain 0x15), (curLpb s).hcring, (curLpb s).hclog,
          s.cur.gang, 2, s.cur.blk, 0, none, false, none⟩] }) ∧
  (∀ w s, TenderRuns s → exec (.tenderIllegal w) s = .next (tenderFaults s (FaultInfo.plain 0x14))) ∧
  (∀ w s, MatrixRuns s → exec (.matrixStreamIllegal w) s = .next (matrixFault s (curMat s).mpc (FaultInfo.plain 0x15))) ∧
  (∀ f s, ¬ NoneStuck s → tenderFault s f = tenderWaits s) ∧
  (∀ f s, NoneStuck s → s.cur.blk ≠ handlerBlk → (curLpb s).hcring ≠ 0 → pagerCode f.code = false → (curBlock s).events.length < 64 → (curBlock s).posts = [] →
    f.code < 256 → ∃ ws,
      tenderFault s f = { setCurBlock s { curBlock s with
        events := (curBlock s).events ++ [eventRec 1 2 0 s.cur.blk (curTnd s).tpc (f.va % 2 ^ 52 + f.code * 2 ^ 56)]
        tnd := { curTnd s with st := .suspended } } with
          calls := s.calls ++ [⟨ws, (curLpb s).hcring, (curLpb s).hclog, s.cur.gang, 1, s.cur.blk, 0, none, false, none⟩] } ∧
      ws = faultWords s s.cur.gang 1 s.cur.blk 0 (curTnd s).tpc 0 f) ∧
  (∀ f s, s.cur.blk ≠ handlerBlk → (curLpb s).hcring ≠ 0 → pagerCode f.code = false → (curBlock s).events.length < 64 → (curBlock s).posts = [] →
    f.code < 256 → ∃ ws,
      matrixFault s (curMat s).mpc f = { setCurBlock s { curBlock s with
        events := (curBlock s).events ++ [eventRec 2 2 0 s.cur.blk (curMat s).mpc (f.va % 2 ^ 52 + f.code * 2 ^ 56)]
        mat := { curMat s with st := .suspended } } with
          calls := s.calls ++ [⟨ws, (curLpb s).hcring, (curLpb s).hclog, s.cur.gang, 2, s.cur.blk, 0, none, false, none⟩] } ∧
      ws = faultWords s s.cur.gang 2 s.cur.blk 0 (curMat s).mpc 0 f) ∧
  (∀ i d f s, tenderValue i = some (d, f) → ¬ TenderRuns s → exec i s = .next s) ∧
  (∀ i op md ma mb counts s, engineForm i = some (op, md, ma, mb, counts) → ¬ MatrixRuns s → exec i s = .next s)

/-- R320, R321, R331, R341, R250: MZERO at the head of a queue, its C side usable, with no element pending and the core's engine free, leaves every element
of its tile a zero and no other element changed. While the sequencer is not idle, a finished
word makes its transitions one by one, posts its event when its park entries are resolved,
and then leaves the queue with its flags in MFLAGS, EB also in the task's record; at its turn a failing epilogue takes one of the budget while it is above
0, and is then widened, and it is clipped at 0. -/
def Obligations.EngineEvents : Prop :=
  (∀ gang blk i w s, EngineHead s gang blk i w → w.op = 0x0A → w.stage = 0 → CSideOk s gang blk w (w.m * w.n) → w.resv = false →
    engineTaken s gang blk = false → (∀ c ∈ cCells s gang blk w (w.m * w.n), elemBusy s gang blk c = false) →
    ∃ t, exec (.engineWordStart gang blk) s = .next t ∧ (blockAt t gang blk).mat.queue[i]? = some { w with stage := 1 } ∧ t.groups = s.groups ∧
      ∀ c, laAt t gang blk c = if c ∈ cCells s gang blk w (w.m * w.n) then laZero 1 else laAt s gang blk c) ∧
  (∀ gang blk w rest s, (blockAt s gang blk).mat.st ≠ .idle → (blockAt s gang blk).mat.queue = w :: rest → w.stage = 1 → w.stuck = false → w.late = false → w.ended = 2 → entriesLeft s gang blk w = false →
    (blockAt s gang blk).posts = [] → (blockAt s gang blk).events.length < 64 → ∃ t, exec (.engineWordComplete gang blk) s = .next t ∧
      (blockAt t gang blk).mat.queue = { w with ended := 3 } :: rest ∧ t.mem = s.mem ∧
      (blockAt t gang blk).events = (blockAt s gang blk).events ++
        if w.op ≠ 0x0A ∧ w.x / 4 % 2 = 1 then [eventRec 2 1 0 blk w.idx w.data] else []) ∧
  (∀ gang blk w rest s, (blockAt s gang blk).mat.st ≠ .idle → (blockAt s gang blk).mat.queue = w :: rest → w.stage = 1 → w.stuck = false → w.late = false → w.ended = 3 → entriesLeft s gang blk w = false →
    (blockAt s gang blk).posts = [] → ∃ t, exec (.engineWordComplete gang blk) s = .next t ∧ t.mem = s.mem ∧
      (blockAt t gang blk).mat = { (blockAt s gang blk).mat with queue := rest, mflags := (blockAt s gang blk).mat.mflags ||| w.flags } ∧
      (w.flags.getLsbD 7 = true → (taskAt t (gangAt s gang).task).flagsOr.getLsbD 7 = true)) ∧
  (∀ gang blk w rest s, (blockAt s gang blk).mat.st ≠ .idle → (blockAt s gang blk).mat.queue = w :: rest → w.stage = 1 → w.stuck = false → w.late = false → w.ended = 0 → w.op = 0x0D → w.x / 2 % 2 = 1 →
    canMove s gang blk (epiHandle w) = true → let e := handleAt (blockAt s gang blk) (epiHandle w)
    hState e = 1 → inMask (hProd e) .matrix = true → ∃ t, exec (.engineWordComplete gang blk) s = .next t ∧ t.mem = s.mem ∧
      (blockAt t gang blk).mat.queue = { w with ended := 1 } :: rest ∧ hState (handleAt (blockAt t gang blk) (epiHandle w)) = 2 ∧
      hPhase (handleAt (blockAt t gang blk) (epiHandle w)) = 1 - hPhase e) ∧
  (∀ gang blk i w f vs s, EngineHead s gang blk i w → w.stage = 2 → keysDecided s gang blk w = true → epiTiled w = true →
    epiFmt (taskAt s (gangAt s gang).task) w.ma = some f → testedVals (epiCells s gang blk w f) = some vs →
    let n := (gangAt s gang).budget
    let b := blockAt s gang blk
    ∃ t w', exec (.escalationBudget gang blk) s = .next t ∧ (blockAt t gang blk).mat.queue[i]? = some w' ∧
      (gangAt t gang).budget = n - 1 ∧ w.qord.toNat * 16 + blk ∈ (gangAt t gang).tiles ∧
      (blockAt t gang blk).mat.nwid = (if 0 < n then b.mat.nwid + 1 else b.mat.nwid) ∧
      (blockAt t gang blk).mat.nclip = (if 0 < n then b.mat.nclip else b.mat.nclip + 1) ∧
      (0 < n → w'.stage = 3 ∧ w'.kstep = 1) ∧ (n = 0 → w'.stage = 1 ∧ w'.data / 256 % 256 = 0 ∧ w'.flags.getLsbD 7 = true)) ∧
  (∀ gang blk i w vs s, EngineHead s gang blk i w → w.op = 0x0D → w.stage = 3 → w.kstep = 1 → w.resv = true → entriesLeft s gang blk w = false →
    testedVals (epiCells s gang blk w (.plain .bf16)) = some vs →
    ∃ t w', exec (.engineWordStart gang blk) s = .next t ∧ (blockAt t gang blk).mat.queue[i]? = some w' ∧ w'.stage = 1 ∧
      w'.data / 256 % 256 = 1)

/-- R137 to R140, R328, R330 to R332, R335, R339 to R342, R371 to R374: what engine words compute, one turn at a time. A K-step of MMA and MMAS, and of
ATT's scores, adds its exact products to each element of its patch in increasing k, as the table of R138 says, and parks what does not fit. MEPI stores the
rows of its tile, rounded out or quantised, where its checks pass, with map byte 0, and waits for the budget where they fail. MEPKV writes each row's codes
and scale. ATT rounds its scores, weights them with Smx, adds a × l + Σ pr and a × N + Σ pr·v, and divides the numerators by l in the end. A companded
operand is rounded to binary32 (log entry 26); what an infinite scale, and a scale of 0, make of special codes is open (log entry 111); a numerator that
does not fit begins its record anew (log entry 129). -/
def Obligations.EngineResults : Prop :=
  (∀ gang blk i w fa fb s, (InProgress s gang blk i w 0x0B false ∨ InProgress s gang blk i w 0x0C false) → MmaFormats s gang w fa fb →
    w.prog < patchesOf w → ElementsFree s gang blk (patchElements s gang blk w) →
    let ks := min (kStep fa) (kStep fb)
    ∃ a b t w', OperandsAre s gang blk w fa fb a b ∧ exec (.engineWordStart gang blk) s = .next t ∧ wordAt t gang blk i = some w' ∧
      (∀ r c, inPatch w r c = true → let e := cCell s gang blk w (r * w.n + c)
        ContributesTo (laAt s gang blk e) (laAt t gang blk e) (entriesFor w' gang blk e) ((stepTerms s gang blk w fa fb ks a b r c).map Prod.fst)) ∧
      (∀ e, e ∉ patchElements s gang blk w → laAt t gang blk e = laAt s gang blk e) ∧
      w'.flags = w.flags ||| (if (List.range w.m).any fun r => (List.range w.n).any fun c => inPatch w r c &&
        invalidAt (laAt s gang blk (cCell s gang blk w (r * w.n + c))) (stepTerms s gang blk w fa fb ks a b r c) then fNV else 0) ∧
      w'.stage = 3 ∧ w'.prog = (if (w.kstep + 1) * ks < w.k then w.prog else w.prog + 1) ∧ w'.kstep = if (w.kstep + 1) * ks < w.k then w.kstep + 1 else 0) ∧
  (∀ gang blk i w fa fb s, (InProgress s gang blk i w 0x0B false ∨ InProgress s gang blk i w 0x0C false) → MmaFormats s gang w fa fb →
    patchesOf w ≤ w.prog → ∃ t w', exec (.engineWordStart gang blk) s = .next t ∧ wordAt t gang blk i = some w' ∧ w'.stage = 1 ∧
      w'.data = w.bindA.h + 2 ^ 6 * w.bindB.h + (if w.bindA.remote = 0 then 0 else 2 ^ 12) + (if w.bindB.remote = 0 then 0 else 2 ^ 13) ∧
      ∀ e, laAt t gang blk e = laAt s gang blk e) ∧
  (∀ gang blk i w f s, InProgress s gang blk i w 0x0D true → w.kstep = 0 → OutputIs s gang w f →
    RecordsRead s gang blk (cCells s gang blk w (w.m * w.n)) →
    (epiTiled w = false → ∃ t w', exec (.engineWordStart gang blk) s = .next t ∧ wordAt t gang blk i = some w' ∧ TileStored s t gang blk w w' f) ∧
    (epiTiled w = true → MapApart s gang blk w f → ∃ t w' fails, exec (.engineWordStart gang blk) s = .next t ∧ wordAt t gang blk i = some w' ∧
      ChecksGive s gang blk w f fails ∧ (fails = false → TileStored s t gang blk w w' f) ∧
      (fails = true → w'.stage = 2 ∧ (∀ e, laAt t gang blk e = laAt s gang blk e) ∧ (blockAt t gang blk).abuf = (blockAt s gang blk).abuf ∧
        (blockAt t gang blk).wbuf = (blockAt s gang blk).wbuf))) ∧
  (∀ gang blk i w d s, InProgress s gang blk i w 0x0E true → engineKvDesc s gang = .ok d → w.prog = 0 → w.n = d.dim → RowsReady gang blk w d w.m 0 s →
    ∃ t u w', exec (.engineWordStart gang blk) s = .next t ∧ wordAt t gang blk i = some w' ∧ RowsWritten gang blk w d s w.m u ∧ t.mem = u.mem ∧
      w'.stage = 1 ∧ w'.data = w.m + w.m * (d.rb + 1) * 2 ^ 32 ∧ ∀ e, laAt t gang blk e = laAt s gang blk e) ∧
  (∀ gang blk i w d f k s1 s, InProgress s gang blk i w 0x0F true → AttAt s gang blk w d f k s1 → ElementsFree s gang blk (attElements s gang blk w d) →
    (∃ r, r < w.m ∧ 0 < seenBy w d r) → w.kstep < scoreSteps f d → let ks := scoreStep f d
    ∃ (q kk : Nat → Nat → FVal) (t : State) (w' : EngWord), exec (.engineWordStart gang blk) s = .next t ∧ wordAt t gang blk i = some w' ∧ w'.kstep = w.kstep + 1 ∧
      (∀ r e, r < w.m → e < d.dim → RowElement (taskAt s (gangAt s gang).task) (.plain f)
        (fun o => operandByte s gang blk w.bindA w.joinA (r * pitchOf (.plain f) w.k + o)) e (q r e)) ∧
      (∀ r p e, r < w.m → p < seenBy w d r → e < d.dim → KvValue s1 w d k 0 p e (kk p e)) ∧
      (∀ r p, r < w.m → p < d.tb → let c := scoreCell s gang blk w d r p
        let old := if w.kstep = 0 then laZero 1 else laAt s gang blk c
        if p < seenBy w d r then ContributesTo old (laAt t gang blk c) (entriesFor w' gang blk c)
          ((((List.range d.dim).drop (w.kstep * ks)).take ks).map fun e => (productTerm false (q r e) (kk p e)).1)
        else laAt t gang blk c = old) ∧
      ∀ c, (∀ r p, r < w.m → p < d.tb → c ≠ scoreCell s gang blk w d r p) → laAt t gang blk c = laAt s gang blk c) ∧
  (∀ gang blk i w d f k s1 s, InProgress s gang blk i w 0x0F true → AttAt s gang blk w d f k s1 → ElementsFree s gang blk (attElements s gang blk w d) →
    RecordsRead s gang blk (attElements s gang blk w d) → (∃ r, r < w.m ∧ 0 < seenBy w d r) → w.kstep = scoreSteps f d + 2 →
    ∃ (sc pr : Nat → Nat → Nat) (mn a : Nat → Nat) (vv : Nat → Nat → FVal) (t : State) (w' : EngWord),
      exec (.engineWordStart gang blk) s = .next t ∧ wordAt t gang blk i = some w' ∧ w'.kstep = w.kstep + 1 ∧
      (∀ r p e, r < w.m → p < seenBy w d r → e < d.dim → KvValue s1 w d k 1 p e (vv p e)) ∧
      (∀ r, r < w.m → 0 < seenBy w d r → RowDecided s gang blk w d r (sc r) (pr r) (mn r) (a r) ∧
        (let c := denomCell s gang blk w d r
        Contributes (.num 0 1) false false (laAt s gang blk c) (laAt t gang blk c) (entriesFor w' gang blk c)
            ((productTerm false (Fmt.f64.decode (a r)) (Fmt.f64.decode (rowL w r))).1 ::
              (List.range (seenBy w d r)).map fun p => termOf (Fmt.f32.decode (pr r p)))) ∧
        ∀ e, e < d.dim → let c := outCell s gang blk w d r e
          ∃ h v, ExactHeld s gang blk c h ∧ HeldValue .rne h v ∧
            Contributes (productHeld (Fmt.f64.decode (a r)) h v) (laCls (laAt s gang blk c) == 1) false (laAt s gang blk c) (laAt t gang blk c)
              (entriesFor w' gang blk c) ((List.range (seenBy w d r)).map fun p =>
                (productTerm (w.mfmt.getLsbD 12) ((pFormat w).decode (roundTo (pFormat w) .rne 0 (Fmt.f32.decode (pr r p))).code) (vv p e)).1)) ∧
      ∀ c, (∀ r, r < w.m → 0 < seenBy w d r → c ≠ denomCell s gang blk w d r ∧ ∀ e, e < d.dim → c ≠ outCell s gang blk w d r e) →
        laAt t gang blk c = laAt s gang blk c) ∧
  (∀ gang blk i w d f s, InProgress s gang blk i w 0x0F true → engineKvDesc s gang = .ok d → attFmt (taskAt s (gangAt s gang).task) w = some f →
    RecordsRead s gang blk (attElements s gang blk w d) → w.rows.length = w.m → (∃ r, r < w.m ∧ 0 < seenBy w d r) → w.kstep = scoreSteps f d + 4 →
    ∃ (t : State) (w' : EngWord), exec (.engineWordStart gang blk) s = .next t ∧ wordAt t gang blk i = some w' ∧ w'.prog = w.prog + 1 ∧ w'.kstep = 0 ∧
      ∀ r, r < w.m → if seenBy w d r = 0 then rowM w' r = rowM w r ∧ rowL w' r = rowL w r
        else (∃ sc pr a, RowDecided s gang blk w d r sc pr (rowM w' r) a) ∧ Decided s gang blk (denomCell s gang blk w d r) .f64 (rowL w' r)) ∧
  ∀ gang blk i w d f s, InProgress s gang blk i w 0x0F true → engineKvDesc s gang = .ok d → attFmt (taskAt s (gangAt s gang).task) w = some f →
    ElementsFree s gang blk (attElements s gang blk w d) → RecordsRead s gang blk (attElements s gang blk w d) →
    (∀ r, r < w.m → rowLimit w r ≤ w.prog * d.tb) →
    ∃ (t : State) (w' : EngWord) (o : Nat → Nat → Rounded), exec (.engineWordStart gang blk) s = .next t ∧ wordAt t gang blk i = some w' ∧ w'.stage = 1 ∧
      (∀ r, r < w.m → (∀ e, e < d.dim → let c := outCell s gang blk w d r e
          (if rowLimit w r = 0 then o r e = ⟨0, 0⟩ else ∃ h v, ExactHeld s gang blk c h ∧ HeldValue (Rnd.ofCode (w.x / 8 % 8)) h v ∧
            o r e = arith2 .f32 (Rnd.ofCode (w.x / 8 % 8)) (e % 32 + phaseOf w) divE v (Fmt.f64.decode (rowL w r))) ∧
          Written (Fmt.f32.decode (o r e).code) (laAt t gang blk c)) ∧
        Written (Fmt.f64.decode (rowL w r)) (laAt t gang blk (denomCell s gang blk w d r)) ∧
        ∀ p, p < d.tb → laAt t gang blk (scoreCell s gang blk w d r p) = laZero 1) ∧
      (∀ c, c ∉ attElements s gang blk w d → laAt t gang blk c = laAt s gang blk c) ∧
      ∀ b, w'.flags.getLsbD b = (w.flags.getLsbD b || (reservedClass s gang blk (((List.range w.m).flatMap fun r =>
          (List.range d.dim).map (outCell s gang blk w d r)))).getLsbD b ||
        (List.range w.m).any fun r => (List.range d.dim).any fun e => ((o r e).flags &&& (fNV ||| fNX ||| fUF ||| fOF)).getLsbD b)

/-- R150, R151, R161 to R164, R332: a word in flight whose least latency has passed, that waits for no host access and has no parked lane lands its writes after
the fixed-latency writes that are due, lowers its counter, and sets its flags; a Beacon unit takes at most two of the oldest waiting entries of one queue;
a decided entry's lane is written and the entry freed, an undecided one goes on the Lantern list; the Lantern stage takes an entry of its list when it is
idle, and decides it. A contribution of the engine leaves its element class 1. -/
def Obligations.EscalationEvents : Prop :=
  (∀ gang blk grp k f s, let g := landAt s.now (groupAt s gang blk grp)
    (groupAt s gang blk grp).flights.find? (fun x => x.id == k) = some f → flightWaits s gang blk grp f = false → f.due ≤ s.now →
    f.kv = [] → f.toPark = [] → f.held = 0 → f.parked = [] → f.written = false →
    exec (.variableLatencyWriteback gang blk grp k) s = .next (setGroupAt s gang blk grp (setFlags
      (lowerCounter { applyWrites g f.ws with flights := (applyWrites g f.ws).flights.filter fun x => x.id ≠ k } f.cnt) f.idx f.flags))) ∧
  (∀ cl core s, (clusterAt s cl).passOn = false → beaconQueue s cl = some core → let refs := (waitingEntries s core).take (min 2 (320 - (clusterAt s cl).beacon.length))
    ∃ t, exec (.beaconTake cl) s = .next t ∧ t.mem = s.mem ∧ t.groups = s.groups ∧ (clusterAt t cl).beacon = (clusterAt s cl).beacon ++ refs ∧
      (clusterAt t (core / 16)).rr = (core + 1) % 16) ∧
  (∀ core entry cl s, entry < 512 → beaconHolder s (core * 512 + entry) = some cl → let ref := core * 512 + entry
    (GroupEntry s ref → ∃ t, exec (.beaconComplete core entry true) s = .next t ∧ Resolved s t ref ∧
      (clusterAt t cl).beacon = (clusterAt s cl).beacon.filter fun r => r ≠ ref) ∧
    (∀ e w u, entryAt s ref = some e → e.grp = engineGrp → e.kind = 2 → e.op2 = 0 → contribBehind s ref false = false →
      let s1 := setEntry (setClusterAt s cl { clusterAt s cl with beacon := (clusterAt s cl).beacon.filter fun r => r != ref }) ref none
      entryWord s1 e = some w → applyWindow s1 e = .ok u →
      exec (.beaconComplete core entry true) s = .next u ∧ laCls (laAt u e.gang e.blk e.eidx) = 1) ∧
    (contribBehind s ref true = false → ∃ t, exec (.beaconComplete core entry false) s = .next t ∧ t.groups = s.groups ∧ t.mem = s.mem ∧
      (clusterAt t cl).lantern = (clusterAt s cl).lantern ++ [ref] ∧ (clusterAt t cl).beacon = (clusterAt s cl).beacon.filter fun r => r ≠ ref)) ∧
  (∀ cl s, (clusterAt s cl).passOn = false → (clusterAt s cl).inStage = none → (clusterAt s cl).lantern ≠ [] →
    ∃ t r, exec (.lanternTake cl) s = .next t ∧ r ∈ (clusterAt s cl).lantern ∧ (clusterAt t cl).inStage = some r ∧
      (clusterAt t cl).lantern = (clusterAt s cl).lantern.filter (fun x => x ≠ r) ∧ t.groups = s.groups ∧ t.mem = s.mem) ∧
  (∀ cl r s, (clusterAt s cl).inStage = some r → GroupEntry s r →
    ∃ t, exec (.lanternComplete cl) s = .next t ∧ (clusterAt t cl).inStage = none ∧ Resolved s t r)

/-! ## Events -/

/-- R254, R390: the waiters of a completed phase are released; the oldest waiting record of an event queue enters it when there is room; the end of a page
walk changes no state (the model's choice, log entry 4). R257, R418: a commit empties the store buffer; one that finds an error with the window open takes
the gang away, to be placed again (that the error is met at the first line is the model's, log entry 51). R407, R417, R422, R424: pending work starts the
handler group with its record in s0 to s15, the save slot's address and the reason; a gang that has drained for too long is saved; a saved gang leaves its
cores. -/
def Obligations.GangEvents : Prop :=
  (∀ gang blk b s, (barAt s gang blk b).rel < (barAt s gang blk b).gen → ∃ t, exec (.barrierRelease gang blk b) s = .next t ∧
    barAt t gang blk b = { barAt s gang blk b with rel := (barAt s gang blk b).gen } ∧ t.mem = s.mem ∧ t.groups = s.groups) ∧
  (∀ gang blk p r rest s, (blockAt s gang blk).posts = (p, r) :: rest → (blockAt s gang blk).events.length < 64 →
    exec (.eventPost gang blk) s = .next (setBlockAt s gang blk
      { blockAt s gang blk with events := (blockAt s gang blk).events ++ [r], posts := rest })) ∧
  (∀ gang blk grp s, exec (.pageWalkEnd gang blk grp) s = .next s) ∧
  (∀ gang s, (gangAt s gang).phase ≠ .vacant → (gangAt s gang).phase ≠ .removed →
    exec (.commit gang false) s = .next (commitGang s gang)) ∧
  (∀ gang line l rest s, (gangAt s gang).phase ≠ .vacant → (gangAt s gang).phase ≠ .removed → (gangAt s gang).store = (line, some l) :: rest →
    (gangAt s gang).window = true → ∃ t, exec (.commit gang true) s = .next t ∧ gangAt t gang = Gang.vacant ∧
      (taskAt t (gangAt s gang).task).stats.get .unplaced (gangIndexOf s gang) = .unplaced) ∧
  (∀ gang w rest s, (gangAt s gang).busy = none → (gangAt s gang).work = w :: rest → (gangAt s gang).phase = .running → w.reason = 0 →
    workOpen s gang w = true → w.at_ < s.now → w.words.length = 16 → let l := (taskAt s (gangAt s gang).task).lpb
    ∃ t, exec (.handlerStart gang) s = .next t ∧ (gangAt t gang).busy = some w ∧ (gangAt t gang).work = rest ∧ t.mem = s.mem ∧
      let h := groupAt t gang handlerBlk 0
      h.st = .running ∧ h.handler = true ∧ h.pc = 1 ∧ (∀ k, k < 16 → w.words[k]? = some (readS h k)) ∧
      (readPair h 16).toNat = saveBase l (gangAt s gang).slot % 2 ^ 64 ∧ readS h 18 = 0) ∧
  (∀ gang s, (gangAt s gang).phase = .running → (gangAt s gang).removal = .drain → (taskAt s (gangAt s gang).task).lpb.pclass ≠ 2 →
    (gangAt s gang).removalAt + s.mgmt.pdlim * 1024 ≤ s.now → s.mgmt.saveent ≠ 0 → s.mgmt.restent ≠ 0 →
    ∃ t, exec (.drainLimit gang) s = .next t ∧ (gangAt t gang).phase = .saving ∧ (gangAt t gang).savePoint = true) ∧
  (∀ gang s, (gangAt s gang).phase = .saved → ∃ t, exec (.saveComplete gang) s = .next t ∧ (gangAt t gang).phase = .removed ∧
    (gangAt t gang).store = [] ∧ (gangAt t gang).savedOn = (gangAt s gang).cluster + 1 ∧
    (taskAt t (gangAt s gang).task).stats.get .unplaced (gangIndexOf s gang) = .saved)

/-- R302 to R304, R307, R314, R444, R445: the last element of a TCOPY that passes its checks is read at the cluster cache and put into its handle; a record
with nothing left is freed; an iteration of TCOPYL takes its free stage, and makes it FULL when its bytes have landed. An announce that meets a waiting
receive is granted with the receive's length, one that meets none is kept; a grant starts the oldest announced send, data reach the oldest granted receive, a
completion ends the oldest granted send. A port that becomes inactive loses its announces, and one that becomes active takes messages again. The grant's flit
type 0xE1 is the model's (log entry 39), and so are the loss of announced sends and the order behind a waiting message (log entries 55 and 121). -/
def Obligations.CopyAndPeerEvents : Prop :=
  (∀ gang blk k r a s1 s0, let s := atBlock s0 gang blk
    recAt s k = some r → r.stuck = false → r.loop = none → r.op = 0x15 → r.count = r.prog + 1 → (curTnd s).st = .running →
    let z := descrSize (curTask s) r.desc
    let off := ((r.args[0]?).getD 0).toNat + r.prog * z
    writeBehind s r.seq (elemFoot s r r.prog) = false →
    checkOne s .read .read false (elemAddr r.desc z (r.args.drop 1) r.prog) z z = .ok (a, s1) → a.host = false → poisoned s1 a.pa = false →
    tenderRoom s1 1 = true →
    ∃ u, exec (.copyWordComplete gang blk k) s0 = .next (setRec (fillHandle u blk (dHnd r.desc) (dDswz r.desc) off
        ((List.range z).map fun j => clusterByte s1 (curCore s / 16) (a.pa + j))) k (some { r with prog := r.count })) ∧
      u.mem = (clusterFill s1 (curCore s / 16) (lineOf a.pa)).mem ∧ u.groups = s.groups ∧ u.blocks = s.blocks ∧ u.cur = s.cur) ∧
  (∀ gang blk k r s0, let s := atBlock s0 gang blk
    recAt s k = some r → r.stuck = false → r.loop = none → r.prog = r.count → r.ended = 2 → (∀ b, (blockAt s gang b).posts = []) →
    (curTnd s).st = .running → exec (.copyWordComplete gang blk k) s0 = .next (setRec s k none)) ∧
  (∀ gang blk k r l s0, let s := atBlock s0 gang blk
    recAt s k = some r → r.stuck = false → r.loop = some l → (curTnd s).st = .running →
    let h := dHnd r.desc + l.next % l.ring
    let e := handleAt (curBlock s) h
    (l.next < l.n → ringBehind (curTnd s) r l = false → hState e = 0 → inMask (hProd e) .tender = true → canMove s gang blk h = true →
      bufferFault e .write r.dn 0 (descrBytes (curTask s) r.desc) 1 (dDswz r.desc) = none →
      ∃ e', exec (.tcopylIteration gang blk k) s0 = .next (setRec (moveHandle s gang blk h e') k
        (some { r with loop := some { l with next := l.next + 1, live := l.live ++ [(l.next, 0)] } })) ∧ hState e' = 1) ∧
    (∀ j p rest, l.live = (j, p) :: rest → r.count ≤ p → iterStart s gang blk r l = .wait → let hj := dHnd r.desc + j % l.ring
      hState (handleAt (curBlock s) hj) = 1 → inMask (hProd (handleAt (curBlock s) hj)) .tender = true → canMove s gang blk hj = true →
      writesLeft s gang blk hj r.seq = false →
      ∃ e', exec (.tcopylIteration gang blk k) s0 = .next (setRec (moveHandle s gang blk hj e') k
        (some { r with loop := some { l with live := rest } })) ∧ hState e' = 2) ∧
    (l.n ≤ l.next → l.live = [] → exec (.copyWordComplete gang blk k) s0 = .next (setRec s k none))) ∧
  (∀ port chan len s, let p := portAt s port.toNat
    p.inactive = false → (∀ m ∈ p.announced, m.chan ≠ chan.toNat) →
    ((∀ m ∈ p.recvs, m.chan = chan.toNat → m.granted = true) → exec (.announce port chan len) s = .next (setPortAt s port.toNat
      { p with announced := p.announced ++ [⟨chan.toNat, len.toNat, [], 0, 0, 0, true, false, 0, false⟩] })) ∧
    (∀ r, p.recvs.find? (fun m => m.chan == chan.toNat && !m.granted) = some r → r.announced = true → peerReady s r = true →
      ∃ t, exec (.announce port chan len) s = .next t ∧ t.outbox = s.outbox ++ [⟨0xE1, 0, port.toNat, chan.toNat, r.len, []⟩] ∧
        (portAt t port.toNat).announced = p.announced ∧ { r with granted := true, len := min len.toNat r.len } ∈ (portAt t port.toNat).recvs)) ∧
  (∀ port chan len s, let p := portAt s port.toNat
    let waits (m : PeerMsg) : Bool := m.chan == chan.toNat && m.announced && !m.granted
    (p.sends.find? waits = none → exec (.grant port chan len) s = .next s) ∧
    (∀ m, p.sends.find? waits = some m → let m1 := { m with granted := true, len := min m.len len.toNat, done := 0, data := [], sent := false }
      exec (.grant port chan len) s = .next (runMsg (setPortAt s port.toNat { p with sends := changeFirst waits (fun _ => some m1) p.sends }) m1))) ∧
  (∀ port chan data s, let p := portAt s port.toNat
    let mine (m : PeerMsg) : Bool := m.chan == chan.toNat && m.granted && decide (m.done + m.data.length < m.len)
    (p.recvs.find? mine = none → exec (.peerData port chan data) s = .next s) ∧
    (∀ m, p.recvs.find? mine = some m → ∃ m1, exec (.peerData port chan data) s =
        .next (runMsg (setPortAt s port.toNat { p with recvs := changeFirst mine (fun _ => some m1) p.recvs }) m1) ∧
      m1 = { m with data := m1.data } ∧ m1.data.length = min (m.data.length + 224) (m.len - m.done) ∧
      ∀ j, m.data.length ≤ j → j < m1.data.length → m1.data[j]? = some (data.extractLsb' (8 * (j - m.data.length)) 8))) ∧
  (∀ port chan m s, (portAt s port.toNat).sends.find? (fun m => m.chan == chan.toNat && m.sent) = some m →
    let s1 := atBlock s m.gang m.blk
    (∀ r, recAt s1 m.rec_ = some r → exec (.peerCompletion port chan) s = .next (completeMsg s1 m.rec_ r m)) ∧
    (recAt s1 m.rec_ = none → exec (.peerCompletion port chan) s =
      .next (setPortAt s port.toNat { portAt s port.toNat with sends := (portAt s port.toNat).sends.erase m }))) ∧
  (∀ port s, let p := portAt s port.toNat
    (p.inactive = true → exec (.portInactive port) s = .next s) ∧
    (p.inactive = false → exec (.portInactive port) s = .next ((p.sends.filter PeerMsg.announced ++ p.recvs.filter PeerMsg.granted).foldl loseMsg
      (setPortAt s port.toNat { p with inactive := true, announced := [] }))) ∧
    exec (.portActive port) s = .next (setPortAt s port.toNat { p with inactive := false }))

/-- R306, R308, R310 to R314, R350, R353, R359, R445: what the last element, or row, of a copy word moves in device memory. TSTORE and TSCAT write the
handle's bytes at their global addresses; TGATH fills the handle with the row its index names; TKVR and TKVW move a row as it is stored, with its scale,
and TKVW raises `FILL`; TCVT writes RoundTo of the source element and ORs its flags into TFLAGS; TRED replaces the element by the exact sum rounded once,
with dither index e mod 32 (the model's choice, log entry 143); TMCAST fills the handle in every block of the mask. TSEND sends the box's first
min(Ls, Lr) bytes in flits of at most 224 bytes, type 0xE2 (log entry 39); TRECV writes what has come, and sends the completion, type 0xE3, once no message
is ahead of it. A row stands in its handle with its scale byte behind it (log entry 36). -/
def Obligations.CopyElements : Prop :=
  (∀ gang blk k r a s1 s0, let s := atBlock s0 gang blk
    LastElement k r s → r.op = 0x16 → let z := sizeOf1 s r
    checkOne s .write .write false (elemAddr r.desc z (r.args.drop 1) r.prog) z z = .ok (a, s1) → a.host = false → tenderRoom s1 1 = true →
    ∃ t, exec (.copyWordComplete gang blk k) s0 = .next (performed t k r) ∧ t.blocks = s.blocks ∧ (curGang t).window = false ∧
      Stored s1 t z [a] fun _ o => sideByte s blk (dHnd r.desc) (dDswz r.desc) (argOf r 0 + r.prog * z + o)) ∧
  (∀ gang blk k r as s1 s0, let s := atBlock s0 gang blk
    LastElement k r s → r.op = 0x18 → let z := sizeOf1 s r
    globalElems .read .read z (rowOf s r) [] s = .ok (as, s1) → Plain s1 as → tenderRoom s1 1 = true →
    ∃ t, exec (.copyWordComplete gang blk k) s0 = .next (performed t k r) ∧ t.mem = s.mem ∧
      Filled s t blk (dHnd r.desc) (dDswz r.desc) (r.prog * (z * dBox r.desc 0)) (globalBytes s1 z as)) ∧
  (∀ gang blk k r as s1 s0, let s := atBlock s0 gang blk
    LastElement k r s → r.op = 0x19 → let z := sizeOf1 s r
    globalElems .write .write z (rowOf s r) [] s = .ok (as, s1) → (∀ a ∈ as, a.host = false) → tenderRoom s1 1 = true →
    ∃ t, exec (.copyWordComplete gang blk k) s0 = .next (performed t k r) ∧ t.blocks = s.blocks ∧
      Stored s1 t z as fun j o => sideByte s blk (dHnd r.desc) (dDswz r.desc) (r.prog * (z * dBox r.desc 0) + j * z + o)) ∧
  (∀ gang blk k r d b s1 bs sc s0, let s := atBlock s0 gang blk
    let q := rowAt d (argOf r 0) (argOf r 1 + r.prog)
    LastElement k r s → r.op = 0x1A → kvDesc s (curTask s) (curLpb s).kvdesc = .ok d → RowsInRange d (argOf r 0) (argOf r 1) r.count →
    r.count * (d.rb + 1) ≤ hExt (handleAt (curBlock s) (dHnd r.desc)) → tenderRoom s 1 = true → kvBlock s (curCore s / 16) d q.key false = .ok (b, s1) →
    kvBytes s1 d.asid (rowByteAt d b q.row) d.rb = .ok bs → kvBytes s1 d.asid (scaleByteAt d b q.row) 1 = .ok sc →
    ∃ t, exec (.copyWordComplete gang blk k) s0 = .next (performed t k (kvSized s r)) ∧ t.mem = s.mem ∧
      Filled s t blk (dHnd r.desc) (dDswz r.desc) (r.prog * (d.rb + 1)) (bs ++ sc)) ∧
  (∀ gang blk k r d b s1 ps s0, let s := atBlock s0 gang blk
    let q := rowAt d (argOf r 0) (argOf r 1 + r.prog)
    let row := (List.range (d.rb + 1)).map fun j => sideByte s blk (dHnd r.desc) (dDswz r.desc) (r.prog * (d.rb + 1) + j)
    LastElement k r s → r.op = 0x1B → kvDesc s (curTask s) (curLpb s).kvdesc = .ok d → RowsInRange d (argOf r 0) (argOf r 1) r.count →
    r.count * (d.rb + 1) ≤ hExt (handleAt (curBlock s) (dHnd r.desc)) → tenderRoom s 1 = true → kvBlock s (curCore s / 16) d q.key true = .ok (b, s1) →
    kvPas s1 d.asid true (rowByteAt d b q.row) d.rb = .ok ps → ps.Nodup → (∃ c, kvPas s1 d.asid true (scaleByteAt d b q.row) 1 = .ok c) →
    ∃ u1 u2 t, exec (.copyWordComplete gang blk k) s0 = .next (performed t k (kvSized s r)) ∧ (curGang t).window = false ∧
      Landed s1 u1 ps (row.take d.rb) ∧
      (∀ c, kvPas u1 d.asid true (scaleByteAt d b q.row) 1 = .ok [c] → Landed u1 u2 [c] (row.drop d.rb)) ∧
      (fillAt u2 d b = none → t.mem = u2.mem) ∧
      ∀ f, fillAt u2 d b = some f → f + 2 ≤ memSize → memNat t f 2 = max (memNat u2 f 2) (q.token + 1) ∧
        ∀ p, p < f ∨ f + 2 ≤ p → memByte t p = memByte u2 p) ∧
  (∀ gang blk k r s0, let s := atBlock s0 gang blk
    LastElement k r s → r.op = 0x1C → let z1 := sizeOf1 s r
    let z2 := sizeOf2 s r
    let f := descrFmt (curTask s) r.desc2
    let y := roundTo (descrFmt (curTask s) r.desc) r.rnd (r.prog % 32)
      (f.decode (sideNat s blk (dHnd r.desc2) (dDswz r.desc2) (r.prog * z2) z2 % 2 ^ f.width))
    ∃ t, exec (.copyWordComplete gang blk k) s0 = .next (performed t k r) ∧ t.mem = s.mem ∧ (curTnd t).tflags = (curTnd s).tflags ||| y.flags ∧
      Filled s t blk (dHnd r.desc) (dDswz r.desc) (r.prog * z1) (bytesOf z1 y.code)) ∧
  (∀ gang blk k r a s1 s0, let s := atBlock s0 gang blk
    LastElement k r s → r.op = 0x1D → let z1 := sizeOf1 s r
    let z2 := sizeOf2 s r
    let f := descrFmt (curTask s) r.desc
    let f2 := descrFmt (curTask s) r.desc2
    checkOne s .atomic .write true (elemAddr r.desc z1 (r.args.drop 1) r.prog) z1 z1 = .ok (a, s1) → poisoned s1 a.pa = false → tenderRoom s1 1 = true →
    let old := f.decode (natOf (globalBytes s1 z1 [a]))
    let terms := (List.range (argOf r 0)).map fun c =>
      f2.decode (sideNat s blk (dHnd r.desc2) (dDswz r.desc2) (c * (z2 * dElems r.desc2) + r.prog * z2) z2 % 2 ^ f2.width)
    ∃ t y, exec (.copyWordComplete gang blk k) s0 = .next (performed t k r) ∧ Reduces f r.rnd r.sat (r.prog % 32) (old :: terms) y ∧
      (curTnd t).tflags = (curTnd s).tflags ||| y.flags ∧ Stored s1 t z1 [a] fun _ o => BitVec.ofNat 8 (y.code / 2 ^ (8 * o))) ∧
  (∀ gang blk k r a s1 s0, let s := atBlock s0 gang blk
    LastElement k r s → r.op = 0x1E → let z := sizeOf1 s r
    checkOne s .read .read false (elemAddr r.desc z (r.args.drop 1) r.prog) z z = .ok (a, s1) → Plain s1 [a] → tenderRoom s1 1 = true →
    ∃ t, exec (.copyWordComplete gang blk k) s0 = .next (performed t k r) ∧ t.mem = s.mem ∧
      ∀ i, (i < 16 ∧ (argOf r 0).testBit i = true → Filled s t i (dHnd r.desc) (dDswz r.desc) (r.prog * z) (globalBytes s1 z [a])) ∧
        (¬ (i < 16 ∧ (argOf r 0).testBit i = true) → blockAt t gang i = blockAt s gang i)) ∧
  (∀ gang blk k r m a s1 s0, let s := atBlock s0 gang blk
    PeerTurn k r m s → r.op = 0x23 → m.sent = false → (∀ x ∈ msgsAhead s k r, x.sent = true) → let z := sizeOf1 s r
    (m.len + z - 1) / z = m.done + 1 → checkOne (setRec s k (some r)) .read .read false (elemAddr r.desc z (r.args.drop 1) m.done) z z = .ok (a, s1) → Plain s1 [a] →
    tenderRoom s1 1 = true →
    ∃ t fl, exec (.copyWordComplete gang blk k) s0 = .next t ∧ t.outbox = s.outbox ++ fl ∧ t.mem = s.mem ∧
      (∀ x ∈ fl, x = ⟨0xE2, 0, argOf r 0 % 16, m.chan, x.data.length, x.data⟩ ∧ x.data.length ≤ 224) ∧
      (∀ i x, fl[i]? = some x → i + 1 < fl.length → x.data.length = 224) ∧ fl.flatMap Flit.data = (m.data ++ globalBytes s1 z [a]).take m.len ∧
      msgOf t k r = some { m with data := [], sent := true, done := m.done + 1 }) ∧
  (∀ gang blk k r m a s1 s0, let s := atBlock s0 gang blk
    PeerTurn k r m s → r.op = 0x24 → let z := sizeOf1 s r
    let w := m.len - m.done
    let s' := setRec s k (some r)
    0 < w → w ≤ z → w ≤ m.data.length → writeBehind s' r.seq (elemFoot s' r (m.done / z)) = false →
    checkOne s' .write .write false (elemAddr r.desc z (r.args.drop 1) (m.done / z)) z z = .ok (a, s1) → a.host = false → tenderRoom s1 1 = true →
    ∃ t, exec (.copyWordComplete gang blk k) s0 = .next t ∧ Stored s1 t w [a] (fun _ o => (m.data[o]?).getD 0) ∧
      (msgsAhead s k r = [] → t.outbox = s.outbox ++ [⟨0xE3, 0, argOf r 0 % 16, m.chan, m.len, []⟩] ∧
        recAt t k = some { r with prog := r.count, moved := m.len }) ∧
      (msgsAhead s k r ≠ [] → t.outbox = s.outbox ∧ msgOf t k r = some { m with data := m.data.drop w, done := m.len }))

/-- R43, R414, R415, R438 to R442: the flits of the host link. HREAD is answered with the bytes of memory, HWRITE writes the enabled bytes and no other, at
an address below 2^48; a response of the host takes its access off the list, with a load's or an atomic's value put into its flight; each ring by itself asks
for its counts, writes its oldest record unless it is full, advances its count once the record is written, and interrupts once the count is; a reply resumes
its stream or fails the task; a flit with an illegal field, a physical address of 2^48 or more among them (log entry 102), is counted and changes nothing
else. The model's own: a read of no byte, or beyond its line, is discarded (log entry 18); the ring stands in host memory and is reached by SREAD and SWRITE
(35); a byte at or above 576 GB takes nothing (122). -/
def Obligations.HostLink : Prop :=
  (∀ ty s, exec (.discardedFlit ty) s = .next (discards s)) ∧
  (∀ tag flen faddr s, let pa := faddr.toNat
    (2 ^ 48 ≤ pa ∨ flen = 0 ∨ 128 < pa % 128 + flen.toNat → exec (.hread tag flen faddr) s = .next (discards s)) ∧
    (pa < 2 ^ 48 → flen ≠ 0 → pa % 128 + flen.toNat ≤ 128 → ∃ f, exec (.hread tag flen faddr) s = .next (sends s f) ∧
      f.ftype = 0x81 ∧ f.tag = tag.toNat ∧ (f.stat = 0 ↔ poisoned s pa = false) ∧
      ∀ k, k < flen.toNat → f.data[pa % 128 + k]? = some (memByte s (pa + k)))) ∧
  (∀ faddr data mask s, (2 ^ 48 ≤ faddr.toNat → exec (.hwrite faddr data mask) s = .next (discards s)) ∧
    (faddr.toNat < 2 ^ 48 → ∃ t, exec (.hwrite faddr data mask) s = .next t ∧ t.blocks = s.blocks ∧ t.gangs = s.gangs ∧ t.mgmt = s.mgmt ∧
      ∀ a, memByte t a = if a / 128 = faddr.toNat / 128 ∧ a < 576 * 10 ^ 9 ∧ mask.getLsbD (a % 128) = true then data.extractLsb' (8 * (a % 128)) 8 else memByte s a)) ∧
  (∀ flen s, (flen.toNat < 64 → exec (.notify flen) s = .next (notifyQueue s flen.toNat)) ∧
    (64 ≤ flen.toNat → exec (.notify flen) s = .next (discards s))) ∧
  (∀ tag flen faddr s, flen.toNat < 2 ^ 18 → flen.toNat / 65536 ≠ 3 → faddr.toNat % 4096 = 0 → faddr.toNat < 2 ^ 52 →
    exec (.tinv tag flen faddr) s = .next { s with tinvs := s.tinvs ++ [(flen, faddr.toNat, tag.toNat + 1)] }) ∧
  (∀ tag data a s, accessOf s tag = some a → a.kind = 0 → a.strm = 0 → ∃ t, exec (.srdata tag data) s = .next t ∧
    t.hostAccs = s.hostAccs.filter (fun x => x ≠ a) ∧ t.mem = s.mem ∧
    let x := natOf ((List.range a.len).map fun k => data.extractLsb' (8 * ((a.addr + k) % 128)) 8)
    ∀ f ∈ (groupAt s a.gang a.blk a.grp).flights, f.id = a.flight → ∃ h ∈ (groupAt t a.gang a.blk a.grp).flights, h.id = f.id ∧
      ∀ w ∈ loadWrites a.etype a.reg a.lane x, w ∈ h.ws) ∧
  (∀ tag data a s, accessOf s tag = some a → a.kind = 5 → exec (.srdata tag data) s = .next { s with hostAccs := s.hostAccs.map fun x =>
    if x = a then { a with got := some ((List.range a.len).map fun k => data.extractLsb' (8 * ((a.addr + k) % 128)) 8) } else x }) ∧
  (∀ tag a s, accessOf s tag = some a → a.kind = 1 → exec (.swack tag) s = .next { s with hostAccs := s.hostAccs.filter fun x => x ≠ a }) ∧
  (∀ tag stat old a s, accessOf s tag = some a →
    (a.kind = 3 → exec (.sares tag stat old) s = .next { s with hostAccs := s.hostAccs.filter fun x => x ≠ a }) ∧
    (a.kind = 2 → a.strm = 0 → ∃ t, exec (.sares tag stat old) s = .next t ∧ t.hostAccs = s.hostAccs.filter (fun x => x ≠ a) ∧ t.mem = s.mem ∧
      ∀ f ∈ (groupAt s a.gang a.blk a.grp).flights, f.id = a.flight → ∃ h ∈ (groupAt t a.gang a.blk a.grp).flights, h.id = f.id ∧
        ∀ w ∈ loadWrites a.etype a.reg a.lane (if stat = 0 then old.toNat % 2 ^ (8 * a.len) else 0), w ∈ h.ws)) ∧
  (∀ tag data stat old s, accessOf s tag = none → exec (.srdata tag data) s = .next s ∧ exec (.swack tag) s = .next s ∧
    exec (.sares tag stat old) s = .next s) ∧
  (∀ s, exec .hostCallRecord s = .next ((ringsOf s).foldl ringStep s)) ∧
  (∀ ring s, s.rings.get .idle ring = .idle → let t := ringStep s ring
    (nextCall s ring = none → t = s) ∧
    (∀ c, nextCall s ring = some c → deviceAccAt s 5 ring = none → Requested s t 0xA0 5 ring 8 ∧ t.calls = s.calls ∧ t.mem = s.mem) ∧
    (∀ c a bs, nextCall s ring = some c → deviceAccAt s 5 ring = some a → a.got = some bs → c.words.length = 16 →
      let wr := natOf (bs.take 4)
      let rd := natOf ((bs.drop 4).take 4)
      let s1 := { s with hostAccs := s.hostAccs.filter fun x => x ≠ a }
      (2 ^ c.log ≤ (wr + 2 ^ 32 - rd) % 2 ^ 32 → t = s1) ∧
      ((wr + 2 ^ 32 - rd) % 2 ^ 32 < 2 ^ c.log → Requested s1 t 0xA1 1 (ring + 64 * (1 + wr % 2 ^ c.log)) 64 ∧
        t.rings.get .idle ring = .record c wr ∧ t.calls = s.calls ∧ t.mem = s.mem))) ∧
  (∀ ring c m s, s.rings.get .idle ring = .record c m → deviceAccAt s 1 (ring + 64 * (1 + m % 2 ^ c.log)) = none → nextCall s ring = some c →
    let t := ringStep s ring
    Requested s t 0xA1 1 ring 4 ∧ t.rings.get .idle ring = .count ∧ t.mem = s.mem ∧
    (c.strm ≠ 3 ∨ c.allStop = true → { c with num := some m } ∈ t.calls) ∧
    (c.strm = 0 → (groupAt s c.gang c.blk c.grp).called = true → (groupAt t c.gang c.blk c.grp).st = .trap)) ∧
  (∀ ring s, s.rings.get .idle ring = .count →
    (deviceAccAt s 1 ring ≠ none → ringStep s ring = s) ∧
    (deviceAccAt s 1 ring = none → (ringStep s ring).outbox = s.outbox ++ [⟨0x90, 0, 0, 1, ring, []⟩] ∧
      (ringStep s ring).rings.get .idle ring = .idle ∧ (ringStep s ring).calls = s.calls)) ∧
  (∀ faddr p c s, (p.extractLsb' 41 23 = 0 ∧ p.extractLsb' 64 192 = 0) →
    callOf s faddr.toNat (p.extractLsb' 0 32).toNat = some c →
    (p.extractLsb' 40 1 = 1 → exec (.reply faddr p) s =
      .next (failTask s (gangAt s c.gang).task 4 (((c.words[0]?).getD 0).toNat / 2 ^ 24) c.words)) ∧
    (p.extractLsb' 40 1 = 0 → (gangAt s c.gang).phase = .running → (gangAt s c.gang).allStop = false → c.strm = 0 → c.allStop = false →
      let g := landAt s.now (groupAt s c.gang c.blk c.grp)
      ∃ t, exec (.reply faddr p) s = .next t ∧ t.calls = s.calls.erase c ∧ t.mem = s.mem ∧ let h := groupAt t c.gang c.blk c.grp
        h.st = .running ∧ h.pc = (if g.resume.toNat % 8 = 0 then g.resume + 1 else g.resume) ∧ ∀ n, readS h n = if n < 8 ∧ p.getLsbD (32 + n) = true then p.extractLsb' (256 + 32 * n) 32 else readS g n)) ∧
  (∀ faddr p s, callOf s faddr.toNat (p.extractLsb' 0 32).toNat = none → exec (.reply faddr p) s = .next (discards s)) ∧
  (∀ flen faddr s, let q := flen.toNat
    let n := faddr.toNat
    (64 ≤ q ∨ 2 ^ 32 ≤ n → exec (.cancel flen faddr) s = .next (discards s)) ∧
    (∀ k, q < 64 → n < 2 ^ 32 → taskNamed s q n = some k → exec (.cancel flen faddr) s = .next (failTask s k 7 0 [])) ∧
    (q < 64 → n < 2 ^ 32 → taskNamed s q n = none → (n + 2 ^ 32 - (readQueue s q).head) % 2 ^ 32 < 2 ^ 31 → n ∉ (queueView s q).cancelled →
      exec (.cancel flen faddr) s = .next (setQueueView s q { queueView s q with cancelled := (queueView s q).cancelled ++ [n] })))

/-- R421, R459, R460, R462 to R464: a management write of a legal value sets its register and a read answers with it; a refused access answers with status 1
and changes nothing, TQBASE while a queue is enabled and MNONCE0 to MNONCE3 while a report is being made; before the device is ready only MSTATE is read.
Bases are taken at any alignment (the model's choice, log entry 19). The attestation report holds its magic number, the nonce, the digests and versions of
the images that bring-up has loaded and the identity key's signature of the SHA3-256 digest of its other bytes, and clears busy; that a signature is a
function of the key pair and the digest, which every check accepts, is the model's (log entry 24). Bring-up leaves a ready device, which runs the images of
the flash, with a class 6 interrupt, and memory that reads as at reset (the model's choice, log entries 1 and 48), or a failed one with the step, which is
step 2 when an image's key is not the one whose digest is fused, its signature is wrong or it is older than the fused minimum (how an image carries them:
log entry 133); a failed device runs nothing; a module outside its limits does not start, and one that has stopped sends no second interrupt; the power and
temperature events change only what they name. -/
def Obligations.Management : Prop :=
  (∀ tag flen v off r s, flen.toNat = off → mgmtReg off = some r ∨ mgmtIdleReg off = some r → s.mgmt.mstate = 2 →
    exec (.mgmtWrite tag flen v) s = .next (sends s (answer tag 0 flen (r.get s.mgmt)))) ∧
  (∀ tag flen v off r s, flen.toNat = 0x1000 + off → mgmtReg off = some r → s.mgmt.mstate = 2 →
    (r.ok v.toNat → exec (.mgmtWrite tag flen v) s = .next (sends { s with mgmt := r.put s.mgmt v.toNat } (answer tag 0 flen 0))) ∧
    (¬ r.ok v.toNat → exec (.mgmtWrite tag flen v) s = .next (sends s (answer tag 1 flen 0)))) ∧
  (∀ tag flen v off r s, flen.toNat = 0x1000 + off → mgmtIdleReg off = some r → s.mgmt.mstate = 2 → exec (.mgmtWrite tag flen v) s = .next
    (if ∃ e ∈ s.tasks, e.2.active = true then sends s (answer tag 1 flen 0)
      else sends { s with mgmt := r.put s.mgmt v.toNat } (answer tag 0 flen 0))) ∧
  (∀ tag flen v s, s.mgmt.mstate ≠ 2 → exec (.mgmtWrite tag flen v) s = .next (sends s
    (if flen = 0 then answer tag 0 flen s.mgmt.mstate else answer tag 1 flen 0))) ∧
  (∀ tag flen v s, flen = 0x1010 → s.mgmt.mstate = 2 →
    ((∃ q, q < 64 ∧ (readQueue s q).enabled = true) → exec (.mgmtWrite tag flen v) s = .next (sends s (answer tag 1 flen 0))) ∧
    ((∀ q, q < 64 → (readQueue s q).enabled = false) → exec (.mgmtWrite tag flen v) s =
      .next (sends { s with mgmt := { s.mgmt with tqbase := v.toNat } } (answer tag 0 flen 0)))) ∧
  (∀ tag flen v k s, k < 4 → flen.toNat = 0x1100 + 8 * k → s.mgmt.mstate = 2 →
    (s.mgmt.mattbusy = true → exec (.mgmtWrite tag flen v) s = .next (sends s (answer tag 1 flen 0))) ∧
    (s.mgmt.mattbusy = false → s.mgmt.mnonce.length = 8 → ∃ l, exec (.mgmtWrite tag flen v) s =
        .next (sends { s with mgmt := { s.mgmt with mnonce := l } } (answer tag 0 flen 0)) ∧
      ∀ j : Nat, l[j]? = if j = 2 * k then some (v.extractLsb' 0 32) else if j = 2 * k + 1 then some (v.extractLsb' 32 32) else s.mgmt.mnonce[j]?)) ∧
  (∀ tag v s, exec (.mremove tag v) s = exec (.mgmtWrite tag 0x10A0 v) s ∧ exec (.mattcmd tag v) s = exec (.mgmtWrite tag 0x10F8 v) s) ∧
  (∀ tag v s, s.mgmt.mstate = 2 → v.toNat < 2 ^ 28 → taskNamed s (s.mgmt.mrtask % 64) (s.mgmt.mrtask / 2 ^ 32) = none →
    exec (.mremove tag v) s = .next (sends s (answer tag 0 0x10A0 0))) ∧
  (∀ tag v k g s, s.mgmt.mstate = 2 → v.toNat < 2 ^ 28 → taskNamed s (s.mgmt.mrtask % 64) (s.mgmt.mrtask / 2 ^ 32) = some k →
    gangNamed s k v.toNat = some g → (gangAt s g).phase = .running →
    exec (.mremove tag v) s = .next (sends (removeRunning s g 0 s.now) (answer tag 0 0x10A0 0))) ∧
  (∀ tag s, s.mgmt.mstate = 2 → s.mgmt.mattbusy = false →
    exec (.mattcmd tag 1) s = .next (sends { s with mgmt := { s.mgmt with mattbusy := true } } (answer tag 0 0x10F8 0))) ∧
  (∀ s, (s.mgmt.mattbusy = false → exec .attestationReport s = .next s) ∧
    (s.mgmt.mattbusy = true → s.mgmt.mnonce.length = 8 → s.mgmt.mattaddr + 2532 ≤ 576 * 10 ^ 9 → ∃ t, exec .attestationReport s = .next t ∧
      t.mgmt = { s.mgmt with mattbusy := false } ∧ memNat t s.mgmt.mattaddr 4 = 0x41545331 ∧ memNat t (s.mgmt.mattaddr + 4) 4 = 1 ∧
      (∀ k, k < 8 → (s.mgmt.mnonce[k]?).map BitVec.toNat = some (memNat t (s.mgmt.mattaddr + 8 + 4 * k) 4)) ∧
      memNat t (s.mgmt.mattaddr + 0x28) 32 = (sha3 s.boot.ranFw.bytes).toNat ∧ memNat t (s.mgmt.mattaddr + 0x48) 32 = (sha3 s.boot.ranMc.bytes).toNat ∧
      memNat t (s.mgmt.mattaddr + 0x68) 2 = s.boot.ranFw.version.toNat ∧ memNat t (s.mgmt.mattaddr + 0x6A) 2 = s.boot.ranMc.version.toNat ∧
      (∀ j, j < 2420 → memByte t (s.mgmt.mattaddr + 0x70 + j) =
        Config.signatureByte Config.identityKey (sha3 ((List.range 0x70).map fun k => memByte t (s.mgmt.mattaddr + k))) j) ∧
      ∀ a, a < s.mgmt.mattaddr ∨ s.mgmt.mattaddr + 2532 ≤ a → memByte t a = memByte s a)) ∧
  (∀ k s, s.boot.outside = false → k.toNat ≤ 5 →
    let taken (x : Image) : Prop :=
      keyDigest x.key = fusedKeyDigest ∧ signatureOk x.key (sha3 x.bytes) x.sig = true ∧ s.boot.minVersion.toNat ≤ x.version.toNat
    ∃ t, exec (.powerGood k) s = .next t ∧ t.mem = [] ∧ t.groups = [] ∧ t.blocks = [] ∧ t.gangs = [] ∧ t.tasks = [] ∧
    (k = 0 → taken s.boot.fw → taken s.boot.mc → t.mgmt.mstate = 2 ∧ t.mgmt.mfail = 0 ∧
      t.boot = { s.boot with ranFw := s.boot.fw, ranMc := s.boot.mc } ∧ t.outbox = s.outbox ++ [⟨0x90, 0, 0, 6, 0, []⟩]) ∧
    (k ≠ 0 → (k = 1 ∨ (taken s.boot.fw ∧ taken s.boot.mc)) → t.mgmt.mstate = 3 ∧ t.mgmt.mfail = k.toNat ∧ t.boot = s.boot) ∧
    (k ≠ 1 → ¬ (taken s.boot.fw ∧ taken s.boot.mc) → t.mgmt.mstate = 3 ∧ t.mgmt.mfail = 2 ∧ t.boot = s.boot)) ∧
  (∀ key digest j, j < 2420 → (keySignature key digest)[j]? = some (Config.signatureByte key digest j)) ∧
  (∀ key digest, signatureOk key digest (keySignature key digest) = true) ∧
  (∀ k s, s.boot.outside = true → exec (.powerGood k) s = .next s) ∧
  (∀ i s, s.mgmt.mstate = 3 → wakes s i = false → i.stream = none → turnStep (.event i) s = .next s) ∧
  (∀ s, exec .powerCap s = .next { s with gaps := true } ∧ exec .averageBelowPcap s = .next { s with gaps := false } ∧
    exec .outletAbove60 s = .next { s with hot := max s.hot 1 } ∧ exec .outletBelow60 s = .next { s with hot := 0 }) ∧
  (∀ i s, (i = .outletAbove70 ∨ (i = .moduleLimitsExceeded ∧ s.mgmt.mstate = 2 ∧ s.off = false)) → ∃ t, exec i s = .next t ∧ t.off = true ∧ t.mem = s.mem ∧
    (s.mgmt.irqen / 32 % 2 = 1 → t.outbox = s.outbox ++ (List.range 16).map fun c => ⟨0x90, 0, 0, 5 + 2 * 16, c, []⟩)) ∧
  (∀ s, s.mgmt.mstate ≠ 2 ∨ s.off = true → exec .moduleLimitsExceeded s = .next { s with boot := { s.boot with outside := true }, off := true })

/-- R154, R155, R433: a failed unit is declared by a class 5 interrupt and fenced: a partition, a core, also one that counting has fenced while gangs are
left on it, a cluster, a memory channel at the next reset, a peer port to half width. R154, R336: a word that a unit compares is replayed, its group frozen
until its results are written L clocks after the replay's issue clock; a match is a transient of its unit, and a second mismatch declares the partition or
the core faulty; where nothing is compared nothing happens. R432: an event that is only counted fences its unit at the count of FWCNT within FWTIME, and
removes no gang. R419: a word that consumes an error has its gang killed, which leaves its place while its window is open, and the unit counts it. The
model's own: how REPLAY numbers its units (log entry 54) and names one of the compared words (118), that the events that count are forgotten by the clock of
the window (87), the turn that carries an error in data (105), and the unit that counts it (130). -/
def Obligations.FailedUnits : Prop :=
  (∀ unit s, unit.toNat < 256 →
    ((coreAt s unit.toNat).fenced = false ∨ gangsOfCore s unit.toNat ≠ [] →
      exec (.uncorrectableErrorInLogic 1 unit) s = .next (failCore s unit.toNat) ∧ (coreAt (failCore s unit.toNat) unit.toNat).fenced = true) ∧
    ((coreAt s unit.toNat).fenced = true → gangsOfCore s unit.toNat = [] → exec (.uncorrectableErrorInLogic 1 unit) s = .next s)) ∧
  (∀ unit s, unit.toNat < 16 → (clusterAt s unit.toNat).fenced = false → (clusterAt s unit.toNat).passOn = false →
    ∃ t, exec (.uncorrectableErrorInLogic 2 unit) s = .next t ∧ (clusterAt t unit.toNat).fenced = true) ∧
  (∀ unit s, unit.toNat < 2048 → (coreAt s (unit.toNat % 256)).fencedParts.contains (unit.toNat / 256) = false →
    ∃ t, exec (.uncorrectableErrorInLogic 0 unit) s = .next t ∧ unit.toNat / 256 ∈ (coreAt t (unit.toNat % 256)).fencedParts) ∧
  (∀ unit s, unit.toNat < 1024 → unit.toNat % 16 < 12 → (3, unit.toNat) ∉ s.declared → ∃ t, exec (.uncorrectableErrorInLogic 3 unit) s = .next t ∧ t.mem = s.mem ∧
    (3, unit.toNat) ∈ t.declared ∧ t.mgmt = { s.mgmt with hbmFaulty := s.mgmt.hbmFaulty ||| 2 ^ (unit.toNat % 16) } ∧
    (s.mgmt.irqen / 32 % 2 = 1 → t.outbox = s.outbox ++ [⟨0x90, 0, 0, 5 + 3 * 16, unit.toNat, []⟩])) ∧
  (∀ k unit s, k = 3 ∨ k = 4 → (k.toNat, unit.toNat) ∈ s.declared → exec (.uncorrectableErrorInLogic k unit) s = .next s) ∧
  (∀ unit s, unit.toNat < 128 → (4, unit.toNat) ∉ s.declared → ∃ t, exec (.uncorrectableErrorInLogic 4 unit) s = .next t ∧ t.mem = s.mem ∧
    (portAt t (unit.toNat % 16)).half = true ∧ t.mgmt = { s.mgmt with fnpeer := s.mgmt.fnpeer ||| 2 ^ (unit.toNat % 16) }) ∧
  (∀ core unit s, core < 256 → unit < 16 → let part := unit % 8
    let k := unit / 8 * 2 ^ 20 + core + part * 256
    let l := eventsAfter s k
    let compared := comparedWords s core part (unit / 8 == 1)
    (∀ word matched, compared.length ≤ word → exec (.replay core (unit, word) matched) s = .next s) ∧
    ∀ w word, compared[word]? = some w → let s1 := replayed s w
      (l.length < s.mgmt.fwcnt → exec (.replay core (unit, word) true) s = .next { s1 with unitEvents := s.unitEvents.set [] k l }) ∧
      (s.mgmt.fwcnt ≤ l.length → ∃ t, exec (.replay core (unit, word) true) s = .next t ∧ part ∈ (coreAt t core).fencedParts ∧ t.gangs = s.gangs) ∧
      (∃ t, exec (.replay core (unit, word) false) s = .next t ∧ part ∈ (coreAt t core).fencedParts)) ∧
  (∀ k p s, p ∈ (s.groups.get Group.vacant k).pend → let g := (replayed s (.pend k p)).groups.get Group.vacant k
    g.frozen = s.now + p.passes + p.lat ∧ { p with land := s.now + p.passes + p.lat } ∈ g.pend) ∧
  (∀ k f s, f ∈ (s.groups.get Group.vacant k).flights → let g := (replayed s (.flight k f)).groups.get Group.vacant k
    g.frozen = s.now + 1 + f.lat ∧ { f with due := s.now + 1 + f.lat } ∈ g.flights) ∧
  (∀ core s, core < 256 → mirrors s core = true → let k := 2 ^ 20 + 2 ^ 16 + core
    ((eventsAfter s k).length < s.mgmt.fwcnt → ∀ word, exec (.replay core (16, word) true) s = .next { setCoreAt s core
      { coreAt s core with mirror := (coreAt s core).mirror + 1 } with unitEvents := s.unitEvents.set [] k (eventsAfter s k) }) ∧
    (∀ word, ∃ t, exec (.replay core (16, word) false) s = .next t ∧ (coreAt t core).fenced = true)) ∧
  (∀ core word matched s, core < 256 → mirrors s core = false → exec (.replay core (16, word) matched) s = .next s) ∧
  (∀ core sub s, core < 256 → halted s = false → let k := sub * 2 ^ 20 + 2 ^ 16 + core
    let l := eventsAfter s k
    (l.length < s.mgmt.fwcnt → turnStep (.unitEvent 1 core sub) s = .next { s with unitEvents := s.unitEvents.set [] k l }) ∧
    (s.mgmt.fwcnt ≤ l.length → ∃ t, turnStep (.unitEvent 1 core sub) s = .next t ∧ (coreAt t core).fenced = true ∧ t.gangs = s.gangs)) ∧
  (∀ gang blk grp kind unit sub s, groupMayIssue s gang blk grp = true → s.mgmt.mstate ≠ 3 → (gangAt s gang).window = true →
    ∃ t, turnStep (.dataError 0 gang blk grp kind unit sub) s = .next t ∧ gangAt t gang = Gang.vacant ∧
      (placeExists kind unit = true → (eventsAfter s (unitKey kind unit sub)).length < s.mgmt.fwcnt →
        t.unitEvents.get [] (unitKey kind unit sub) = eventsAfter s (unitKey kind unit sub)))

/-- R22, R42 to R45, R50 to R54, R73, R77, R106, R422, R434, R435: the dispatcher. With fewer than 128 active tasks a queue of the least effective class, the
next after the one that the class served last (at first 63, the model's choice, log entry 107), gives its head task, and every waiting gang is tested for
eligibility again (of every active task, the model's reading, log entry 132); AGEING is the clock at which a class falls (77); RESERVATION reserves on the
cluster with the longest able run (where that has none, nothing: 139); a gang that a task offers is placed on the run found, in placing until its start
actions end; its streams then start; a gang whose streams have ended commits and asks for its completion actions; the gangs of a task whose actions have
ended set their bits and retire in the order in which they ended, and after each the unplaced gangs are tested for eligibility again; a task whose gangs have
retired is no longer active. R74: a line with an uncorrectable error that an edge action writes back is marked poisoned, and the task fails with code 0x32
(the mark, and which task: log entry 56). -/
def Obligations.Dispatcher : Prop :=
  (∀ s, (s.mgmt.mstate ≠ 2 ∨ 128 ≤ (s.tasks.filter fun t => t.2.active).length → exec .taskDequeue s = .next s) ∧
    (s.mgmt.mstate = 2 → (s.tasks.filter fun t => t.2.active).length < 128 →
      (chooseQueue (disableBad s) = none → exec .taskDequeue s = .next (disableBad s)) ∧
      (∀ q c, chooseQueue (disableBad s) = some (q, c) → let s1 := disableBad s
        let d := readQueue s1 q
        let n := (d.head + 1) % 2 ^ 32
        q < 64 ∧ queueReady s1 q = true ∧ effectiveClass s1 q = c ∧
        (∀ x, x < 64 → queueReady s1 x = true → c ≤ effectiveClass s1 x ∧ (effectiveClass s1 x = c → s1.served.get 63 c ≤ 63 →
          (q + 63 - s1.served.get 63 c) % 64 ≤ (x + 63 - s1.served.get 63 c) % 64)) ∧
        ∃ u, exec .taskDequeue s = .next (retest (admitTask u q d.head (d.slot d.head) ((queueView s1 q).cancelled.contains d.head)
            ((List.range 256).map fun k => memByte s1 (d.slot d.head + k)))) ∧
          u.served.get 63 c = q ∧ u.tasks = s1.tasks ∧ u.groups = s1.groups ∧ (queueDescAt s1 q + 12 ≤ memSize → memNat u (queueDescAt s1 q + 8) 4 = n) ∧
          (∀ a, a < queueDescAt s1 q + 8 ∨ queueDescAt s1 q + 12 ≤ a → memByte u a = memByte s1 a)))) ∧
  (∀ queue s, let step := s.mgmt.dage * 2 ^ 16
    let q := queue.toNat
    exec (.ageing queue) s = .next (if s.mgmt.dage ≠ 0 ∧ queueReady s q = true ∧ 1 < effectiveClass s q
      then { s with now := headSince s q + ((s.now - headSince s q) / step + 1) * step } else s)) ∧
  (∀ k rest q slot run s, tasksInOrder s = k :: rest → offered (taskAt s k) = some q → slotFor s k (indexOfSeq (taskAt s k).lpb q) = some slot →
    findRun s k q = some run → let gang := gangKeyOf k (indexOfSeq (taskAt s k).lpb q)
    ∃ t, exec .gangPlacement s = .next t ∧ (gangAt t gang).phase = .placing ∧ (gangAt t gang).task = k ∧ (gangAt t gang).seqNo = q ∧
      (gangAt t gang).cluster = run.cluster ∧ (gangAt t gang).first = run.first ∧ (gangAt t gang).slot = slot ∧ t.mem = s.mem ∧ t.groups = s.groups) ∧
  (∀ s, exec .reservation s = .next ((overdue s).foldl reserveFor s)) ∧
  (∀ k q s, (reserveCluster s k = none → reserveFor s (k, q) = s) ∧
    (∀ cl, reserveCluster s k = some cl → (reserveRun s k cl = none → reserveFor s (k, q) = s) ∧
      (∀ c, reserveRun s k cl = some c → reserveFor s (k, q) =
        setClusterAt s cl { clusterAt s cl with resv := some (c, (taskAt s k).lpb.blocks, k, q), freeing := false }) ∧
      cl < 16 ∧ (clusterAt s cl).fenced = false ∧ (clusterAt s cl).resv = none ∧
      ∀ x, x < 16 → (clusterAt s x).fenced = false → (clusterAt s x).resv = none → let a := longestAble (ableCores s k cl)
        longestAble (ableCores s k x) ≤ a ∧ (longestAble (ableCores s k x) = a → cl ≤ x))) ∧
  (∀ cl bad s, ((clusterAt s cl).edges = [] → exec (.edgeAction cl bad) s = .next s) ∧
    (∀ a rest, (clusterAt s cl).edges = a :: rest → a.kind ≤ 1 → (∀ r ∈ (taskAt s (gangAt s a.gang).task).regions, 2 < r.kind) →
      let s1 := setClusterAt s cl { clusterAt s cl with edges := rest }
      let k := (gangAt s a.gang).task
      exec (.edgeAction cl bad) s = .next (if a.kind = 0 then s1 else setTaskAt s1 k { taskAt s k with ending := (taskAt s k).ending ++ [a.gang] }))) ∧
  (∀ cl line a rest t s, (clusterAt s cl).edges = a :: rest → exec (.edgeAction cl none) s = .next t → let k := (gangAt t a.gang).task
    (clusterLine s cl line).dirty ≠ 0 → (clusterLine t cl line).dirty = 0 → (taskAt t k).active = true → (taskAt t k).failed = false →
    ∃ u, exec (.edgeAction cl (some line)) s = .next u ∧ u.poison.get 0 line = 1 ∧ (taskAt u k).failed = true ∧
      (taskAt u k).failKind = 2 ∧ (taskAt u k).failCode = 0x32) ∧
  (∀ gang s, let g := gangAt s gang
    let l := (taskAt s g.task).lpb
    g.phase = .placing → edgePending s gang = false → (taskAt s g.task).failed = false → g.savedOn = 0 → g.removal = .none →
    ∃ t, exec (.gangStart gang) s = .next t ∧ gangAt t gang = { g with phase := .running } ∧ t.mem = s.mem ∧
      (∀ b, b < l.blocks → b < 16 → (∀ k, k < (blockAt s gang b).ngroups → k < 64 →
          groupAt t gang b k = { Group.vacant with st := .running, nv := (blockAt s gang b).nv, readyAt := s.now }) ∧
        (blockAt t gang b).tnd = { Tender.idle with st := if l.tentry = 0 then .idle else .running } ∧
        (blockAt t gang b).mat = { Matrix.idle with st := if l.mentry = 0 then .idle else .running })) ∧
  (∀ gang s, (gangDone s gang = false → exec (.gangCompletion gang) s = .next s) ∧
    (gangDone s gang = true → ∃ t, exec (.gangCompletion gang) s = .next t ∧ (gangAt t gang).phase = .completing ∧ (gangAt t gang).store = [] ∧
      ⟨1, gang, false⟩ ∈ (clusterAt t (gangAt s gang).cluster).edges)) ∧
  (∀ gang s, let g := gangAt s gang
    g.phase = .completing → edgePending s gang = false →
    ((taskAt s g.task).ending.head? ≠ some gang → exec (.gangRetirement gang) s = .next s) ∧
    ((taskAt s g.task).ending.head? = some gang → (taskAt s g.task).lpb.cbmap = 0 → ∃ t, exec (.gangRetirement gang) s = .next t ∧ gangAt t gang = Gang.vacant ∧
      (taskAt t g.task).retired = (taskAt s g.task).retired + 1 ∧ (taskAt t g.task).stats.get .unplaced (gangIndexOf s gang) = .retired) ∧
    (∀ pa, (taskAt s g.task).ending.head? = some gang → (taskAt s g.task).lpb.cbmap ≠ 0 →
      let ix := gangIndexOf s gang
      translateBare s (taskAt s g.task).lpb.asid ((taskAt s g.task).lpb.cbmap + ix / 64 * 8) .write true = .ok pa →
      exec (.gangRetirement gang) s = .next (retest (releaseGang (memWriteNat s pa 8 (memNat s pa 8 ||| 2 ^ (ix % 64))) gang)))) ∧
  (∀ k q s, (retest s).mem = s.mem ∧ ((taskAt s k).active = true → (taskAt s k).deps ≠ [] → q < gangCount (taskAt s k).lpb → isOpen (taskAt s k) q = true →
    let g := gangOfSeq (taskAt s k).lpb q
    (eligibleSince (taskAt (retest s) k) q).isSome = (taskAt s k).deps.all (depMet s (taskAt s k).lpb.asid g.1 g.2))) ∧
  (∀ k s, let t := taskAt s k
    (t.active = false → exec (.taskRetirement k) s = .next s) ∧
    (t.active = true → (t.failed = true ∧ gangsOf s k = [] ∧ contribsOut s k = false) ∨
        (t.failed = false ∧ t.lpb.gridx * t.lpb.gridy ≤ t.retired ∧ t.contribs = [] ∧ contribsOut s k = false) →
      ∃ u, exec (.taskRetirement k) s = .next u ∧ (taskAt u k).active = false ∧ u.groups = (putCompletion s t.donePA (recordOf t)).groups))

/-- R18, R19, R22 to R27, R31, R436, R443: the launch checks, on the bytes of the block and of its tables. A task whose `DONE` cannot be translated for
writing sends the task-error interrupt alone; a cancelled one writes kind 7. Else the first check that fails, in the order of R22, writes kind 1 with its
code and sends the interrupt: the block's own fields, the translation of the tables, then their fields and the codes 0x04 to 0x0A. A task that passes starts
with the parameters, regions, dependences, handles and companding tables that the bytes give. R73 to R76, R80: an edge action takes the records of its gang's
task in order. A gang start takes the instance's lines out of the run's read caches, and out of the cluster cache, dirty bytes written back first, but for
the lines that R76 keeps; a gang completion writes the dirty lines of kinds 1 and 2 back and applies the hints of R75; a migration writes them back on the
old cluster, and a gang start follows on the new one. Other lines, and records of kinds 3 and 4, change nothing. -/
def Obligations.LaunchChecksAndEdgeActions : Prop :=
  (∀ s q n block cancelled b, b.length = 256 →
    let asid := natAt b 0x64 2
    let done := natAt b 0xA0 8
    let u := admitTask s q n block cancelled b
    (∀ c, done ≠ 0 → translateBare s asid done .write true = .error c → u = sendIntr s 3 q done) ∧
    ∀ pa, (done = 0 ∧ pa = none ∨ done ≠ 0 ∧ ∃ a, translateBare s asid done .write true = .ok a ∧ pa = some a) →
      (cancelled = true → u = refused s q 7 0 done pa) ∧
      (cancelled = false →
        (∀ code, FirstFails (blockChecks b) (some code) → u = refused s q 1 code done pa) ∧
        (FirstFails (blockChecks b) none →
          ((∃ t ∈ tablesOf b, Unreadable s asid t.1 (t.2.1 * t.2.2)) ∨ (∃ c ∈ curvesOf b, Unreadable s asid c.2 128) → u = refused s q 1 0x0B done pa) ∧
          ∀ hs rs ds, TableHolds s asid (natAt b 0x48 8) (natAt b 0x2F 1) 16 hs → TableHolds s asid (natAt b 0x50 8) (natAt b 0x2D 1) 32 rs →
            TableHolds s asid (natAt b 0x58 8) (natAt b 0x2E 1) 32 ds → (∀ c ∈ curvesOf b, ¬ Unreadable s asid c.2 128) →
            (∀ code, FirstFails (tableChecksOf s b hs rs ds) (some code) → u = refused s q 1 code done pa) ∧
            (FirstFails (tableChecksOf s b hs rs ds) none → let t := taskAt u s.nextTask
              u.nextTask = s.nextTask + 1 ∧ t.active = true ∧ t.failed = false ∧ t.retired = 0 ∧ ParametersOf b t.lpb ∧ t.lpbAt = block ∧ t.queue = q ∧
              t.seqNo = n ∧ t.donePA = pa ∧ t.regions = rs.map regionFields ∧ t.handles = hs.map handleFields ∧ t.deps.length = ds.length ∧
              (∀ (i : Nat) r, ds[i]? = some r → ∃ p, t.deps[i]? = some (depFields r p)) ∧
              (∀ c ∈ curvesOf b, ∃ bytes, TableHolds s asid c.2 1 128 [bytes] ∧
                t.curves.get [] c.1 = (List.range 32).map fun i => BitVec.ofNat 32 (natAt bytes (4 * i) 4)) ∧
              u.mem = s.mem ∧ u.groups = s.groups ∧ u.outbox = s.outbox ∧
              ∀ k, k ≠ s.nextTask → taskAt u k = { taskAt s k with clusters := (taskAt u k).clusters })))) ∧
  (∀ cl a rest s, (clusterAt s cl).edges = a :: rest →
    let s1 := setClusterAt s cl { clusterAt s cl with edges := rest }
    let k := (gangAt s a.gang).task
    let rs := (taskAt s k).regions
    (a.kind = 0 → ∃ t, exec (.edgeAction cl none) s = .next t ∧ Chain (Started a.gang cl a.resume) s1 rs t) ∧
    (a.kind = 1 → ∃ u, Chain (Completed a.gang cl) s1 rs u ∧
      exec (.edgeAction cl none) s = .next (setTaskAt u k { taskAt u k with ending := (taskAt u k).ending ++ [a.gang] })) ∧
    (a.kind = 2 → ∃ u, Chain (Migrated a.gang cl) s1 rs u ∧ let c := (gangAt s a.gang).cluster
      exec (.edgeAction cl none) s = .next (setClusterAt u c { clusterAt u c with edges := (clusterAt u c).edges ++ [⟨0, a.gang, false⟩] })))

/-! ## Issue, landing and faults -/

/-- R87, R90, R107 to R109, R135, R144, R149, R150, R154: a group that does not run issues nothing, and neither does one that is frozen for a replay; a
pending arithmetic trap is taken before the word, but not while a TRAP that has issued awaits its reply (R177); then the word faults at the first check of
R109 that fails, waits while it is not ready, faults at a transfer's illegal target or an early stall count, and else issues. A packet without its mark is
illegal, and so is a word whose transfer would go to a control word, even of a reserved encoding (the model's reading, log entry 103); a supervisor word in a
user group raises a privilege fault; a vector register that the group has not raises an illegal-instruction fault; under TRAPEN.SCK a scalar register with a
write still to land raises a stall-count fault; a locked register makes the word wait. A well-formed two-address word of a running group with nothing in
flight can issue. -/
def Obligations.IssueOrder : Prop :=
  (∀ i s, i.stream = some .group →
    ((curGroup s).st ≠ .running → exec i s = .next s) ∧
    ((curGroup s).frozen > max s.now (curGroup s).readyAt → exec i s = .next s) ∧
    (∀ idx fl, (curGroup s).st = .running → (curGroup s).frozen ≤ max s.now (curGroup s).readyAt → (groupIn i s).called = false →
      (groupIn i s).atrap = some (idx, fl) → exec i s = .next (takeArithTrap (atIssue i s) idx fl)) ∧
    (∀ c, AtChecks i s → issueFault (wordOf s i) (groupIn i s) = some c → exec i s = .next (afterFault i s (FaultInfo.plain c))) ∧
    (AtChecks i s → issueFault (wordOf s i) (groupIn i s) = none → notReady (wordOf s i) (atIssue i s) = true →
      exec i s = .next (atIssue i s)) ∧
    (∀ c, AtChecks i s → issueFault (wordOf s i) (groupIn i s) = none → notReady (wordOf s i) (atIssue i s) = false →
      lateFault (wordOf s i) (atIssue i s) = some c → exec i s = .next (afterFault i s (FaultInfo.plain c))) ∧
    (AtChecks i s → markOk (groupIn i s).ctl = false → exec i s = .next (afterFault i s (FaultInfo.plain 0x01)))) ∧
  (∀ i s, supervisorWord i = true → AtChecks i s → markOk (groupIn i s).ctl = true → (groupIn i s).handler = false →
    exec i s = .next (afterFault i s (FaultInfo.plain 0x03))) ∧
  (∀ w s, let i := Instr.illegalInstruction w
    AtChecks i s → exec i s = .next (afterFault i s (FaultInfo.plain
      (if markOk (groupIn i s).ctl = false ∨ illegalPacket (groupIn i s) w = true then 0x01
       else if illegalPrivilege w = true ∧ (groupIn i s).handler = false then 0x03 else 0x02)))) ∧
  (∀ i r s, r ∈ vectorNames i → (groupIn i s).nv ≤ r.toNat → AtChecks i s → markOk (groupIn i s).ctl = true →
    exec i s = .next (afterFault i s (FaultInfo.plain 0x02))) ∧
  (∀ i d a pair f p n x s, twoAddress i = some (d, a, pair, f) → AtChecks i s → markOk (groupIn i s).ctl = true → i.wf = true →
    notReady (wordOf s i) (atIssue i s) = false → (groupIn i s).trapen.getLsbD 8 = true → p ∈ (groupIn i s).pend → RegWrite.s n x ∈ p.ws → n ∈ scalarNames d a pair →
    exec i s = .next (afterFault i s (FaultInfo.plain 0x05))) ∧
  (∀ i d a pair f fl n x s, twoAddress i = some (d, a, pair, f) → AtChecks i s → markOk (groupIn i s).ctl = true → i.wf = true →
    fl ∈ (groupIn i s).flights → fl.written = false → RegWrite.s n x ∈ fl.ws → n ∈ scalarNames d a pair →
    exec i s = .next (atIssue i s)) ∧
  (∀ i d a pair f s, twoAddress i = some (d, a, pair, f) → AtChecks i s → markOk (groupIn i s).ctl = true → i.wf = true →
    (groupIn i s).pend = [] → (groupIn i s).flights = [] → CanIssue i s)

/-- R88, R148: the fixed-latency writes of a group whose clock has come land in the order of their clocks, words of one clock in their order of issue, and
the others stay in flight; a word's flags are set as it lands, and an enabled one then makes an arithmetic trap pending, where an earlier one that is pending
stays (the model's choice, log entry 112); a register holds its old value until the write to it lands and the written value from then on. A word of fixed
latency changes no register, flag or other state itself, only what is in flight, and no byte of memory; a word that reaches global memory changes no register
of its group. -/
def Obligations.WritesLand : Prop :=
  (∀ t g, ∃ order : List Pend, order.Perm (g.pend.filter fun p => decide (p.land ≤ t)) ∧ order.Pairwise (fun p q => p.land ≤ q.land) ∧
    (∀ c, c ≤ t → order.filter (fun p => p.land == c) = g.pend.filter fun p => p.land == c) ∧
    landAt t g = order.foldl landOne { g with pend := g.pend.filter fun p => !decide (p.land ≤ t) }) ∧
  (∀ t g land idx n x lat passes, g.pend = [⟨land, idx, [.s n x], 0, lat, passes⟩] →
    (t < land → landAt t g = g) ∧
    (land ≤ t → readS (landAt t g) n = x ∧ (∀ k, k ≠ n → readS (landAt t g) k = readS g k) ∧ (landAt t g).pend = [] ∧
      (landAt t g).flags = g.flags)) ∧
  (∀ t g land idx f lat passes, g.pend = [⟨land, idx, [], f, lat, passes⟩] → land ≤ t →
    (landAt t g).flags = g.flags ||| f.setWidth 32 ∧
    (landAt t g).atrap = if g.atrap = none ∧ f &&& g.trapen.setWidth 8 ≠ 0 then some (idx, f) else g.atrap) ∧
  (∀ i s t, fixedWord i = true → companded (curTask (atIssue i s)) (groupIn i s) = false → CanIssue i s → exec i s = .next t →
    (curGroup t).st = .running → OnlyGroup s t ∧ SameRegisters (groupIn i s) (curGroup t) ∧ ∀ a, memByte t a = memByte s a) ∧
  (∀ i s t, globalForm i = true → CanIssue i s → exec i s = .next t → (curGroup t).st = .running → SameRegisters (groupIn i s) (curGroup t))

/-- R408, R410 to R413: a group that takes a fault stops with its word at pc to be resumed, nothing else of it changed, and its record, laid out word by
word, goes to the pager, to the host-call ring, or to the failure of its task. A pending arithmetic trap stops the group in the same way at the word not yet
issued, with the record naming the word that raised the flags, and is no longer pending. The guard mask is in every group's record (the model's reading, log
entry 65), and a handler group is named by its block and group 0 (27). -/
def Obligations.FaultEntry : Prop :=
  (∀ s f, Fits f → takeFault s f = routed (setCurGroup s { curGroup s with st := .fault, resume := (curGroup s).pc, tested := false }) f.code
    (recordOf s (curGroup s).pc f.imm f)) ∧
  (∀ s idx fl, takeArithTrap s idx fl = routed (setCurGroup s { curGroup s with st := .fault, resume := (curGroup s).pc, atrap := none, tested := false }) 0x20
    (recordOf s idx fl.toNat (FaultInfo.plain 0x20)))

/-! ## Decoding and the step -/

/-- R91, R94, R95, R97, R98, R291, R292, R322: for every well-formed instruction of the three streams, with every operand, the encoder has a word and the
stream's decoder reads it back; and every word that the decoder reads as a legal instruction is that instruction's word, so no bit of it is dropped. -/
def Obligations.DecodeEncode : Prop :=
  (∀ i st, i.stream = some st → i.isIllegal = false → i.wf = true → ∃ w, encode i = some w ∧ decodeWord st w = i) ∧
  (∀ st w, (decodeWord st w).isIllegal = false → encode (decodeWord st w) = some w ∧ (decodeWord st w).stream = some st ∧
    (decodeWord st w).wf = true)

/-- Words that the spec writes out in its examples, and words with a reserved bit or opcode (R90, R91, R174, R194, R223, R273, R278, R283, R285, R318,
R349). -/
def Obligations.DecodedWords : Prop :=
  decodeGroup 0x33020064 = .smovi 4 100 ∧ decodeGroup 0x5A020400 = .vbcast 2 4 ∧ decodeGroup 0x68030102 = .vfadd 3 1 2 ∧
  decodeGroup 0x6A050303 = .vfmul 5 3 3 ∧ decodeGroup 0x32020001 = .saddi 4 1 ∧ decodeGroup 0x08010003 = .loops 2 3 ∧
  decodeGroup 0x300080C0 = .scmp 1 3 false ∧ decodeGroup 0x03300003 = .brc 3 3 ∧ decodeGroup 0x3F050048 = .pcnt 9 5 ∧
  decodeGroup 0x0A500002 = .setm 5 2 ∧ decodeGroup 0x91050400 = .vfred 5 4 0 ∧ decodeGroup 0xA9000005 = .fence 5 ∧
  decodeGroup 0xAA030114 = .aadd 3 1 2 4 ∧ decodeGroup 0xB606010C = .abcas 6 1 3 ∧ decodeGroup 0xB7080204 = .ldc 8 2 1 ∧
  decodeTender 0x11040C00 = .tldEnv 1 0 ∧ decodeTender 0x14041000 = .tdesc 1 1 ∧ decodeTender 0x02300004 = .tli 12 4 ∧
  decodeTender 0x17048309 = .tcopyl 1 8 12 1 1 ∧ decodeTender 0x26000000 = .twait 0 ∧ decodeTender 0x01000000 = .tend ∧
  decodeMatrix 0x02080041 = .mli 1 0x41 ∧ decodeMatrix 0x06004000 = .msetf 1 ∧ decodeMatrix 0x07008033 = .mtile 3 3 2 ∧
  decodeMatrix 0x0800C882 = .mbind 1 1 3 4 ∧ decodeMatrix 0x0B000003 = .mma true true false ∧
  decodeMatrix 0x0D19481F = .mepi 3 true true true 3 5 4 ∧
  decodeGroup 0x01000001 = .illegalInstruction 0x01000001 ∧ decodeGroup 0xFF000000 = .illegalInstruction 0xFF000000 ∧
  decodeTender 0x28000000 = .tenderIllegal 0x28000000 ∧ decodeMatrix 0x15000000 = .matrixStreamIllegal 0x15000000

/-- R85, R168, R288, R290, R319, R321: when a stream's turn comes and it may issue, the step executes the instruction that the word at its code index decodes
to; a group's word and its packet's control word come from the packet's 32 bytes. An event's turn executes the event. Code is fetched through the translation
with fetch permission, and where the cluster holds no copy it is the device memory's bytes; a fetch leaves no copy itself (the model's reading, log entry
38). -/
def Obligations.StepRuns : Prop :=
  (∀ s s0 gang blk grp bs s2, nextTurn s = (.group gang blk grp, s0) → groupMayIssue s0 gang blk grp = true →
    let s1 := { s0 with cur := ⟨gang, blk, grp⟩ }
    let g := groupAt s0 gang blk grp
    fetchCode s1 ⟨0, gang, blk, grp, g.handler, false⟩ (codeBase s0 gang blk + 32 * (g.pc.toNat / 8)) 32 = .ok bs s2 →
    let h := curGroup s2
    step s = exec (decodeGroup (fetchedWord bs (h.pc.toNat % 8)))
      (setCurGroup s2 { h with ctl := fetchedWord bs 0, lit := fetchedWord bs (h.pc.toNat % 8 + 1) })) ∧
  (∀ s s0 gang blk bs s2, nextTurn s = (.tender gang blk, s0) → tenderMayIssue s0 gang blk = true →
    fetchCode { s0 with cur := ⟨gang, blk, 0⟩ } ⟨1, gang, blk, 0, false, false⟩
      ((taskAt s0 (gangAt s0 gang).task).lpb.tentry + 4 * (blockAt s0 gang blk).tnd.tpc.toNat) 4 = .ok bs s2 →
    step s = exec (decodeTender (fetchedWord bs 0)) s2) ∧
  (∀ s s0 gang blk bs s2, nextTurn s = (.matrix gang blk, s0) → matrixMayIssue s0 gang blk = true →
    fetchCode { s0 with cur := ⟨gang, blk, 0⟩ } ⟨3, gang, blk, 0, false, false⟩
      ((taskAt s0 (gangAt s0 gang).task).lpb.mentry + 4 * (blockAt s0 gang blk).mat.mpc.toNat) 4 = .ok bs s2 →
    step s = exec (decodeMatrix (fetchedWord bs 0)) s2) ∧
  (∀ s s0 i, nextTurn s = (.event i, s0) → halted s0 = false → i.stream = none → step s = exec i s0) ∧
  (∀ s t r, s.turns = t :: r → nextTurn s = (t, { s with turns := r })) ∧
  (∀ s f va n t s1, translate s (coreOf s f.gang f.blk) (taskAt s (gangAt s f.gang).task).lpb.asid va .fetch f.sup = .ok (t, s1) → t.mt ≠ 1 →
    poisoned s1 (t.paOf va) = false → fetchCode s f va n = .ok (codeBytes s1 (coreOf s f.gang f.blk / 16) (t.paOf va) n) s1) ∧
  (∀ s cl pa n, (clusterAt s cl).lines = [] → codeBytes s cl pa n = (List.range n).map fun k => memByte s (pa + k)) ∧
  (∀ b0 b1 b2 b3 : Byte, ∀ r, fetchedWord (b0 :: b1 :: b2 :: b3 :: r) 0 = (b3 ++ b2 ++ b1 ++ b0 : BitVec 32) ∧
    ∀ bs k, 4 * k < bs.length → fetchedWord bs k = fetchedWord (bs.drop (4 * k)) 0)

/-! ## Reset and the invariant -/

/-- R45, R423, R432, R443, R463, R464: after reset the management registers hold the values of R464's table, no task, gang, block or group exists, no queue
and no flit is under way, and the invariant holds. FNMEM is 0 before bring-up has found the memory (the model's reading, log entry 49), and so is MREMOVE,
which is only written (37). That memory reads 0 is the model's choice (log entry 1). -/
def Obligations.ResetState : Prop :=
  Safety.Inv State.reset ∧ State.reset.now = 0 ∧
  (∀ off v, (off, v) ∈ [(0x000, 0), (0x008, 0), (0x010, 0), (0x018, 0), (0x020, 0), (0x028, 0), (0x030, 0), (0x038, 0), (0x040, 16), (0x048, 230),
      (0x050, 64), (0x058, 0), (0x060, 0), (0x068, 0), (0x070, 4), (0x078, 10000), (0x080, 0x3C), (0x088, 0), (0x090, 2000), (0x098, 0), (0x0A0, 0),
      (0x0A8, 0), (0x0B0, 0), (0x0B8, 0), (0x0C0, 0), (0x0C8, 0), (0x0D0, 0), (0x0D8, 0), (0x0E0, 0), (0x0E8, 0), (0x0F0, 0), (0x0F8, 0), (0x100, 0),
      (0x108, 0), (0x110, 0), (0x118, 0)] → mgmtRead State.reset off = some v) ∧
  State.reset.tasks = [] ∧ State.reset.gangs = [] ∧ State.reset.blocks = [] ∧ State.reset.groups = [] ∧ State.reset.outbox = [] ∧
  State.reset.mem = []

/-- The model's invariant, of every state and every step: device memory keeps its canonical form, and each management register keeps a value that
R464 and the register's own rule allow (R423, R432, R443, R460, R463). -/
def Obligations.StepKeepsInv : Prop := ∀ s t, Safety.Inv s → step s = .next t → Safety.Inv t
end

