-- ==== Sys2Proof/Laws/Issue.lean ====
section
/-!
SUPPORT. What `issue` answers, by what the word does: one lemma per outcome, which the statements about group words go through.
-/

namespace Sys2Proof.Laws
open Sys2Proof.Machine Sys2Proof.Safety

variable {i : Instr} {body : State → Res} {s t : State}

/-- R87: a group that does not run issues nothing. -/
theorem issue_of_stopped {w : Word} (h : (curGroup s).st ≠ .running) : issue w body s = .next s := by simp [issue, h]

/-- R154: a group frozen for a replay issues nothing. -/
theorem issue_of_frozen {w : Word} (h : frozenAt s.now (curGroup s) = true) : issue w body s = .next s := by simp [issue, h]

/-- R135: a pending arithmetic trap is taken before the word. -/
theorem issue_of_trap {idx : W32} {fl : FlagSet} (h : (curGroup s).st = .running) (hz : frozenAt s.now (curGroup s) = false)
    (ht : pendingTrap (groupIn i s) = some (idx, fl)) :
    issue (wordOf s i) body s = .next (takeArithTrap (atIssue i s) idx fl) := by
  simp only [groupIn, atIssue] at ht
  simp [issue, atIssue, h, hz, ht]

/-- R109: the first failing check faults. -/
theorem issue_of_fault {c : Nat} (h : (curGroup s).st = .running) (hz : frozenAt s.now (curGroup s) = false) (ht : pendingTrap (groupIn i s) = none)
    (hf : issueFault (wordOf s i) (groupIn i s) = some c) :
    issue (wordOf s i) body s = .next (afterFault i s (FaultInfo.plain c)) := by
  simp only [groupIn, atIssue] at ht hf
  simp [issue, afterFault, atIssue, h, hz, ht, hf]

/-- R144: a word that is not ready waits. -/
theorem issue_of_wait (h : (curGroup s).st = .running) (hz : frozenAt s.now (curGroup s) = false) (ht : pendingTrap (groupIn i s) = none)
    (hf : issueFault (wordOf s i) (groupIn i s) = none) (hn : notReady (wordOf s i) (atIssue i s) = true) :
    issue (wordOf s i) body s = .next (atIssue i s) := by
  simp only [groupIn, atIssue] at ht hf hn
  simp [issue, atIssue, h, hz, ht, hf, hn]

/-- The word transfers to no control word's index: most words transfer nowhere. -/
abbrev NoControl (i : Instr) (s : State) : Prop := (((wordOf s i).target (atIssue i s)).any fun t => t.toNat % 8 == 0) = false

/-- A word that transfers to a control word's index is an illegal packet, before its stall count is tested (R109, R171). -/
theorem issue_of_control (hr : (curGroup s).st = .running) (hz : frozenAt s.now (curGroup s) = false) (ht : pendingTrap (groupIn i s) = none) (hf : issueFault (wordOf s i) (groupIn i s) = none)
    (hn : notReady (wordOf s i) (atIssue i s) = false) (hc : ¬ NoControl i s) :
    issue (wordOf s i) body s = .next (afterFault i s (FaultInfo.plain 0x01)) := by
  simp only [NoControl, Bool.not_eq_false] at hc
  simp only [groupIn, atIssue] at ht hf hn hc
  simp [issue, lateFault, afterFault, atIssue, hr, hz, ht, hf, hn, hc]

/-- A word that can issue does what its body says at the issue clock. -/
theorem issue_of_canIssue (h : CanIssue i s) (hc : NoControl i s) :
    issue (wordOf s i) body s = .next (conclude (wordOf s i) (atIssue i s) (body (atIssue i s))) := by
  obtain ⟨hr, hz, ht, hl, hn, hs⟩ := h
  simp only [NoControl] at hc
  simp only [groupIn, atIssue] at ht hl hn hs hc
  simp [issue, lateFault, atIssue, hr, hz, ht, hl, hn, hs, hc]

/-! ## By what the body answers -/

/-- The word retires with its effects in `t`. -/
theorem issue_ok (h : CanIssue i s) (hc : NoControl i s) (hb : body (atIssue i s) = .ok t) :
    issue (wordOf s i) body s = .next (after i s t) := by
  rw [issue_of_canIssue h hc, hb]; rfl

/-- The word takes a transfer. -/
theorem issue_jump {target : W32} {pops : Bool} (h : CanIssue i s) (hc : NoControl i s) (hb : body (atIssue i s) = .jump t target pops) :
    issue (wordOf s i) body s = .next (afterJump i s t target pops) := by
  rw [issue_of_canIssue h hc, hb]; rfl

/-- The word stays, with what it did while it waits. -/
theorem issue_wait (h : CanIssue i s) (hc : NoControl i s) (hb : body (atIssue i s) = .wait t) : issue (wordOf s i) body s = .next t := by
  rw [issue_of_canIssue h hc, hb]; rfl

/-- The word stops its group. -/
theorem issue_stop (h : CanIssue i s) (hc : NoControl i s) (hb : body (atIssue i s) = .stop t) : issue (wordOf s i) body s = .next t := by
  rw [issue_of_canIssue h hc, hb]; rfl

/-- The word raises a precise fault. -/
theorem issue_faults {f : FaultInfo} (h : CanIssue i s) (hc : NoControl i s) (hb : body (atIssue i s) = .flt f) :
    issue (wordOf s i) body s = .next (afterFault i s f) := by
  rw [issue_of_canIssue h hc, hb]; rfl

/-! ## Where a group goes on -/

/-- R85: no word's index is a control word's. -/
theorem skipControl_mod (pc : W32) : (skipControl pc).toNat % 8 ≠ 0 := by
  unfold skipControl
  split
  · rw [BitVec.toNat_add]; simp only [BitVec.ofNat_eq_ofNat, BitVec.toNat_ofNat]; omega
  · assumption
theorem nextWord_mod (pc : W32) (skip : Nat) : (nextWord pc skip).toNat % 8 ≠ 0 := skipControl_mod _
/-- Raising counters touches the counters alone. -/
theorem raiseCounters_frame (fs : List Flight) (g : Group) : ∃ v b c, fs.foldl (fun h f => raiseCounter h f.cnt) g = { g with vmc := v, bfc := b, sfc := c } := by
  induction fs generalizing g with
  | nil => exact ⟨g.vmc, g.bfc, g.sfc, rfl⟩
  | cons f r ih =>
    obtain ⟨v, b, c, h⟩ := ih (raiseCounter g f.cnt)
    rw [List.foldl_cons, h]
    cases f.cnt <;> exact ⟨v, b, c, rfl⟩
/-- A group that runs again stands at a word (R85), with nothing left to execute again (R155). -/
theorem redone_resumed (g : Group) (now : Nat) :
    (redone (resumed g now) now).st = .running ∧ (redone (resumed g now) now).pc = skipControl g.resume ∧
      (redone (resumed g now) now).redo = [] ∧ (redone (resumed g now) now).again = [] := by
  obtain ⟨v, b, c, h⟩ := raiseCounters_frame (resumed g now).again (resumed g now)
  simp only [redone, h]
  exact ⟨rfl, rfl, trivial, trivial⟩

end Sys2Proof.Laws
end

