-- ==== Sys2Proof/Laws/Buffer.lean ====
section
/-!
SUPPORT. The tests on a handle: a field of an entry as a slice of its bits, and when a group's access passes them all.
-/

namespace Sys2Proof.Laws
open Sys2Proof.Machine Sys2Proof.Safety

/-- A field of a record is a slice of its bits. -/
theorem bitsOf_eq {w : Nat} (x : BitVec w) (lo n : Nat) : bitsOf x lo n = (x.extractLsb' lo n).toNat := by
  simp [bitsOf, BitVec.extractLsb'_toNat, Nat.shiftRight_eq_div_pow]

/-- A mask's bit of the groups. -/
theorem inMask_groups {w lo : Nat} (x : BitVec w) : inMask (bitsOf x lo 8) .groups = x.getLsbD lo := by
  rw [inMask, bitsOf_eq, Engine.bit, Nat.pow_zero, Nat.div_one]
  have h : (x.extractLsb' lo 8).getLsbD 0 = x.getLsbD lo := by simp
  rw [← h, BitVec.getLsbD, Nat.testBit_zero]
  rw [Bool.eq_iff_iff]; simp [Nat.testBit, Nat.and_comm]

/-- A group's access to a handle that is ready for it passes the tests of R248. -/
theorem checkHandle_ok {waited : Bool} {e : HEntry} {bufs : List (BitVec 2)} {a : HAccess} {bufOk : Bool} {size : Nat} {ls : List (Nat × Nat)}
    (h : HandleReady waited e bufs a size ls) (hb : e.extractLsb' 126 2 ∈ bufs → bufOk = true) :
    checkHandle waited e .groups a bufOk size size ls = .ok := by
  obtain ⟨h1, h2, h3, h4, h5, h6, h7, h8, h9⟩ := h
  have hs : stateOk e a = true := by
    cases a
    · rcases h8 rfl with h | h <;> simp [stateOk, hState, bitsOf_eq, hsFull, hsDraining, h]
    · simp [stateOk, hState, bitsOf_eq, hsFilling, h9 (by decide)]
    · simp [stateOk, hState, bitsOf_eq, hsFilling, h9 (by decide)]
  have hm : swzMatch e a = true := by
    cases a <;> simp [swzMatch]
    have := h7 rfl
    simp only [hFv, hFswz, hSwz, bitsOf_eq]
    rcases this with h | h
    · left
      have h' : e.extractLsb' 118 1 = 0 := by
        apply BitVec.eq_of_getLsbD_eq; intro i hi
        have : i = 0 := by omega
        subst this
        rw [BitVec.getLsbD_extractLsb', h]; rfl
      rw [h']; rfl
    · right; rw [h]
  cases waited with
  | true => simp [checkHandle, hs, hm]
  | false =>
    have hbuf := hb (h1 rfl)
    have hk : maskOk e .groups a = true := by
      cases a <;> simp_all [maskOk, hProd, hCons, inMask_groups]
    have hr : (ls.find? fun l => !inExt e l.2 size) = none := by
      simp only [List.find?_eq_none, inExt, hExt, bitsOf_eq]
      intro l hl; simpa using h4 rfl l hl
    have hal : (ls.find? fun l => l.2 % size != 0) = none := by
      simp only [List.find?_eq_none]
      intro l hl; simpa using h5 rfl l hl
    have hl : swzLegal e = true := by
      have := h6 rfl
      simp only [swzLegal, hSwz, hExt, bitsOf_eq, Bool.and_eq_true, Bool.or_eq_true, decide_eq_true_eq, beq_iff_eq]
      refine ⟨this.1, ?_⟩
      rcases this.2 with h | h
      · left; rw [h]; rfl
      · right; exact h
    simp [checkHandle, hbuf, hk, hr, hal, hl, hm, hs]

end Sys2Proof.Laws
end

