-- ==== Sys2Proof/Laws/Exec.lean ====
section
/-!
SUPPORT. The dispatch of each instruction: what `exec` calls, one lemma per constructor, so that no proof unfolds the whole match.
-/

namespace Sys2Proof.Machine
variable {s : State}

@[simp] theorem exec_nop : exec (.nop) s = execNop s := rfl
@[simp] theorem exec_stop : exec (.stop) s = execStop s := rfl
@[simp] theorem exec_br (off : BitVec 20) : exec (.br off) s = execBr off s := rfl
@[simp] theorem exec_brc (cond : BitVec 4) (off : BitVec 20) : exec (.brc cond off) s = execBrc cond off s := rfl
@[simp] theorem exec_pbr (p : BitVec 4) (test : BitVec 2) (off : BitVec 18) : exec (.pbr p test off) s = execPbr p test off s := rfl
@[simp] theorem exec_call (off : BitVec 20) : exec (.call off) s = execCall off s := rfl
@[simp] theorem exec_ret : exec (.ret) s = execRet s := rfl
@[simp] theorem exec_jmpr (sa : BitVec 9) : exec (.jmpr sa) s = execJmpr sa s := rfl
@[simp] theorem exec_loops (sc : BitVec 9) (last : BitVec 15) : exec (.loops sc last) s = execLoops sc last s := rfl
@[simp] theorem exec_yield : exec (.yield) s = execYield s := rfl
@[simp] theorem exec_setm (field : BitVec 4) (value : BitVec 5) : exec (.setm field value) s = execSetm field value s := rfl
@[simp] theorem exec_setmReg (field : BitVec 4) (src : BitVec 9) : exec (.setmReg field src) s = execSetmReg field src s := rfl
@[simp] theorem exec_setmr (sa : BitVec 9) : exec (.setmr sa) s = execSetmr sa s := rfl
@[simp] theorem exec_getm (sd : BitVec 9) : exec (.getm sd) s = execGetm sd s := rfl
@[simp] theorem exec_rdsr (sd num : BitVec 9) : exec (.rdsr sd num) s = execRdsr sd num s := rfl
@[simp] theorem exec_wrsr (sd num : BitVec 9) : exec (.wrsr sd num) s = execWrsr sd num s := rfl
@[simp] theorem exec_trap (imm : BitVec 24) : exec (.trap imm) s = execTrap imm s := rfl
@[simp] theorem exec_hostCallRecord : exec (.hostCallRecord) s = execHostCallRecord s := rfl
@[simp] theorem exec_bkpt (imm : BitVec 24) : exec (.bkpt imm) s = execBkpt imm s := rfl
@[simp] theorem exec_eret : exec (.eret) s = execEret s := rfl
@[simp] theorem exec_xsel (sa : BitVec 9) : exec (.xsel sa) s = execXsel sa s := rfl
@[simp] theorem exec_xrv (own target : BitVec 8) : exec (.xrv own target) s = execXrv own target s := rfl
@[simp] theorem exec_xwv (own target : BitVec 8) : exec (.xwv own target) s = execXwv own target s := rfl
@[simp] theorem exec_xrs (sd idx : BitVec 9) (space : BitVec 3) : exec (.xrs sd idx space) s = execXrs sd idx space s := rfl
@[simp] theorem exec_xws (sd idx : BitVec 9) (space : BitVec 3) : exec (.xws sd idx space) s = execXws sd idx space s := rfl
@[simp] theorem exec_sadd (sd sa : BitVec 9) (pair : Bool) : exec (.sadd sd sa pair) s = execSadd sd sa pair s := rfl
@[simp] theorem exec_ssub (sd sa : BitVec 9) (pair : Bool) : exec (.ssub sd sa pair) s = execSsub sd sa pair s := rfl
@[simp] theorem exec_smul (sd sa : BitVec 9) (pair : Bool) : exec (.smul sd sa pair) s = execSmul sd sa pair s := rfl
@[simp] theorem exec_smulh (sd sa : BitVec 9) (pair : Bool) : exec (.smulh sd sa pair) s = execSmulh sd sa pair s := rfl
@[simp] theorem exec_smulhn (sd sa : BitVec 9) (pair : Bool) : exec (.smulhn sd sa pair) s = execSmulhn sd sa pair s := rfl
@[simp] theorem exec_sdiv (sd sa : BitVec 9) (pair : Bool) : exec (.sdiv sd sa pair) s = execSdiv sd sa pair s := rfl
@[simp] theorem exec_sdivn (sd sa : BitVec 9) (pair : Bool) : exec (.sdivn sd sa pair) s = execSdivn sd sa pair s := rfl
@[simp] theorem exec_srem (sd sa : BitVec 9) (pair : Bool) : exec (.srem sd sa pair) s = execSrem sd sa pair s := rfl
@[simp] theorem exec_sremn (sd sa : BitVec 9) (pair : Bool) : exec (.sremn sd sa pair) s = execSremn sd sa pair s := rfl
@[simp] theorem exec_sand (sd sa : BitVec 9) (pair : Bool) : exec (.sand sd sa pair) s = execSand sd sa pair s := rfl
@[simp] theorem exec_sor (sd sa : BitVec 9) (pair : Bool) : exec (.sor sd sa pair) s = execSor sd sa pair s := rfl
@[simp] theorem exec_sxor (sd sa : BitVec 9) (pair : Bool) : exec (.sxor sd sa pair) s = execSxor sd sa pair s := rfl
@[simp] theorem exec_sshl (sd sa : BitVec 9) (pair : Bool) : exec (.sshl sd sa pair) s = execSshl sd sa pair s := rfl
@[simp] theorem exec_sshr (sd sa : BitVec 9) (pair : Bool) : exec (.sshr sd sa pair) s = execSshr sd sa pair s := rfl
@[simp] theorem exec_ssar (sd sa : BitVec 9) (pair : Bool) : exec (.ssar sd sa pair) s = execSsar sd sa pair s := rfl
@[simp] theorem exec_smin (sd sa : BitVec 9) (pair : Bool) : exec (.smin sd sa pair) s = execSmin sd sa pair s := rfl
@[simp] theorem exec_smax (sd sa : BitVec 9) (pair : Bool) : exec (.smax sd sa pair) s = execSmax sd sa pair s := rfl
@[simp] theorem exec_sminn (sd sa : BitVec 9) (pair : Bool) : exec (.sminn sd sa pair) s = execSminn sd sa pair s := rfl
@[simp] theorem exec_smaxn (sd sa : BitVec 9) (pair : Bool) : exec (.smaxn sd sa pair) s = execSmaxn sd sa pair s := rfl
@[simp] theorem exec_smov (sd sa : BitVec 9) (pair : Bool) : exec (.smov sd sa pair) s = execSmov sd sa pair s := rfl
@[simp] theorem exec_snot (sd sa : BitVec 9) (pair : Bool) : exec (.snot sd sa pair) s = execSnot sd sa pair s := rfl
@[simp] theorem exec_sneg (sd sa : BitVec 9) (pair : Bool) : exec (.sneg sd sa pair) s = execSneg sd sa pair s := rfl
@[simp] theorem exec_sclz (sd sa : BitVec 9) (pair : Bool) : exec (.sclz sd sa pair) s = execSclz sd sa pair s := rfl
@[simp] theorem exec_spopc (sd sa : BitVec 9) (pair : Bool) : exec (.spopc sd sa pair) s = execSpopc sd sa pair s := rfl
@[simp] theorem exec_scmp (sd sa : BitVec 9) (pair : Bool) : exec (.scmp sd sa pair) s = execScmp sd sa pair s := rfl
@[simp] theorem exec_scmpn (sd sa : BitVec 9) (pair : Bool) : exec (.scmpn sd sa pair) s = execScmpn sd sa pair s := rfl
@[simp] theorem exec_saddi (sd : BitVec 9) (imm : BitVec 15) : exec (.saddi sd imm) s = execSaddi sd imm s := rfl
@[simp] theorem exec_smovi (sd : BitVec 9) (imm : BitVec 15) : exec (.smovi sd imm) s = execSmovi sd imm s := rfl
@[simp] theorem exec_slit (sd : BitVec 9) : exec (.slit sd) s = execSlit sd s := rfl
@[simp] theorem exec_saddc (sd sa : BitVec 9) (pair : Bool) : exec (.saddc sd sa pair) s = execSaddc sd sa pair s := rfl
@[simp] theorem exec_ssubb (sd sa : BitVec 9) (pair : Bool) : exec (.ssubb sd sa pair) s = execSsubb sd sa pair s := rfl
@[simp] theorem exec_ssel (sd sa : BitVec 9) (pair : Bool) (cond : BitVec 4) : exec (.ssel sd sa pair cond) s = execSsel sd sa pair cond s := rfl
@[simp] theorem exec_pand (pd pa pb : BitVec 4) : exec (.pand pd pa pb) s = execPand pd pa pb s := rfl
@[simp] theorem exec_por (pd pa pb : BitVec 4) : exec (.por pd pa pb) s = execPor pd pa pb s := rfl
@[simp] theorem exec_pxor (pd pa pb : BitVec 4) : exec (.pxor pd pa pb) s = execPxor pd pa pb s := rfl
@[simp] theorem exec_pnot (pd pa : BitVec 4) : exec (.pnot pd pa) s = execPnot pd pa s := rfl
@[simp] theorem exec_pmov (pd pa : BitVec 4) : exec (.pmov pd pa) s = execPmov pd pa s := rfl
@[simp] theorem exec_psets (pd : BitVec 4) (src : BitVec 9) : exec (.psets pd src) s = execPsets pd src s := rfl
@[simp] theorem exec_pgets (sd : BitVec 9) (pa : BitVec 4) : exec (.pgets sd pa) s = execPgets sd pa s := rfl
@[simp] theorem exec_pcnt (sd : BitVec 9) (pa : BitVec 4) : exec (.pcnt sd pa) s = execPcnt sd pa s := rfl
@[simp] theorem exec_pffs (sd : BitVec 9) (pa : BitVec 4) : exec (.pffs sd pa) s = execPffs sd pa s := rfl
@[simp] theorem exec_plane (pd : BitVec 4) (src : BitVec 9) : exec (.plane pd src) s = execPlane pd src s := rfl
@[simp] theorem exec_ppush (pa : BitVec 4) : exec (.ppush pa) s = execPpush pa s := rfl
@[simp] theorem exec_ppop (pd : BitVec 4) : exec (.ppop pd) s = execPpop pd s := rfl
@[simp] theorem exec_vadd (vd va vb : BitVec 8) : exec (.vadd vd va vb) s = execVadd vd va vb s := rfl
@[simp] theorem exec_vsub (vd va vb : BitVec 8) : exec (.vsub vd va vb) s = execVsub vd va vb s := rfl
@[simp] theorem exec_vmul (vd va vb : BitVec 8) : exec (.vmul vd va vb) s = execVmul vd va vb s := rfl
@[simp] theorem exec_vmulh (vd va vb : BitVec 8) : exec (.vmulh vd va vb) s = execVmulh vd va vb s := rfl
@[simp] theorem exec_vmad (vd va vb : BitVec 8) : exec (.vmad vd va vb) s = execVmad vd va vb s := rfl
@[simp] theorem exec_vand (vd va vb : BitVec 8) : exec (.vand vd va vb) s = execVand vd va vb s := rfl
@[simp] theorem exec_vor (vd va vb : BitVec 8) : exec (.vor vd va vb) s = execVor vd va vb s := rfl
@[simp] theorem exec_vxor (vd va vb : BitVec 8) : exec (.vxor vd va vb) s = execVxor vd va vb s := rfl
@[simp] theorem exec_vnot (vd va : BitVec 8) : exec (.vnot vd va) s = execVnot vd va s := rfl
@[simp] theorem exec_vshl (vd va vb : BitVec 8) : exec (.vshl vd va vb) s = execVshl vd va vb s := rfl
@[simp] theorem exec_vshr (vd va vb : BitVec 8) : exec (.vshr vd va vb) s = execVshr vd va vb s := rfl
@[simp] theorem exec_vmin (vd va vb : BitVec 8) : exec (.vmin vd va vb) s = execVmin vd va vb s := rfl
@[simp] theorem exec_vmax (vd va vb : BitVec 8) : exec (.vmax vd va vb) s = execVmax vd va vb s := rfl
@[simp] theorem exec_vabs (vd va : BitVec 8) : exec (.vabs vd va) s = execVabs vd va s := rfl
@[simp] theorem exec_vclz (vd va : BitVec 8) : exec (.vclz vd va) s = execVclz vd va s := rfl
@[simp] theorem exec_vpopc (vd va : BitVec 8) : exec (.vpopc vd va) s = execVpopc vd va s := rfl
@[simp] theorem exec_vsel (vd va vb : BitVec 8) : exec (.vsel vd va vb) s = execVsel vd va vb s := rfl
@[simp] theorem exec_vmov (vd va : BitVec 8) : exec (.vmov vd va) s = execVmov vd va s := rfl
@[simp] theorem exec_vbcast (vd src : BitVec 8) : exec (.vbcast vd src) s = execVbcast vd src s := rfl
@[simp] theorem exec_vlane (vd : BitVec 8) : exec (.vlane vd) s = execVlane vd s := rfl
@[simp] theorem exec_vshfl (vd va vb : BitVec 8) : exec (.vshfl vd va vb) s = execVshfl vd va vb s := rfl
@[simp] theorem exec_vrot (vd va : BitVec 8) (imm : BitVec 5) : exec (.vrot vd va imm) s = execVrot vd va imm s := rfl
@[simp] theorem exec_vscan (vd va : BitVec 8) (op : BitVec 4) : exec (.vscan vd va op) s = execVscan vd va op s := rfl
@[simp] theorem exec_vred (vd va : BitVec 8) (op : BitVec 4) : exec (.vred vd va op) s = execVred vd va op s := rfl
@[simp] theorem exec_vcmp (pd cond : BitVec 4) (va vb : BitVec 8) : exec (.vcmp pd cond va vb) s = execVcmp pd cond va vb s := rfl
@[simp] theorem exec_vpack (vd va vb : BitVec 8) : exec (.vpack vd va vb) s = execVpack vd va vb s := rfl
@[simp] theorem exec_vunpk (vd va : BitVec 8) (k : BitVec 2) : exec (.vunpk vd va k) s = execVunpk vd va k s := rfl
@[simp] theorem exec_vhash (vd va : BitVec 8) : exec (.vhash vd va) s = execVhash vd va s := rfl
@[simp] theorem exec_vxtr (sd va : BitVec 8) (lane : BitVec 5) : exec (.vxtr sd va lane) s = execVxtr sd va lane s := rfl
@[simp] theorem exec_vins (vd src : BitVec 8) (lane : BitVec 5) : exec (.vins vd src lane) s = execVins vd src lane s := rfl
@[simp] theorem exec_vfadd (vd va vb : BitVec 8) : exec (.vfadd vd va vb) s = execVfadd vd va vb s := rfl
@[simp] theorem exec_vfsub (vd va vb : BitVec 8) : exec (.vfsub vd va vb) s = execVfsub vd va vb s := rfl
@[simp] theorem exec_vfmul (vd va vb : BitVec 8) : exec (.vfmul vd va vb) s = execVfmul vd va vb s := rfl
@[simp] theorem exec_vfmulz (vd va vb : BitVec 8) : exec (.vfmulz vd va vb) s = execVfmulz vd va vb s := rfl
@[simp] theorem exec_vfma (vd va vb : BitVec 8) : exec (.vfma vd va vb) s = execVfma vd va vb s := rfl
@[simp] theorem exec_vfms (vd va vb : BitVec 8) : exec (.vfms vd va vb) s = execVfms vd va vb s := rfl
@[simp] theorem exec_vfnma (vd va vb : BitVec 8) : exec (.vfnma vd va vb) s = execVfnma vd va vb s := rfl
@[simp] theorem exec_vfdiv (vd va vb : BitVec 8) : exec (.vfdiv vd va vb) s = execVfdiv vd va vb s := rfl
@[simp] theorem exec_vfsqrt (vd va : BitVec 8) : exec (.vfsqrt vd va) s = execVfsqrt vd va s := rfl
@[simp] theorem exec_vfrsq (vd va : BitVec 8) : exec (.vfrsq vd va) s = execVfrsq vd va s := rfl
@[simp] theorem exec_vfrcp (vd va : BitVec 8) : exec (.vfrcp vd va) s = execVfrcp vd va s := rfl
@[simp] theorem exec_vfexp (vd va : BitVec 8) : exec (.vfexp vd va) s = execVfexp vd va s := rfl
@[simp] theorem exec_vfexp2 (vd va : BitVec 8) : exec (.vfexp2 vd va) s = execVfexp2 vd va s := rfl
@[simp] theorem exec_vfexpm1 (vd va : BitVec 8) : exec (.vfexpm1 vd va) s = execVfexpm1 vd va s := rfl
@[simp] theorem exec_vflog (vd va : BitVec 8) : exec (.vflog vd va) s = execVflog vd va s := rfl
@[simp] theorem exec_vflog2 (vd va : BitVec 8) : exec (.vflog2 vd va) s = execVflog2 vd va s := rfl
@[simp] theorem exec_vflog1p (vd va : BitVec 8) : exec (.vflog1p vd va) s = execVflog1p vd va s := rfl
@[simp] theorem exec_vfsin (vd va : BitVec 8) : exec (.vfsin vd va) s = execVfsin vd va s := rfl
@[simp] theorem exec_vfcos (vd va : BitVec 8) : exec (.vfcos vd va) s = execVfcos vd va s := rfl
@[simp] theorem exec_vftan (vd va : BitVec 8) : exec (.vftan vd va) s = execVftan vd va s := rfl
@[simp] theorem exec_vfatan (vd va : BitVec 8) : exec (.vfatan vd va) s = execVfatan vd va s := rfl
@[simp] theorem exec_vfatan2 (vd va vb : BitVec 8) : exec (.vfatan2 vd va vb) s = execVfatan2 vd va vb s := rfl
@[simp] theorem exec_vftanh (vd va : BitVec 8) : exec (.vftanh vd va) s = execVftanh vd va s := rfl
@[simp] theorem exec_vferf (vd va : BitVec 8) : exec (.vferf vd va) s = execVferf vd va s := rfl
@[simp] theorem exec_vfpow (vd va vb : BitVec 8) : exec (.vfpow vd va vb) s = execVfpow vd va vb s := rfl
@[simp] theorem exec_vfhyp (vd va vb : BitVec 8) : exec (.vfhyp vd va vb) s = execVfhyp vd va vb s := rfl
@[simp] theorem exec_vfmin (vd va vb : BitVec 8) : exec (.vfmin vd va vb) s = execVfmin vd va vb s := rfl
@[simp] theorem exec_vfmax (vd va vb : BitVec 8) : exec (.vfmax vd va vb) s = execVfmax vd va vb s := rfl
@[simp] theorem exec_vfabs (vd va : BitVec 8) : exec (.vfabs vd va) s = execVfabs vd va s := rfl
@[simp] theorem exec_vfneg (vd va : BitVec 8) : exec (.vfneg vd va) s = execVfneg vd va s := rfl
@[simp] theorem exec_vfcps (vd va vb : BitVec 8) : exec (.vfcps vd va vb) s = execVfcps vd va vb s := rfl
@[simp] theorem exec_vfrnd (vd va : BitVec 8) : exec (.vfrnd vd va) s = execVfrnd vd va s := rfl
@[simp] theorem exec_vftoi (vd va : BitVec 8) (imm : BitVec 5) : exec (.vftoi vd va imm) s = execVftoi vd va imm s := rfl
@[simp] theorem exec_vitof (vd va : BitVec 8) (imm : BitVec 5) : exec (.vitof vd va imm) s = execVitof vd va imm s := rfl
@[simp] theorem exec_vfcvt (vd va : BitVec 8) (imm : BitVec 5) : exec (.vfcvt vd va imm) s = execVfcvt vd va imm s := rfl
@[simp] theorem exec_vfqnt (vd va vb : BitVec 8) : exec (.vfqnt vd va vb) s = execVfqnt vd va vb s := rfl
@[simp] theorem exec_vfdq (vd va vb : BitVec 8) : exec (.vfdq vd va vb) s = execVfdq vd va vb s := rfl
@[simp] theorem exec_vfcls (vd va : BitVec 8) : exec (.vfcls vd va) s = execVfcls vd va s := rfl
@[simp] theorem exec_vfcmp (pd cond : BitVec 4) (va vb : BitVec 8) : exec (.vfcmp pd cond va vb) s = execVfcmp pd cond va vb s := rfl
@[simp] theorem exec_vfsmx (vd va vb : BitVec 8) : exec (.vfsmx vd va vb) s = execVfsmx vd va vb s := rfl
@[simp] theorem exec_vfssq (vd va : BitVec 8) : exec (.vfssq vd va) s = execVfssq vd va s := rfl
@[simp] theorem exec_vfred (vd va : BitVec 8) (op : BitVec 4) : exec (.vfred vd va op) s = execVfred vd va op s := rfl
@[simp] theorem exec_vfscan (vd va : BitVec 8) (op : BitVec 4) : exec (.vfscan vd va op) s = execVfscan vd va op s := rfl
@[simp] theorem exec_vfrot (vd va vb : BitVec 8) : exec (.vfrot vd va vb) s = execVfrot vd va vb s := rfl
@[simp] theorem exec_vfldx (vd va vb : BitVec 8) : exec (.vfldx vd va vb) s = execVfldx vd va vb s := rfl
@[simp] theorem exec_vffrx (vd va : BitVec 8) (sel : BitVec 1) : exec (.vffrx vd va sel) s = execVffrx vd va sel s := rfl
@[simp] theorem exec_vfrem (vd va vb : BitVec 8) : exec (.vfrem vd va vb) s = execVfrem vd va vb s := rfl
@[simp] theorem exec_ld (v va : BitVec 8) (n : BitVec 5) (scope : BitVec 3) : exec (.ld v va n scope) s = execLd v va n scope s := rfl
@[simp] theorem exec_ldf (v va : BitVec 8) (n : BitVec 5) (scope : BitVec 3) : exec (.ldf v va n scope) s = execLdf v va n scope s := rfl
@[simp] theorem exec_ldd (v va : BitVec 8) (n : BitVec 5) (scope : BitVec 3) : exec (.ldd v va n scope) s = execLdd v va n scope s := rfl
@[simp] theorem exec_lda (v va : BitVec 8) (n : BitVec 5) (scope : BitVec 3) : exec (.lda v va n scope) s = execLda v va n scope s := rfl
@[simp] theorem exec_st (v va : BitVec 8) (n : BitVec 5) (scope : BitVec 3) : exec (.st v va n scope) s = execSt v va n scope s := rfl
@[simp] theorem exec_stnt (v va : BitVec 8) (n : BitVec 5) (scope : BitVec 3) : exec (.stnt v va n scope) s = execStnt v va n scope s := rfl
@[simp] theorem exec_std (v va : BitVec 8) (n : BitVec 5) (scope : BitVec 3) : exec (.std v va n scope) s = execStd v va n scope s := rfl
@[simp] theorem exec_stl (v va : BitVec 8) (n : BitVec 5) (scope : BitVec 3) : exec (.stl v va n scope) s = execStl v va n scope s := rfl
@[simp] theorem exec_drainnt : exec (.drainnt) s = execDrainnt s := rfl
@[simp] theorem exec_fence (scope : BitVec 3) : exec (.fence scope) s = execFence scope s := rfl
@[simp] theorem exec_aadd (v va : BitVec 8) (n : BitVec 5) (scope : BitVec 3) : exec (.aadd v va n scope) s = execAadd v va n scope s := rfl
@[simp] theorem exec_afadd (v va : BitVec 8) (n : BitVec 5) (scope : BitVec 3) : exec (.afadd v va n scope) s = execAfadd v va n scope s := rfl
@[simp] theorem exec_amin (v va : BitVec 8) (n : BitVec 5) (scope : BitVec 3) : exec (.amin v va n scope) s = execAmin v va n scope s := rfl
@[simp] theorem exec_amax (v va : BitVec 8) (n : BitVec 5) (scope : BitVec 3) : exec (.amax v va n scope) s = execAmax v va n scope s := rfl
@[simp] theorem exec_aand (v va : BitVec 8) (n : BitVec 5) (scope : BitVec 3) : exec (.aand v va n scope) s = execAand v va n scope s := rfl
@[simp] theorem exec_aor (v va : BitVec 8) (n : BitVec 5) (scope : BitVec 3) : exec (.aor v va n scope) s = execAor v va n scope s := rfl
@[simp] theorem exec_axor (v va : BitVec 8) (n : BitVec 5) (scope : BitVec 3) : exec (.axor v va n scope) s = execAxor v va n scope s := rfl
@[simp] theorem exec_axchg (v va : BitVec 8) (n : BitVec 5) (scope : BitVec 3) : exec (.axchg v va n scope) s = execAxchg v va n scope s := rfl
@[simp] theorem exec_acas (v va : BitVec 8) (n : BitVec 5) (scope : BitVec 3) : exec (.acas v va n scope) s = execAcas v va n scope s := rfl
@[simp] theorem exec_ldb (v va : BitVec 8) (h : BitVec 6) : exec (.ldb v va h) s = execLdb v va h s := rfl
@[simp] theorem exec_stb (v va : BitVec 8) (h : BitVec 6) : exec (.stb v va h) s = execStb v va h s := rfl
@[simp] theorem exec_abadd (v va : BitVec 8) (h : BitVec 6) : exec (.abadd v va h) s = execAbadd v va h s := rfl
@[simp] theorem exec_abcas (v va : BitVec 8) (h : BitVec 6) : exec (.abcas v va h) s = execAbcas v va h s := rfl
@[simp] theorem exec_ldc (v va : BitVec 8) (h : BitVec 6) : exec (.ldc v va h) s = execLdc v va h s := rfl
@[simp] theorem exec_stc (v va : BitVec 8) (h : BitVec 6) : exec (.stc v va h) s = execStc v va h s := rfl
@[simp] theorem exec_pref (va : BitVec 8) (n : BitVec 5) (scope : BitVec 3) : exec (.pref va n scope) s = execPref va n scope s := rfl
@[simp] theorem exec_ldkv (v va src : BitVec 8) : exec (.ldkv v va src) s = execLdkv v va src s := rfl
@[simp] theorem exec_stkv (v va src : BitVec 8) : exec (.stkv v va src) s = execStkv v va src s := rfl
@[simp] theorem exec_kvmap (sd sa : BitVec 9) : exec (.kvmap sd sa) s = execKvmap sd sa s := rfl
@[simp] theorem exec_kvfork (sd sa : BitVec 9) : exec (.kvfork sd sa) s = execKvfork sd sa s := rfl
@[simp] theorem exec_kvdrop (sd sa : BitVec 9) : exec (.kvdrop sd sa) s = execKvdrop sd sa s := rfl
@[simp] theorem exec_kvinfo (sd sa : BitVec 9) : exec (.kvinfo sd sa) s = execKvinfo sd sa s := rfl
@[simp] theorem exec_bar (b : BitVec 4) : exec (.bar b) s = execBar b s := rfl
@[simp] theorem exec_bara (b : BitVec 4) : exec (.bara b) s = execBara b s := rfl
@[simp] theorem exec_barw (b : BitVec 4) : exec (.barw b) s = execBarw b s := rfl
@[simp] theorem exec_gbar (g mode : BitVec 2) : exec (.gbar g mode) s = execGbar g mode s := rfl
@[simp] theorem exec_hwait (h : BitVec 6) (st : BitVec 2) (ph : BitVec 1) : exec (.hwait h st ph) s = execHwait h st ph s := rfl
@[simp] theorem exec_hset (h : BitVec 6) (st : BitVec 2) : exec (.hset h st) s = execHset h st s := rfl
@[simp] theorem exec_wait (vmc bfc sfc : BitVec 6) : exec (.wait vmc bfc sfc) s = execWait vmc bfc sfc s := rfl
@[simp] theorem exec_evpop (sd : BitVec 9) (poll : Bool) : exec (.evpop sd poll) s = execEvpop sd poll s := rfl
@[simp] theorem exec_qpush (sd sa : BitVec 9) : exec (.qpush sd sa) s = execQpush sd sa s := rfl
@[simp] theorem exec_qpop (sd sa : BitVec 9) : exec (.qpop sd sa) s = execQpop sd sa s := rfl
@[simp] theorem exec_mwatch (sa : BitVec 9) : exec (.mwatch sa) s = execMwatch sa s := rfl
@[simp] theorem exec_mwait : exec (.mwait) s = execMwait s := rfl
@[simp] theorem exec_launch (sd sa : BitVec 9) : exec (.launch sd sa) s = execLaunch sd sa s := rfl
@[simp] theorem exec_signal (sd sa : BitVec 9) : exec (.signal sd sa) s = execSignal sd sa s := rfl
@[simp] theorem exec_deal (sd : BitVec 9) : exec (.deal sd) s = execDeal sd s := rfl
@[simp] theorem exec_tkick (sa : BitVec 9) : exec (.tkick sa) s = execTkick sa s := rfl
@[simp] theorem exec_ckpt : exec (.ckpt) s = execCkpt s := rfl
@[simp] theorem exec_clock (sd : BitVec 9) : exec (.clock sd) s = execClock sd s := rfl
@[simp] theorem exec_clksync : exec (.clksync) s = execClksync s := rfl
@[simp] theorem exec_rngk (vd va vb : BitVec 8) : exec (.rngk vd va vb) s = execRngk vd va vb s := rfl
@[simp] theorem exec_rng (vd : BitVec 8) : exec (.rng vd) s = execRng vd s := rfl
@[simp] theorem exec_rngs : exec (.rngs) s = execRngs s := rfl
@[simp] theorem exec_rngf (vd va : BitVec 8) : exec (.rngf vd va) s = execRngf vd va s := rfl
@[simp] theorem exec_rngsv (vd : BitVec 8) : exec (.rngsv vd) s = execRngsv vd s := rfl
@[simp] theorem exec_rngld (va : BitVec 8) : exec (.rngld va) s = execRngld va s := rfl
@[simp] theorem exec_illegalInstruction (w : BitVec 32) : exec (.illegalInstruction w) s = execIllegalInstruction w s := rfl
@[simp] theorem exec_matrixStreamIllegal (w : BitVec 32) : exec (.matrixStreamIllegal w) s = execMatrixStreamIllegal w s := rfl
@[simp] theorem exec_tenderIllegal (w : BitVec 32) : exec (.tenderIllegal w) s = execTenderIllegal w s := rfl
@[simp] theorem exec_mnop : exec (.mnop) s = execMnop s := rfl
@[simp] theorem exec_mend : exec (.mend) s = execMend s := rfl
@[simp] theorem exec_mli (md : BitVec 5) (imm : BitVec 19) : exec (.mli md imm) s = execMli md imm s := rfl
@[simp] theorem exec_maddi (md : BitVec 5) (imm : BitVec 19) : exec (.maddi md imm) s = execMaddi md imm s := rfl
@[simp] theorem exec_mbr (ma : BitVec 5) (cond : BitVec 3) (off : BitVec 16) : exec (.mbr ma cond off) s = execMbr ma cond off s := rfl
@[simp] theorem exec_mloop (ma : BitVec 5) (off : BitVec 16) : exec (.mloop ma off) s = execMloop ma off s := rfl
@[simp] theorem exec_msetf (ma : BitVec 5) : exec (.msetf ma) s = execMsetf ma s := rfl
@[simp] theorem exec_mtile (mc nc : BitVec 4) (ma : BitVec 5) : exec (.mtile mc nc ma) s = execMtile mc nc ma s := rfl
@[simp] theorem exec_mbind (slot : BitVec 2) (h : BitVec 6) (ma mb : BitVec 5) : exec (.mbind slot h ma mb) s = execMbind slot h ma mb s := rfl
@[simp] theorem exec_mrmt (src : BitVec 5) (slot : BitVec 2) (h : BitVec 6) (ma mb : BitVec 5) : exec (.mrmt src slot h ma mb) s = execMrmt src slot h ma mb s := rfl
@[simp] theorem exec_mzero : exec (.mzero) s = execMzero s := rfl
@[simp] theorem exec_mma (ra rb ev : Bool) : exec (.mma ra rb ev) s = execMma ra rb ev s := rfl
@[simp] theorem exec_mmas (ra rb ev : Bool) : exec (.mmas ra rb ev) s = execMmas ra rb ev s := rfl
@[simp] theorem exec_mepi (h : BitVec 6) (bg fin ev : Bool) (md ma mb : BitVec 5) : exec (.mepi h bg fin ev md ma mb) s = execMepi h bg fin ev md ma mb s := rfl
@[simp] theorem exec_mepkv (rot : Bool) (rnd : BitVec 3) (ev : Bool) (md ma mb : BitVec 5) : exec (.mepkv rot rnd ev md ma mb) s = execMepkv rot rnd ev md ma mb s := rfl
@[simp] theorem exec_att (causal : Bool) (pf : BitVec 2) (rnd : BitVec 3) (ev : Bool) (md ma mb : BitVec 5) : exec (.att causal pf rnd ev md ma mb) s = execAtt causal pf rnd ev md ma mb s := rfl
@[simp] theorem exec_mbar (g : Bool) (mode : BitVec 2) (n : BitVec 4) : exec (.mbar g mode n) s = execMbar g mode n s := rfl
@[simp] theorem exec_mwaith (md : BitVec 5) (h : BitVec 6) (st : BitVec 2) (ph : BitVec 1) : exec (.mwaith md h st ph) s = execMwaith md h st ph s := rfl
@[simp] theorem exec_mhset (md : BitVec 5) (h : BitVec 6) (st : BitVec 2) : exec (.mhset md h st) s = execMhset md h st s := rfl
@[simp] theorem exec_mchk (c : Bool) (md : BitVec 5) : exec (.mchk c md) s = execMchk c md s := rfl
@[simp] theorem exec_mstat (md : BitVec 5) (sel : BitVec 4) : exec (.mstat md sel) s = execMstat md sel s := rfl
@[simp] theorem exec_engineWordStart (gang blk : Nat) : exec (.engineWordStart gang blk) s = execEngineWordStart gang blk s := rfl
@[simp] theorem exec_escalationBudget (gang blk : Nat) : exec (.escalationBudget gang blk) s = execEscalationBudget gang blk s := rfl
@[simp] theorem exec_engineWordComplete (gang blk : Nat) : exec (.engineWordComplete gang blk) s = execEngineWordComplete gang blk s := rfl
@[simp] theorem exec_tnop : exec (.tnop) s = execTnop s := rfl
@[simp] theorem exec_tend : exec (.tend) s = execTend s := rfl
@[simp] theorem exec_tli (td : BitVec 6) (imm : BitVec 18) : exec (.tli td imm) s = execTli td imm s := rfl
@[simp] theorem exec_tlih (td : BitVec 6) (sh : BitVec 2) (imm : BitVec 16) : exec (.tlih td sh imm) s = execTlih td sh imm s := rfl
@[simp] theorem exec_tadd (td ta tb : BitVec 6) : exec (.tadd td ta tb) s = execTadd td ta tb s := rfl
@[simp] theorem exec_taddImm (td ta : BitVec 6) (imm : BitVec 11) : exec (.taddImm td ta imm) s = execTaddImm td ta imm s := rfl
@[simp] theorem exec_tsub (td ta tb : BitVec 6) : exec (.tsub td ta tb) s = execTsub td ta tb s := rfl
@[simp] theorem exec_tsubImm (td ta : BitVec 6) (imm : BitVec 11) : exec (.tsubImm td ta imm) s = execTsubImm td ta imm s := rfl
@[simp] theorem exec_tmul (td ta tb : BitVec 6) : exec (.tmul td ta tb) s = execTmul td ta tb s := rfl
@[simp] theorem exec_tmulImm (td ta : BitVec 6) (imm : BitVec 11) : exec (.tmulImm td ta imm) s = execTmulImm td ta imm s := rfl
@[simp] theorem exec_tmad (td ta tb : BitVec 6) : exec (.tmad td ta tb) s = execTmad td ta tb s := rfl
@[simp] theorem exec_tmadImm (td ta : BitVec 6) (imm : BitVec 11) : exec (.tmadImm td ta imm) s = execTmadImm td ta imm s := rfl
@[simp] theorem exec_tshl (td ta tb : BitVec 6) : exec (.tshl td ta tb) s = execTshl td ta tb s := rfl
@[simp] theorem exec_tshlImm (td ta : BitVec 6) (imm : BitVec 11) : exec (.tshlImm td ta imm) s = execTshlImm td ta imm s := rfl
@[simp] theorem exec_tshr (td ta tb : BitVec 6) : exec (.tshr td ta tb) s = execTshr td ta tb s := rfl
@[simp] theorem exec_tshrImm (td ta : BitVec 6) (imm : BitVec 11) : exec (.tshrImm td ta imm) s = execTshrImm td ta imm s := rfl
@[simp] theorem exec_tand (td ta tb : BitVec 6) : exec (.tand td ta tb) s = execTand td ta tb s := rfl
@[simp] theorem exec_tandImm (td ta : BitVec 6) (imm : BitVec 11) : exec (.tandImm td ta imm) s = execTandImm td ta imm s := rfl
@[simp] theorem exec_tor (td ta tb : BitVec 6) : exec (.tor td ta tb) s = execTor td ta tb s := rfl
@[simp] theorem exec_torImm (td ta : BitVec 6) (imm : BitVec 11) : exec (.torImm td ta imm) s = execTorImm td ta imm s := rfl
@[simp] theorem exec_tmin (td ta tb : BitVec 6) : exec (.tmin td ta tb) s = execTmin td ta tb s := rfl
@[simp] theorem exec_tminImm (td ta : BitVec 6) (imm : BitVec 11) : exec (.tminImm td ta imm) s = execTminImm td ta imm s := rfl
@[simp] theorem exec_tmax (td ta tb : BitVec 6) : exec (.tmax td ta tb) s = execTmax td ta tb s := rfl
@[simp] theorem exec_tmaxImm (td ta : BitVec 6) (imm : BitVec 11) : exec (.tmaxImm td ta imm) s = execTmaxImm td ta imm s := rfl
@[simp] theorem exec_tbc (ta : BitVec 6) (cond : BitVec 3) (off : BitVec 15) : exec (.tbc ta cond off) s = execTbc ta cond off s := rfl
@[simp] theorem exec_tba (td ta : BitVec 6) (off : BitVec 12) : exec (.tba td ta off) s = execTba td ta off s := rfl
@[simp] theorem exec_tloop (ta : BitVec 6) (off : BitVec 18) : exec (.tloop ta off) s = execTloop ta off s := rfl
@[simp] theorem exec_tld (td ta : BitVec 6) (sz : BitVec 2) (imm : BitVec 10) : exec (.tld td ta sz imm) s = execTld td ta sz imm s := rfl
@[simp] theorem exec_tldEnv (td : BitVec 6) (idx : BitVec 10) : exec (.tldEnv td idx) s = execTldEnv td idx s := rfl
@[simp] theorem exec_tst (td ta : BitVec 6) (sz : BitVec 2) (imm : BitVec 10) : exec (.tst td ta sz imm) s = execTst td ta sz imm s := rfl
@[simp] theorem exec_tldb (td h tb : BitVec 6) (sz : BitVec 2) : exec (.tldb td h tb sz) s = execTldb td h tb sz s := rfl
@[simp] theorem exec_tdesc (d : BitVec 4) (ta : BitVec 6) : exec (.tdesc d ta) s = execTdesc d ta s := rfl
@[simp] theorem exec_tcopy (d : BitVec 4) (tc tb : BitVec 6) (bg fin ev : Bool) : exec (.tcopy d tc tb bg fin ev) s = execTcopy d tc tb bg fin ev s := rfl
@[simp] theorem exec_tstore (d : BitVec 4) (tc tb : BitVec 6) (bg fin ev : Bool) : exec (.tstore d tc tb bg fin ev) s = execTstore d tc tb bg fin ev s := rfl
@[simp] theorem exec_tcopyl (d : BitVec 4) (tc tn : BitVec 6) (k ring : BitVec 3) : exec (.tcopyl d tc tn k ring) s = execTcopyl d tc tn k ring s := rfl
@[simp] theorem exec_tgath (d : BitVec 4) (ti tn h : BitVec 6) : exec (.tgath d ti tn h) s = execTgath d ti tn h s := rfl
@[simp] theorem exec_tscat (d : BitVec 4) (ti tn h : BitVec 6) : exec (.tscat d ti tn h) s = execTscat d ti tn h s := rfl
@[simp] theorem exec_tkvr (d : BitVec 4) (tk tn : BitVec 6) (bg fin ev : Bool) : exec (.tkvr d tk tn bg fin ev) s = execTkvr d tk tn bg fin ev s := rfl
@[simp] theorem exec_tkvw (d : BitVec 4) (tk tn : BitVec 6) (bg fin ev : Bool) : exec (.tkvw d tk tn bg fin ev) s = execTkvw d tk tn bg fin ev s := rfl
@[simp] theorem exec_tcvt (dd ds : BitVec 4) (rnd : BitVec 3) (bg fin : Bool) : exec (.tcvt dd ds rnd bg fin) s = execTcvt dd ds rnd bg fin s := rfl
@[simp] theorem exec_tred (dd ds : BitVec 4) (tn : BitVec 6) (rnd : BitVec 3) (sat : Bool) : exec (.tred dd ds tn rnd sat) s = execTred dd ds tn rnd sat s := rfl
@[simp] theorem exec_tmcast (d : BitVec 4) (tc tm : BitVec 6) (bg fin ev : Bool) : exec (.tmcast d tc tm bg fin ev) s = execTmcast d tc tm bg fin ev s := rfl
@[simp] theorem exec_tbar (g : Bool) (n : BitVec 4) (mode : BitVec 2) : exec (.tbar g n mode) s = execTbar g n mode s := rfl
@[simp] theorem exec_thset (h : BitVec 6) (st : BitVec 2) : exec (.thset h st) s = execThset h st s := rfl
@[simp] theorem exec_thwait (h : BitVec 6) (st : BitVec 2) (ph : BitVec 1) : exec (.thwait h st ph) s = execThwait h st ph s := rfl
@[simp] theorem exec_tevt (ta : BitVec 6) (tag : BitVec 16) (f c : Bool) : exec (.tevt ta tag f c) s = execTevt ta tag f c s := rfl
@[simp] theorem exec_tsend (d : BitVec 4) (tc tq : BitVec 6) (ev : Bool) : exec (.tsend d tc tq ev) s = execTsend d tc tq ev s := rfl
@[simp] theorem exec_trecv (d : BitVec 4) (tc tq : BitVec 6) (ev : Bool) : exec (.trecv d tc tq ev) s = execTrecv d tc tq ev s := rfl
@[simp] theorem exec_tfence (scope : BitVec 3) : exec (.tfence scope) s = execTfence scope s := rfl
@[simp] theorem exec_twait (n : BitVec 8) : exec (.twait n) s = execTwait n s := rfl
@[simp] theorem exec_ttrap (imm : BitVec 24) : exec (.ttrap imm) s = execTtrap imm s := rfl
@[simp] theorem exec_tcopylIteration (gang blk k : Nat) : exec (.tcopylIteration gang blk k) s = execTcopylIteration gang blk k s := rfl
@[simp] theorem exec_copyWordComplete (gang blk k : Nat) : exec (.copyWordComplete gang blk k) s = execCopyWordComplete gang blk k s := rfl
@[simp] theorem exec_eventPost (gang blk : Nat) : exec (.eventPost gang blk) s = execEventPost gang blk s := rfl
@[simp] theorem exec_barrierRelease (gang blk b : Nat) : exec (.barrierRelease gang blk b) s = execBarrierRelease gang blk b s := rfl
@[simp] theorem exec_variableLatencyWriteback (gang blk grp k : Nat) : exec (.variableLatencyWriteback gang blk grp k) s = execVariableLatencyWriteback gang blk grp k s := rfl
@[simp] theorem exec_replay (core : Nat) (unit : Nat × Nat) (matched : Bool) : exec (.replay core unit matched) s = execReplay core unit matched s := rfl
@[simp] theorem exec_beaconTake (cluster : Nat) : exec (.beaconTake cluster) s = execBeaconTake cluster s := rfl
@[simp] theorem exec_beaconComplete (core entry : Nat) (decided : Bool) : exec (.beaconComplete core entry decided) s = execBeaconComplete core entry decided s := rfl
@[simp] theorem exec_lanternTake (cluster : Nat) : exec (.lanternTake cluster) s = execLanternTake cluster s := rfl
@[simp] theorem exec_lanternComplete (cluster : Nat) : exec (.lanternComplete cluster) s = execLanternComplete cluster s := rfl
@[simp] theorem exec_commit (gang : Nat) (bad : Bool) : exec (.commit gang bad) s = execCommit gang bad s := rfl
@[simp] theorem exec_tinvctl (val : BitVec 32) : exec (.tinvctl val) s = execTinvctl val s := rfl
@[simp] theorem exec_translationInvalidationDone : exec (.translationInvalidationDone) s = execTranslationInvalidationDone s := rfl
@[simp] theorem exec_kvinvctl (val : BitVec 32) : exec (.kvinvctl val) s = execKvinvctl val s := rfl
@[simp] theorem exec_kvInvalidationDone : exec (.kvInvalidationDone) s = execKvInvalidationDone s := rfl
@[simp] theorem exec_xrel (val : BitVec 32) : exec (.xrel val) s = execXrel val s := rfl
@[simp] theorem exec_xfail (val : BitVec 32) : exec (.xfail val) s = execXfail val s := rfl
@[simp] theorem exec_handlerStart (gang : Nat) : exec (.handlerStart gang) s = execHandlerStart gang s := rfl
@[simp] theorem exec_taskDequeue : exec (.taskDequeue) s = execTaskDequeue s := rfl
@[simp] theorem exec_ageing (queue : BitVec 6) : exec (.ageing queue) s = execAgeing queue s := rfl
@[simp] theorem exec_gangPlacement : exec (.gangPlacement) s = execGangPlacement s := rfl
@[simp] theorem exec_reservation : exec (.reservation) s = execReservation s := rfl
@[simp] theorem exec_drainLimit (gang : Nat) : exec (.drainLimit gang) s = execDrainLimit gang s := rfl
@[simp] theorem exec_saveComplete (gang : Nat) : exec (.saveComplete gang) s = execSaveComplete gang s := rfl
@[simp] theorem exec_edgeAction (cluster : Nat) (bad : Option Nat) : exec (.edgeAction cluster bad) s = execEdgeAction cluster bad s := rfl
@[simp] theorem exec_gangStart (gang : Nat) : exec (.gangStart gang) s = execGangStart gang s := rfl
@[simp] theorem exec_gangCompletion (gang : Nat) : exec (.gangCompletion gang) s = execGangCompletion gang s := rfl
@[simp] theorem exec_gangRetirement (gang : Nat) : exec (.gangRetirement gang) s = execGangRetirement gang s := rfl
@[simp] theorem exec_taskRetirement (task : Nat) : exec (.taskRetirement task) s = execTaskRetirement task s := rfl
@[simp] theorem exec_hread (tag : BitVec 16) (flen : BitVec 32) (faddr : BitVec 64) : exec (.hread tag flen faddr) s = execHread tag flen faddr s := rfl
@[simp] theorem exec_hwrite (faddr : BitVec 64) (data : BitVec 1024) (mask : BitVec 128) : exec (.hwrite faddr data mask) s = execHwrite faddr data mask s := rfl
@[simp] theorem exec_notify (flen : BitVec 32) : exec (.notify flen) s = execNotify flen s := rfl
@[simp] theorem exec_reply (faddr : BitVec 64) (payload : BitVec 512) : exec (.reply faddr payload) s = execReply faddr payload s := rfl
@[simp] theorem exec_tinv (tag : BitVec 16) (flen : BitVec 32) (faddr : BitVec 64) : exec (.tinv tag flen faddr) s = execTinv tag flen faddr s := rfl
@[simp] theorem exec_cancel (flen : BitVec 32) (faddr : BitVec 64) : exec (.cancel flen faddr) s = execCancel flen faddr s := rfl
@[simp] theorem exec_srdata (tag : BitVec 16) (data : BitVec 1024) : exec (.srdata tag data) s = execSrdata tag data s := rfl
@[simp] theorem exec_swack (tag : BitVec 16) : exec (.swack tag) s = execSwack tag s := rfl
@[simp] theorem exec_sares (tag : BitVec 16) (stat : BitVec 8) (old : BitVec 64) : exec (.sares tag stat old) s = execSares tag stat old s := rfl
@[simp] theorem exec_discardedFlit (ftype : BitVec 8) : exec (.discardedFlit ftype) s = execDiscardedFlit ftype s := rfl
@[simp] theorem exec_mgmtWrite (tag : BitVec 16) (flen : BitVec 32) (faddr : BitVec 64) : exec (.mgmtWrite tag flen faddr) s = execMgmtWrite tag flen faddr s := rfl
@[simp] theorem exec_mremove (tag : BitVec 16) (faddr : BitVec 64) : exec (.mremove tag faddr) s = execMremove tag faddr s := rfl
@[simp] theorem exec_mattcmd (tag : BitVec 16) (faddr : BitVec 64) : exec (.mattcmd tag faddr) s = execMattcmd tag faddr s := rfl
@[simp] theorem exec_attestationReport : exec (.attestationReport) s = execAttestationReport s := rfl
@[simp] theorem exec_powerGood (failed : BitVec 4) : exec (.powerGood failed) s = execPowerGood failed s := rfl
@[simp] theorem exec_powerCap : exec (.powerCap) s = execPowerCap s := rfl
@[simp] theorem exec_outletAbove60 : exec (.outletAbove60) s = execOutletAbove60 s := rfl
@[simp] theorem exec_outletAbove70 : exec (.outletAbove70) s = execOutletAbove70 s := rfl
@[simp] theorem exec_announce (port : BitVec 4) (chan : BitVec 8) (len : BitVec 64) : exec (.announce port chan len) s = execAnnounce port chan len s := rfl
@[simp] theorem exec_grant (port : BitVec 4) (chan : BitVec 8) (len : BitVec 64) : exec (.grant port chan len) s = execGrant port chan len s := rfl
@[simp] theorem exec_peerData (port : BitVec 4) (chan : BitVec 8) (data : BitVec 1792) : exec (.peerData port chan data) s = execPeerData port chan data s := rfl
@[simp] theorem exec_peerCompletion (port : BitVec 4) (chan : BitVec 8) : exec (.peerCompletion port chan) s = execPeerCompletion port chan s := rfl
@[simp] theorem exec_portInactive (port : BitVec 4) : exec (.portInactive port) s = execPortInactive port s := rfl
@[simp] theorem exec_pageWalkEnd (gang blk grp : Nat) : exec (.pageWalkEnd gang blk grp) s = execPageWalkEnd gang blk grp s := rfl
@[simp] theorem exec_averageBelowPcap : exec (.averageBelowPcap) s = execAverageBelowPcap s := rfl
@[simp] theorem exec_outletBelow60 : exec (.outletBelow60) s = execOutletBelow60 s := rfl
@[simp] theorem exec_moduleLimitsExceeded : exec (.moduleLimitsExceeded) s = execModuleLimitsExceeded s := rfl
@[simp] theorem exec_portActive (port : BitVec 4) : exec (.portActive port) s = execPortActive port s := rfl
@[simp] theorem exec_uncorrectableErrorInLogic (kind : BitVec 4) (unit : BitVec 16) : exec (.uncorrectableErrorInLogic kind unit) s = execUncorrectableErrorInLogic kind unit s := rfl

end Sys2Proof.Machine
end

