-- ==== Sys2Proof/Laws/Map.lean ====
section
/-!
SUPPORT. Sparse maps: reading after a write, and the canonical form that every operation keeps.
-/

namespace Sys2Proof.Laws
open Sys2Proof.Machine

variable {α : Type} {d x : α} {m : SMap α} {n k lo : Nat}

/-! ## Reading -/

@[simp] theorem get_nil : SMap.get d ([] : SMap α) n = d := rfl

theorem get_erase_self (m : SMap α) (n : Nat) : SMap.get d (m.erase n) n = d := by
  induction m with
  | nil => rfl
  | cons e r ih =>
    obtain ⟨k, v⟩ := e
    by_cases h : k = n <;> simp [SMap.erase, h, SMap.get, ih]

theorem get_erase_other (m : SMap α) (h : k ≠ n) : SMap.get d (m.erase n) k = SMap.get d m k := by
  induction m with
  | nil => rfl
  | cons e r ih =>
    obtain ⟨j, v⟩ := e
    by_cases hj : j = n
    · subst hj; simp [SMap.erase, SMap.get, ih, Ne.symm h]
    · rw [SMap.erase, if_neg hj, SMap.get, SMap.get, ih]

theorem get_insert_self (m : SMap α) (h : ∀ e ∈ m, e.1 ≠ n) : SMap.get d (m.insert n x) n = x := by
  induction m with
  | nil => simp [SMap.insert, SMap.get]
  | cons e r ih =>
    obtain ⟨j, v⟩ := e
    have hj : j ≠ n := h (j, v) List.mem_cons_self
    by_cases hl : n < j <;> simp [SMap.insert, SMap.get, hl, hj, ih fun e he => h e (List.mem_cons_of_mem _ he)]

theorem get_insert_other (m : SMap α) (h : k ≠ n) : SMap.get d (m.insert n x) k = SMap.get d m k := by
  induction m with
  | nil => simp [SMap.insert, SMap.get, h.symm]
  | cons e r ih =>
    obtain ⟨j, v⟩ := e
    by_cases hl : n < j
    · rw [SMap.insert, if_pos hl, SMap.get, if_neg h.symm]
    · rw [SMap.insert, if_neg hl, SMap.get, SMap.get, ih]

theorem key_of_mem_erase (m : SMap α) : ∀ e ∈ m.erase n, e.1 ≠ n := by
  induction m with
  | nil => simp [SMap.erase]
  | cons e r ih =>
    obtain ⟨j, v⟩ := e
    by_cases hj : j = n <;> simp [SMap.erase, hj] <;> intro a b hb <;> exact ih (a, b) hb

variable [DecidableEq α]

/-- What a key holds after a write. -/
@[simp] theorem get_set_self (m : SMap α) : SMap.get d (SMap.set d m n x) n = x := by
  unfold SMap.set
  split
  · rw [get_erase_self]; exact Eq.symm ‹_›
  · exact get_insert_self _ (key_of_mem_erase m)

/-- A write leaves every other key alone. -/
theorem get_set_other (m : SMap α) (h : k ≠ n) : SMap.get d (SMap.set d m n x) k = SMap.get d m k := by
  unfold SMap.set
  split
  · exact get_erase_other m h
  · rw [get_insert_other _ h, get_erase_other m h]

theorem get_set (m : SMap α) : SMap.get d (SMap.set d m n x) k = if k = n then x else SMap.get d m k := by
  by_cases h : k = n
  · subst h; simp
  · simp [h, get_set_other]

omit [DecidableEq α] in
theorem erase_erase (m : SMap α) (n : Nat) : (m.erase n).erase n = m.erase n := by
  induction m with
  | nil => rfl
  | cons e r ih => obtain ⟨j, v⟩ := e; by_cases h : j = n <;> simp [SMap.erase, h, ih]

omit [DecidableEq α] in
theorem erase_insert (m : SMap α) (n : Nat) : (m.insert n x).erase n = m.erase n := by
  induction m with
  | nil => simp [SMap.insert, SMap.erase]
  | cons e r ih => obtain ⟨j, v⟩ := e; by_cases h : n < j <;> by_cases hj : j = n <;> simp [SMap.insert, SMap.erase, h, hj, ih]

/-- Of two writes to one key the second stands. -/
theorem set_set (m : SMap α) (y : α) : SMap.set d (SMap.set d m n x) n y = SMap.set d m n y := by
  have h : (SMap.set d m n x).erase n = m.erase n := by unfold SMap.set; split <;> simp [erase_erase, erase_insert]
  unfold SMap.set at *
  rw [h]

/-! ## The canonical form -/

theorem wfFrom_mono (h : lo ≤ k) (hm : SMap.wfFrom d k m = true) : SMap.wfFrom d lo m = true := by
  cases m with
  | nil => rfl
  | cons e r =>
    simp only [SMap.wfFrom, Bool.and_eq_true, decide_eq_true_eq] at hm ⊢
    exact ⟨⟨by omega, hm.1.2⟩, hm.2⟩

theorem wfFrom_erase (hm : SMap.wfFrom d lo m = true) : SMap.wfFrom d lo (m.erase n) = true := by
  induction m generalizing lo with
  | nil => rfl
  | cons e r ih =>
    obtain ⟨j, v⟩ := e
    simp only [SMap.wfFrom, Bool.and_eq_true, decide_eq_true_eq] at hm
    by_cases hj : j = n
    · simp only [SMap.erase, hj, if_true]; exact wfFrom_mono (by omega) (ih hm.2)
    · simp only [SMap.erase, hj, if_false, SMap.wfFrom, Bool.and_eq_true, decide_eq_true_eq]
      exact ⟨hm.1, ih hm.2⟩

theorem wfFrom_insert (hm : SMap.wfFrom d lo m = true) (hn : ∀ e ∈ m, e.1 ≠ n) (hlo : lo ≤ n) (hx : x ≠ d) :
    SMap.wfFrom d lo (m.insert n x) = true := by
  induction m generalizing lo with
  | nil => simp [SMap.insert, SMap.wfFrom, hlo, hx]
  | cons e r ih =>
    obtain ⟨j, v⟩ := e
    have hj : j ≠ n := hn (j, v) List.mem_cons_self
    simp only [SMap.wfFrom, Bool.and_eq_true, decide_eq_true_eq] at hm
    by_cases hl : n < j
    · simp only [SMap.insert, hl, if_true, SMap.wfFrom, Bool.and_eq_true, decide_eq_true_eq]
      exact ⟨⟨hlo, hx⟩, ⟨⟨by omega, hm.1.2⟩, hm.2⟩⟩
    · simp only [SMap.insert, hl, if_false, SMap.wfFrom, Bool.and_eq_true, decide_eq_true_eq]
      exact ⟨hm.1, ih hm.2 (fun e he => hn e (List.mem_cons_of_mem _ he)) (by omega)⟩

/-- A write keeps the canonical form. -/
theorem wf_set (hm : SMap.wf d m = true) : SMap.wf d (SMap.set d m n x) = true := by
  unfold SMap.wf SMap.set at *
  split
  · exact wfFrom_erase hm
  · exact wfFrom_insert (wfFrom_erase hm) (key_of_mem_erase m) (Nat.zero_le _) ‹_›

/-- A write of a run of keys keeps the canonical form. -/
theorem wf_setList (xs : List α) (hm : SMap.wf d m = true) : SMap.wf d (SMap.setList d m n xs) = true := by
  induction xs generalizing m n with
  | nil => exact hm
  | cons x r ih => exact ih (wf_set hm)

/-- What a key holds after a write of a run of keys. -/
theorem get_setList (xs : List α) (m : SMap α) :
    SMap.get d (SMap.setList d m n xs) k = if n ≤ k ∧ k < n + xs.length then (xs[k - n]?).getD d else SMap.get d m k := by
  induction xs generalizing m n with
  | nil => rw [SMap.setList, if_neg (by simp only [List.length_nil]; omega)]
  | cons x r ih =>
    simp only [SMap.setList, ih, get_set, List.length_cons]
    by_cases h1 : k = n
    · subst h1; rw [if_neg (by omega), if_pos rfl, if_pos (by omega)]; simp
    · by_cases h2 : n + 1 ≤ k ∧ k < n + 1 + r.length
      · have : k - n = (k - (n + 1)) + 1 := by omega
        rw [if_pos h2, if_pos (by omega), this]; simp
      · rw [if_neg h2, if_neg h1, if_neg (by omega)]

end Sys2Proof.Laws
end

