-- ==== Sys2Proof/Laws/State.lean ====
section
/-!
SUPPORT. What each update of a unit's record leaves of every field of the state, and what reading a unit's record gives after an update. No later
proof unfolds a record update.
-/

namespace Sys2Proof.Laws
open Sys2Proof.Machine

variable (s : State)

/-! ## Fields -/

@[simp] theorem setGroupAt_now (gang blk grp : Nat) (g : Group) : (setGroupAt s gang blk grp g).now = s.now := rfl
@[simp] theorem setGroupAt_cur (gang blk grp : Nat) (g : Group) : (setGroupAt s gang blk grp g).cur = s.cur := rfl
@[simp] theorem setGroupAt_turns (gang blk grp : Nat) (g : Group) : (setGroupAt s gang blk grp g).turns = s.turns := rfl
@[simp] theorem setGroupAt_fresh (gang blk grp : Nat) (g : Group) : (setGroupAt s gang blk grp g).fresh = s.fresh := rfl
@[simp] theorem setGroupAt_parkMask (gang blk grp : Nat) (g : Group) : (setGroupAt s gang blk grp g).parkMask = s.parkMask := rfl
@[simp] theorem setGroupAt_blocks (gang blk grp : Nat) (g : Group) : (setGroupAt s gang blk grp g).blocks = s.blocks := rfl
@[simp] theorem setGroupAt_gangs (gang blk grp : Nat) (g : Group) : (setGroupAt s gang blk grp g).gangs = s.gangs := rfl
@[simp] theorem setGroupAt_tasks (gang blk grp : Nat) (g : Group) : (setGroupAt s gang blk grp g).tasks = s.tasks := rfl
@[simp] theorem setGroupAt_cores (gang blk grp : Nat) (g : Group) : (setGroupAt s gang blk grp g).cores = s.cores := rfl
@[simp] theorem setGroupAt_clusters (gang blk grp : Nat) (g : Group) : (setGroupAt s gang blk grp g).clusters = s.clusters := rfl
@[simp] theorem setGroupAt_mem (gang blk grp : Nat) (g : Group) : (setGroupAt s gang blk grp g).mem = s.mem := rfl
@[simp] theorem setGroupAt_poison (gang blk grp : Nat) (g : Group) : (setGroupAt s gang blk grp g).poison = s.poison := rfl
@[simp] theorem setGroupAt_mgmt (gang blk grp : Nat) (g : Group) : (setGroupAt s gang blk grp g).mgmt = s.mgmt := rfl
@[simp] theorem setGroupAt_outbox (gang blk grp : Nat) (g : Group) : (setGroupAt s gang blk grp g).outbox = s.outbox := rfl
@[simp] theorem setGroupAt_calls (gang blk grp : Nat) (g : Group) : (setGroupAt s gang blk grp g).calls = s.calls := rfl
@[simp] theorem setGroupAt_hostAccs (gang blk grp : Nat) (g : Group) : (setGroupAt s gang blk grp g).hostAccs = s.hostAccs := rfl
@[simp] theorem setGroupAt_waiters (gang blk grp : Nat) (g : Group) : (setGroupAt s gang blk grp g).waiters = s.waiters := rfl
@[simp] theorem setGroupAt_nextTag (gang blk grp : Nat) (g : Group) : (setGroupAt s gang blk grp g).nextTag = s.nextTag := rfl
@[simp] theorem setGroupAt_nextFlight (gang blk grp : Nat) (g : Group) : (setGroupAt s gang blk grp g).nextFlight = s.nextFlight := rfl
@[simp] theorem setGroupAt_ports (gang blk grp : Nat) (g : Group) : (setGroupAt s gang blk grp g).ports = s.ports := rfl
@[simp] theorem setGroupAt_queues (gang blk grp : Nat) (g : Group) : (setGroupAt s gang blk grp g).queues = s.queues := rfl
@[simp] theorem setGroupAt_served (gang blk grp : Nat) (g : Group) : (setGroupAt s gang blk grp g).served = s.served := rfl
@[simp] theorem setGroupAt_recent (gang blk grp : Nat) (g : Group) : (setGroupAt s gang blk grp g).recent = s.recent := rfl
@[simp] theorem setGroupAt_nextTask (gang blk grp : Nat) (g : Group) : (setGroupAt s gang blk grp g).nextTask = s.nextTask := rfl
@[simp] theorem setGroupAt_tinvs (gang blk grp : Nat) (g : Group) : (setGroupAt s gang blk grp g).tinvs = s.tinvs := rfl
@[simp] theorem setGroupAt_kvinvs (gang blk grp : Nat) (g : Group) : (setGroupAt s gang blk grp g).kvinvs = s.kvinvs := rfl
@[simp] theorem setGroupAt_rings (gang blk grp : Nat) (g : Group) : (setGroupAt s gang blk grp g).rings = s.rings := rfl
@[simp] theorem setGroupAt_steals (gang blk grp : Nat) (g : Group) : (setGroupAt s gang blk grp g).steals = s.steals := rfl
@[simp] theorem setGroupAt_lxUsed (gang blk grp : Nat) (g : Group) : (setGroupAt s gang blk grp g).lxUsed = s.lxUsed := rfl
@[simp] theorem setGroupAt_unitEvents (gang blk grp : Nat) (g : Group) : (setGroupAt s gang blk grp g).unitEvents = s.unitEvents := rfl
@[simp] theorem setGroupAt_declared (gang blk grp : Nat) (g : Group) : (setGroupAt s gang blk grp g).declared = s.declared := rfl
@[simp] theorem setGroupAt_gaps (gang blk grp : Nat) (g : Group) : (setGroupAt s gang blk grp g).gaps = s.gaps := rfl
@[simp] theorem setGroupAt_hot (gang blk grp : Nat) (g : Group) : (setGroupAt s gang blk grp g).hot = s.hot := rfl
@[simp] theorem setGroupAt_off (gang blk grp : Nat) (g : Group) : (setGroupAt s gang blk grp g).off = s.off := rfl
@[simp] theorem setGroupAt_boot (gang blk grp : Nat) (g : Group) : (setGroupAt s gang blk grp g).boot = s.boot := rfl

@[simp] theorem setBlockAt_now (gang blk : Nat) (b : Block) : (setBlockAt s gang blk b).now = s.now := rfl
@[simp] theorem setBlockAt_cur (gang blk : Nat) (b : Block) : (setBlockAt s gang blk b).cur = s.cur := rfl
@[simp] theorem setBlockAt_turns (gang blk : Nat) (b : Block) : (setBlockAt s gang blk b).turns = s.turns := rfl
@[simp] theorem setBlockAt_fresh (gang blk : Nat) (b : Block) : (setBlockAt s gang blk b).fresh = s.fresh := rfl
@[simp] theorem setBlockAt_parkMask (gang blk : Nat) (b : Block) : (setBlockAt s gang blk b).parkMask = s.parkMask := rfl
@[simp] theorem setBlockAt_groups (gang blk : Nat) (b : Block) : (setBlockAt s gang blk b).groups = s.groups := rfl
@[simp] theorem setBlockAt_gangs (gang blk : Nat) (b : Block) : (setBlockAt s gang blk b).gangs = s.gangs := rfl
@[simp] theorem setBlockAt_tasks (gang blk : Nat) (b : Block) : (setBlockAt s gang blk b).tasks = s.tasks := rfl
@[simp] theorem setBlockAt_cores (gang blk : Nat) (b : Block) : (setBlockAt s gang blk b).cores = s.cores := rfl
@[simp] theorem setBlockAt_clusters (gang blk : Nat) (b : Block) : (setBlockAt s gang blk b).clusters = s.clusters := rfl
@[simp] theorem setBlockAt_mem (gang blk : Nat) (b : Block) : (setBlockAt s gang blk b).mem = s.mem := rfl
@[simp] theorem setBlockAt_poison (gang blk : Nat) (b : Block) : (setBlockAt s gang blk b).poison = s.poison := rfl
@[simp] theorem setBlockAt_mgmt (gang blk : Nat) (b : Block) : (setBlockAt s gang blk b).mgmt = s.mgmt := rfl
@[simp] theorem setBlockAt_outbox (gang blk : Nat) (b : Block) : (setBlockAt s gang blk b).outbox = s.outbox := rfl
@[simp] theorem setBlockAt_calls (gang blk : Nat) (b : Block) : (setBlockAt s gang blk b).calls = s.calls := rfl
@[simp] theorem setBlockAt_hostAccs (gang blk : Nat) (b : Block) : (setBlockAt s gang blk b).hostAccs = s.hostAccs := rfl
@[simp] theorem setBlockAt_waiters (gang blk : Nat) (b : Block) : (setBlockAt s gang blk b).waiters = s.waiters := rfl
@[simp] theorem setBlockAt_nextTag (gang blk : Nat) (b : Block) : (setBlockAt s gang blk b).nextTag = s.nextTag := rfl
@[simp] theorem setBlockAt_nextFlight (gang blk : Nat) (b : Block) : (setBlockAt s gang blk b).nextFlight = s.nextFlight := rfl
@[simp] theorem setBlockAt_ports (gang blk : Nat) (b : Block) : (setBlockAt s gang blk b).ports = s.ports := rfl
@[simp] theorem setBlockAt_queues (gang blk : Nat) (b : Block) : (setBlockAt s gang blk b).queues = s.queues := rfl
@[simp] theorem setBlockAt_served (gang blk : Nat) (b : Block) : (setBlockAt s gang blk b).served = s.served := rfl
@[simp] theorem setBlockAt_recent (gang blk : Nat) (b : Block) : (setBlockAt s gang blk b).recent = s.recent := rfl
@[simp] theorem setBlockAt_nextTask (gang blk : Nat) (b : Block) : (setBlockAt s gang blk b).nextTask = s.nextTask := rfl
@[simp] theorem setBlockAt_tinvs (gang blk : Nat) (b : Block) : (setBlockAt s gang blk b).tinvs = s.tinvs := rfl
@[simp] theorem setBlockAt_kvinvs (gang blk : Nat) (b : Block) : (setBlockAt s gang blk b).kvinvs = s.kvinvs := rfl
@[simp] theorem setBlockAt_rings (gang blk : Nat) (b : Block) : (setBlockAt s gang blk b).rings = s.rings := rfl
@[simp] theorem setBlockAt_steals (gang blk : Nat) (b : Block) : (setBlockAt s gang blk b).steals = s.steals := rfl
@[simp] theorem setBlockAt_lxUsed (gang blk : Nat) (b : Block) : (setBlockAt s gang blk b).lxUsed = s.lxUsed := rfl
@[simp] theorem setBlockAt_unitEvents (gang blk : Nat) (b : Block) : (setBlockAt s gang blk b).unitEvents = s.unitEvents := rfl
@[simp] theorem setBlockAt_declared (gang blk : Nat) (b : Block) : (setBlockAt s gang blk b).declared = s.declared := rfl
@[simp] theorem setBlockAt_gaps (gang blk : Nat) (b : Block) : (setBlockAt s gang blk b).gaps = s.gaps := rfl
@[simp] theorem setBlockAt_hot (gang blk : Nat) (b : Block) : (setBlockAt s gang blk b).hot = s.hot := rfl
@[simp] theorem setBlockAt_off (gang blk : Nat) (b : Block) : (setBlockAt s gang blk b).off = s.off := rfl
@[simp] theorem setBlockAt_boot (gang blk : Nat) (b : Block) : (setBlockAt s gang blk b).boot = s.boot := rfl

@[simp] theorem setGangAt_now (gang : Nat) (g : Gang) : (setGangAt s gang g).now = s.now := rfl
@[simp] theorem setGangAt_cur (gang : Nat) (g : Gang) : (setGangAt s gang g).cur = s.cur := rfl
@[simp] theorem setGangAt_turns (gang : Nat) (g : Gang) : (setGangAt s gang g).turns = s.turns := rfl
@[simp] theorem setGangAt_fresh (gang : Nat) (g : Gang) : (setGangAt s gang g).fresh = s.fresh := rfl
@[simp] theorem setGangAt_parkMask (gang : Nat) (g : Gang) : (setGangAt s gang g).parkMask = s.parkMask := rfl
@[simp] theorem setGangAt_groups (gang : Nat) (g : Gang) : (setGangAt s gang g).groups = s.groups := rfl
@[simp] theorem setGangAt_blocks (gang : Nat) (g : Gang) : (setGangAt s gang g).blocks = s.blocks := rfl
@[simp] theorem setGangAt_tasks (gang : Nat) (g : Gang) : (setGangAt s gang g).tasks = s.tasks := rfl
@[simp] theorem setGangAt_cores (gang : Nat) (g : Gang) : (setGangAt s gang g).cores = s.cores := rfl
@[simp] theorem setGangAt_clusters (gang : Nat) (g : Gang) : (setGangAt s gang g).clusters = s.clusters := rfl
@[simp] theorem setGangAt_mem (gang : Nat) (g : Gang) : (setGangAt s gang g).mem = s.mem := rfl
@[simp] theorem setGangAt_poison (gang : Nat) (g : Gang) : (setGangAt s gang g).poison = s.poison := rfl
@[simp] theorem setGangAt_mgmt (gang : Nat) (g : Gang) : (setGangAt s gang g).mgmt = s.mgmt := rfl
@[simp] theorem setGangAt_outbox (gang : Nat) (g : Gang) : (setGangAt s gang g).outbox = s.outbox := rfl
@[simp] theorem setGangAt_calls (gang : Nat) (g : Gang) : (setGangAt s gang g).calls = s.calls := rfl
@[simp] theorem setGangAt_hostAccs (gang : Nat) (g : Gang) : (setGangAt s gang g).hostAccs = s.hostAccs := rfl
@[simp] theorem setGangAt_waiters (gang : Nat) (g : Gang) : (setGangAt s gang g).waiters = s.waiters := rfl
@[simp] theorem setGangAt_nextTag (gang : Nat) (g : Gang) : (setGangAt s gang g).nextTag = s.nextTag := rfl
@[simp] theorem setGangAt_nextFlight (gang : Nat) (g : Gang) : (setGangAt s gang g).nextFlight = s.nextFlight := rfl
@[simp] theorem setGangAt_ports (gang : Nat) (g : Gang) : (setGangAt s gang g).ports = s.ports := rfl
@[simp] theorem setGangAt_queues (gang : Nat) (g : Gang) : (setGangAt s gang g).queues = s.queues := rfl
@[simp] theorem setGangAt_served (gang : Nat) (g : Gang) : (setGangAt s gang g).served = s.served := rfl
@[simp] theorem setGangAt_recent (gang : Nat) (g : Gang) : (setGangAt s gang g).recent = s.recent := rfl
@[simp] theorem setGangAt_nextTask (gang : Nat) (g : Gang) : (setGangAt s gang g).nextTask = s.nextTask := rfl
@[simp] theorem setGangAt_tinvs (gang : Nat) (g : Gang) : (setGangAt s gang g).tinvs = s.tinvs := rfl
@[simp] theorem setGangAt_kvinvs (gang : Nat) (g : Gang) : (setGangAt s gang g).kvinvs = s.kvinvs := rfl
@[simp] theorem setGangAt_rings (gang : Nat) (g : Gang) : (setGangAt s gang g).rings = s.rings := rfl
@[simp] theorem setGangAt_steals (gang : Nat) (g : Gang) : (setGangAt s gang g).steals = s.steals := rfl
@[simp] theorem setGangAt_lxUsed (gang : Nat) (g : Gang) : (setGangAt s gang g).lxUsed = s.lxUsed := rfl
@[simp] theorem setGangAt_unitEvents (gang : Nat) (g : Gang) : (setGangAt s gang g).unitEvents = s.unitEvents := rfl
@[simp] theorem setGangAt_declared (gang : Nat) (g : Gang) : (setGangAt s gang g).declared = s.declared := rfl
@[simp] theorem setGangAt_gaps (gang : Nat) (g : Gang) : (setGangAt s gang g).gaps = s.gaps := rfl
@[simp] theorem setGangAt_hot (gang : Nat) (g : Gang) : (setGangAt s gang g).hot = s.hot := rfl
@[simp] theorem setGangAt_off (gang : Nat) (g : Gang) : (setGangAt s gang g).off = s.off := rfl
@[simp] theorem setGangAt_boot (gang : Nat) (g : Gang) : (setGangAt s gang g).boot = s.boot := rfl

@[simp] theorem setTaskAt_now (t : Nat) (x : Task) : (setTaskAt s t x).now = s.now := rfl
@[simp] theorem setTaskAt_cur (t : Nat) (x : Task) : (setTaskAt s t x).cur = s.cur := rfl
@[simp] theorem setTaskAt_turns (t : Nat) (x : Task) : (setTaskAt s t x).turns = s.turns := rfl
@[simp] theorem setTaskAt_fresh (t : Nat) (x : Task) : (setTaskAt s t x).fresh = s.fresh := rfl
@[simp] theorem setTaskAt_parkMask (t : Nat) (x : Task) : (setTaskAt s t x).parkMask = s.parkMask := rfl
@[simp] theorem setTaskAt_groups (t : Nat) (x : Task) : (setTaskAt s t x).groups = s.groups := rfl
@[simp] theorem setTaskAt_blocks (t : Nat) (x : Task) : (setTaskAt s t x).blocks = s.blocks := rfl
@[simp] theorem setTaskAt_gangs (t : Nat) (x : Task) : (setTaskAt s t x).gangs = s.gangs := rfl
@[simp] theorem setTaskAt_cores (t : Nat) (x : Task) : (setTaskAt s t x).cores = s.cores := rfl
@[simp] theorem setTaskAt_clusters (t : Nat) (x : Task) : (setTaskAt s t x).clusters = s.clusters := rfl
@[simp] theorem setTaskAt_mem (t : Nat) (x : Task) : (setTaskAt s t x).mem = s.mem := rfl
@[simp] theorem setTaskAt_poison (t : Nat) (x : Task) : (setTaskAt s t x).poison = s.poison := rfl
@[simp] theorem setTaskAt_mgmt (t : Nat) (x : Task) : (setTaskAt s t x).mgmt = s.mgmt := rfl
@[simp] theorem setTaskAt_outbox (t : Nat) (x : Task) : (setTaskAt s t x).outbox = s.outbox := rfl
@[simp] theorem setTaskAt_calls (t : Nat) (x : Task) : (setTaskAt s t x).calls = s.calls := rfl
@[simp] theorem setTaskAt_hostAccs (t : Nat) (x : Task) : (setTaskAt s t x).hostAccs = s.hostAccs := rfl
@[simp] theorem setTaskAt_waiters (t : Nat) (x : Task) : (setTaskAt s t x).waiters = s.waiters := rfl
@[simp] theorem setTaskAt_nextTag (t : Nat) (x : Task) : (setTaskAt s t x).nextTag = s.nextTag := rfl
@[simp] theorem setTaskAt_nextFlight (t : Nat) (x : Task) : (setTaskAt s t x).nextFlight = s.nextFlight := rfl
@[simp] theorem setTaskAt_ports (t : Nat) (x : Task) : (setTaskAt s t x).ports = s.ports := rfl
@[simp] theorem setTaskAt_queues (t : Nat) (x : Task) : (setTaskAt s t x).queues = s.queues := rfl
@[simp] theorem setTaskAt_served (t : Nat) (x : Task) : (setTaskAt s t x).served = s.served := rfl
@[simp] theorem setTaskAt_recent (t : Nat) (x : Task) : (setTaskAt s t x).recent = s.recent := rfl
@[simp] theorem setTaskAt_nextTask (t : Nat) (x : Task) : (setTaskAt s t x).nextTask = s.nextTask := rfl
@[simp] theorem setTaskAt_tinvs (t : Nat) (x : Task) : (setTaskAt s t x).tinvs = s.tinvs := rfl
@[simp] theorem setTaskAt_kvinvs (t : Nat) (x : Task) : (setTaskAt s t x).kvinvs = s.kvinvs := rfl
@[simp] theorem setTaskAt_rings (t : Nat) (x : Task) : (setTaskAt s t x).rings = s.rings := rfl
@[simp] theorem setTaskAt_steals (t : Nat) (x : Task) : (setTaskAt s t x).steals = s.steals := rfl
@[simp] theorem setTaskAt_lxUsed (t : Nat) (x : Task) : (setTaskAt s t x).lxUsed = s.lxUsed := rfl
@[simp] theorem setTaskAt_unitEvents (t : Nat) (x : Task) : (setTaskAt s t x).unitEvents = s.unitEvents := rfl
@[simp] theorem setTaskAt_declared (t : Nat) (x : Task) : (setTaskAt s t x).declared = s.declared := rfl
@[simp] theorem setTaskAt_gaps (t : Nat) (x : Task) : (setTaskAt s t x).gaps = s.gaps := rfl
@[simp] theorem setTaskAt_hot (t : Nat) (x : Task) : (setTaskAt s t x).hot = s.hot := rfl
@[simp] theorem setTaskAt_off (t : Nat) (x : Task) : (setTaskAt s t x).off = s.off := rfl
@[simp] theorem setTaskAt_boot (t : Nat) (x : Task) : (setTaskAt s t x).boot = s.boot := rfl

@[simp] theorem setCoreAt_now (c : Nat) (x : Core) : (setCoreAt s c x).now = s.now := rfl
@[simp] theorem setCoreAt_cur (c : Nat) (x : Core) : (setCoreAt s c x).cur = s.cur := rfl
@[simp] theorem setCoreAt_turns (c : Nat) (x : Core) : (setCoreAt s c x).turns = s.turns := rfl
@[simp] theorem setCoreAt_fresh (c : Nat) (x : Core) : (setCoreAt s c x).fresh = s.fresh := rfl
@[simp] theorem setCoreAt_parkMask (c : Nat) (x : Core) : (setCoreAt s c x).parkMask = s.parkMask := rfl
@[simp] theorem setCoreAt_groups (c : Nat) (x : Core) : (setCoreAt s c x).groups = s.groups := rfl
@[simp] theorem setCoreAt_blocks (c : Nat) (x : Core) : (setCoreAt s c x).blocks = s.blocks := rfl
@[simp] theorem setCoreAt_gangs (c : Nat) (x : Core) : (setCoreAt s c x).gangs = s.gangs := rfl
@[simp] theorem setCoreAt_tasks (c : Nat) (x : Core) : (setCoreAt s c x).tasks = s.tasks := rfl
@[simp] theorem setCoreAt_clusters (c : Nat) (x : Core) : (setCoreAt s c x).clusters = s.clusters := rfl
@[simp] theorem setCoreAt_mem (c : Nat) (x : Core) : (setCoreAt s c x).mem = s.mem := rfl
@[simp] theorem setCoreAt_poison (c : Nat) (x : Core) : (setCoreAt s c x).poison = s.poison := rfl
@[simp] theorem setCoreAt_mgmt (c : Nat) (x : Core) : (setCoreAt s c x).mgmt = s.mgmt := rfl
@[simp] theorem setCoreAt_outbox (c : Nat) (x : Core) : (setCoreAt s c x).outbox = s.outbox := rfl
@[simp] theorem setCoreAt_calls (c : Nat) (x : Core) : (setCoreAt s c x).calls = s.calls := rfl
@[simp] theorem setCoreAt_hostAccs (c : Nat) (x : Core) : (setCoreAt s c x).hostAccs = s.hostAccs := rfl
@[simp] theorem setCoreAt_waiters (c : Nat) (x : Core) : (setCoreAt s c x).waiters = s.waiters := rfl
@[simp] theorem setCoreAt_nextTag (c : Nat) (x : Core) : (setCoreAt s c x).nextTag = s.nextTag := rfl
@[simp] theorem setCoreAt_nextFlight (c : Nat) (x : Core) : (setCoreAt s c x).nextFlight = s.nextFlight := rfl
@[simp] theorem setCoreAt_ports (c : Nat) (x : Core) : (setCoreAt s c x).ports = s.ports := rfl
@[simp] theorem setCoreAt_queues (c : Nat) (x : Core) : (setCoreAt s c x).queues = s.queues := rfl
@[simp] theorem setCoreAt_served (c : Nat) (x : Core) : (setCoreAt s c x).served = s.served := rfl
@[simp] theorem setCoreAt_recent (c : Nat) (x : Core) : (setCoreAt s c x).recent = s.recent := rfl
@[simp] theorem setCoreAt_nextTask (c : Nat) (x : Core) : (setCoreAt s c x).nextTask = s.nextTask := rfl
@[simp] theorem setCoreAt_tinvs (c : Nat) (x : Core) : (setCoreAt s c x).tinvs = s.tinvs := rfl
@[simp] theorem setCoreAt_kvinvs (c : Nat) (x : Core) : (setCoreAt s c x).kvinvs = s.kvinvs := rfl
@[simp] theorem setCoreAt_rings (c : Nat) (x : Core) : (setCoreAt s c x).rings = s.rings := rfl
@[simp] theorem setCoreAt_steals (c : Nat) (x : Core) : (setCoreAt s c x).steals = s.steals := rfl
@[simp] theorem setCoreAt_lxUsed (c : Nat) (x : Core) : (setCoreAt s c x).lxUsed = s.lxUsed := rfl
@[simp] theorem setCoreAt_unitEvents (c : Nat) (x : Core) : (setCoreAt s c x).unitEvents = s.unitEvents := rfl
@[simp] theorem setCoreAt_declared (c : Nat) (x : Core) : (setCoreAt s c x).declared = s.declared := rfl
@[simp] theorem setCoreAt_gaps (c : Nat) (x : Core) : (setCoreAt s c x).gaps = s.gaps := rfl
@[simp] theorem setCoreAt_hot (c : Nat) (x : Core) : (setCoreAt s c x).hot = s.hot := rfl
@[simp] theorem setCoreAt_off (c : Nat) (x : Core) : (setCoreAt s c x).off = s.off := rfl
@[simp] theorem setCoreAt_boot (c : Nat) (x : Core) : (setCoreAt s c x).boot = s.boot := rfl

@[simp] theorem setClusterAt_now (c : Nat) (x : Cluster) : (setClusterAt s c x).now = s.now := rfl
@[simp] theorem setClusterAt_cur (c : Nat) (x : Cluster) : (setClusterAt s c x).cur = s.cur := rfl
@[simp] theorem setClusterAt_turns (c : Nat) (x : Cluster) : (setClusterAt s c x).turns = s.turns := rfl
@[simp] theorem setClusterAt_fresh (c : Nat) (x : Cluster) : (setClusterAt s c x).fresh = s.fresh := rfl
@[simp] theorem setClusterAt_parkMask (c : Nat) (x : Cluster) : (setClusterAt s c x).parkMask = s.parkMask := rfl
@[simp] theorem setClusterAt_groups (c : Nat) (x : Cluster) : (setClusterAt s c x).groups = s.groups := rfl
@[simp] theorem setClusterAt_blocks (c : Nat) (x : Cluster) : (setClusterAt s c x).blocks = s.blocks := rfl
@[simp] theorem setClusterAt_gangs (c : Nat) (x : Cluster) : (setClusterAt s c x).gangs = s.gangs := rfl
@[simp] theorem setClusterAt_tasks (c : Nat) (x : Cluster) : (setClusterAt s c x).tasks = s.tasks := rfl
@[simp] theorem setClusterAt_cores (c : Nat) (x : Cluster) : (setClusterAt s c x).cores = s.cores := rfl
@[simp] theorem setClusterAt_mem (c : Nat) (x : Cluster) : (setClusterAt s c x).mem = s.mem := rfl
@[simp] theorem setClusterAt_poison (c : Nat) (x : Cluster) : (setClusterAt s c x).poison = s.poison := rfl
@[simp] theorem setClusterAt_mgmt (c : Nat) (x : Cluster) : (setClusterAt s c x).mgmt = s.mgmt := rfl
@[simp] theorem setClusterAt_outbox (c : Nat) (x : Cluster) : (setClusterAt s c x).outbox = s.outbox := rfl
@[simp] theorem setClusterAt_calls (c : Nat) (x : Cluster) : (setClusterAt s c x).calls = s.calls := rfl
@[simp] theorem setClusterAt_hostAccs (c : Nat) (x : Cluster) : (setClusterAt s c x).hostAccs = s.hostAccs := rfl
@[simp] theorem setClusterAt_waiters (c : Nat) (x : Cluster) : (setClusterAt s c x).waiters = s.waiters := rfl
@[simp] theorem setClusterAt_nextTag (c : Nat) (x : Cluster) : (setClusterAt s c x).nextTag = s.nextTag := rfl
@[simp] theorem setClusterAt_nextFlight (c : Nat) (x : Cluster) : (setClusterAt s c x).nextFlight = s.nextFlight := rfl
@[simp] theorem setClusterAt_ports (c : Nat) (x : Cluster) : (setClusterAt s c x).ports = s.ports := rfl
@[simp] theorem setClusterAt_queues (c : Nat) (x : Cluster) : (setClusterAt s c x).queues = s.queues := rfl
@[simp] theorem setClusterAt_served (c : Nat) (x : Cluster) : (setClusterAt s c x).served = s.served := rfl
@[simp] theorem setClusterAt_recent (c : Nat) (x : Cluster) : (setClusterAt s c x).recent = s.recent := rfl
@[simp] theorem setClusterAt_nextTask (c : Nat) (x : Cluster) : (setClusterAt s c x).nextTask = s.nextTask := rfl
@[simp] theorem setClusterAt_tinvs (c : Nat) (x : Cluster) : (setClusterAt s c x).tinvs = s.tinvs := rfl
@[simp] theorem setClusterAt_kvinvs (c : Nat) (x : Cluster) : (setClusterAt s c x).kvinvs = s.kvinvs := rfl
@[simp] theorem setClusterAt_rings (c : Nat) (x : Cluster) : (setClusterAt s c x).rings = s.rings := rfl
@[simp] theorem setClusterAt_steals (c : Nat) (x : Cluster) : (setClusterAt s c x).steals = s.steals := rfl
@[simp] theorem setClusterAt_lxUsed (c : Nat) (x : Cluster) : (setClusterAt s c x).lxUsed = s.lxUsed := rfl
@[simp] theorem setClusterAt_unitEvents (c : Nat) (x : Cluster) : (setClusterAt s c x).unitEvents = s.unitEvents := rfl
@[simp] theorem setClusterAt_declared (c : Nat) (x : Cluster) : (setClusterAt s c x).declared = s.declared := rfl
@[simp] theorem setClusterAt_gaps (c : Nat) (x : Cluster) : (setClusterAt s c x).gaps = s.gaps := rfl
@[simp] theorem setClusterAt_hot (c : Nat) (x : Cluster) : (setClusterAt s c x).hot = s.hot := rfl
@[simp] theorem setClusterAt_off (c : Nat) (x : Cluster) : (setClusterAt s c x).off = s.off := rfl
@[simp] theorem setClusterAt_boot (c : Nat) (x : Cluster) : (setClusterAt s c x).boot = s.boot := rfl

@[simp] theorem setPortAt_now (p : Nat) (x : Port) : (setPortAt s p x).now = s.now := rfl
@[simp] theorem setPortAt_cur (p : Nat) (x : Port) : (setPortAt s p x).cur = s.cur := rfl
@[simp] theorem setPortAt_turns (p : Nat) (x : Port) : (setPortAt s p x).turns = s.turns := rfl
@[simp] theorem setPortAt_fresh (p : Nat) (x : Port) : (setPortAt s p x).fresh = s.fresh := rfl
@[simp] theorem setPortAt_parkMask (p : Nat) (x : Port) : (setPortAt s p x).parkMask = s.parkMask := rfl
@[simp] theorem setPortAt_groups (p : Nat) (x : Port) : (setPortAt s p x).groups = s.groups := rfl
@[simp] theorem setPortAt_blocks (p : Nat) (x : Port) : (setPortAt s p x).blocks = s.blocks := rfl
@[simp] theorem setPortAt_gangs (p : Nat) (x : Port) : (setPortAt s p x).gangs = s.gangs := rfl
@[simp] theorem setPortAt_tasks (p : Nat) (x : Port) : (setPortAt s p x).tasks = s.tasks := rfl
@[simp] theorem setPortAt_cores (p : Nat) (x : Port) : (setPortAt s p x).cores = s.cores := rfl
@[simp] theorem setPortAt_clusters (p : Nat) (x : Port) : (setPortAt s p x).clusters = s.clusters := rfl
@[simp] theorem setPortAt_mem (p : Nat) (x : Port) : (setPortAt s p x).mem = s.mem := rfl
@[simp] theorem setPortAt_poison (p : Nat) (x : Port) : (setPortAt s p x).poison = s.poison := rfl
@[simp] theorem setPortAt_mgmt (p : Nat) (x : Port) : (setPortAt s p x).mgmt = s.mgmt := rfl
@[simp] theorem setPortAt_outbox (p : Nat) (x : Port) : (setPortAt s p x).outbox = s.outbox := rfl
@[simp] theorem setPortAt_calls (p : Nat) (x : Port) : (setPortAt s p x).calls = s.calls := rfl
@[simp] theorem setPortAt_hostAccs (p : Nat) (x : Port) : (setPortAt s p x).hostAccs = s.hostAccs := rfl
@[simp] theorem setPortAt_waiters (p : Nat) (x : Port) : (setPortAt s p x).waiters = s.waiters := rfl
@[simp] theorem setPortAt_nextTag (p : Nat) (x : Port) : (setPortAt s p x).nextTag = s.nextTag := rfl
@[simp] theorem setPortAt_nextFlight (p : Nat) (x : Port) : (setPortAt s p x).nextFlight = s.nextFlight := rfl
@[simp] theorem setPortAt_queues (p : Nat) (x : Port) : (setPortAt s p x).queues = s.queues := rfl
@[simp] theorem setPortAt_served (p : Nat) (x : Port) : (setPortAt s p x).served = s.served := rfl
@[simp] theorem setPortAt_recent (p : Nat) (x : Port) : (setPortAt s p x).recent = s.recent := rfl
@[simp] theorem setPortAt_nextTask (p : Nat) (x : Port) : (setPortAt s p x).nextTask = s.nextTask := rfl
@[simp] theorem setPortAt_tinvs (p : Nat) (x : Port) : (setPortAt s p x).tinvs = s.tinvs := rfl
@[simp] theorem setPortAt_kvinvs (p : Nat) (x : Port) : (setPortAt s p x).kvinvs = s.kvinvs := rfl
@[simp] theorem setPortAt_rings (p : Nat) (x : Port) : (setPortAt s p x).rings = s.rings := rfl
@[simp] theorem setPortAt_steals (p : Nat) (x : Port) : (setPortAt s p x).steals = s.steals := rfl
@[simp] theorem setPortAt_lxUsed (p : Nat) (x : Port) : (setPortAt s p x).lxUsed = s.lxUsed := rfl
@[simp] theorem setPortAt_unitEvents (p : Nat) (x : Port) : (setPortAt s p x).unitEvents = s.unitEvents := rfl
@[simp] theorem setPortAt_declared (p : Nat) (x : Port) : (setPortAt s p x).declared = s.declared := rfl
@[simp] theorem setPortAt_gaps (p : Nat) (x : Port) : (setPortAt s p x).gaps = s.gaps := rfl
@[simp] theorem setPortAt_hot (p : Nat) (x : Port) : (setPortAt s p x).hot = s.hot := rfl
@[simp] theorem setPortAt_off (p : Nat) (x : Port) : (setPortAt s p x).off = s.off := rfl
@[simp] theorem setPortAt_boot (p : Nat) (x : Port) : (setPortAt s p x).boot = s.boot := rfl

@[simp] theorem setCurGroup_now (g : Group) : (setCurGroup s g).now = s.now := rfl
@[simp] theorem setCurGroup_cur (g : Group) : (setCurGroup s g).cur = s.cur := rfl
@[simp] theorem setCurGroup_turns (g : Group) : (setCurGroup s g).turns = s.turns := rfl
@[simp] theorem setCurGroup_fresh (g : Group) : (setCurGroup s g).fresh = s.fresh := rfl
@[simp] theorem setCurGroup_parkMask (g : Group) : (setCurGroup s g).parkMask = s.parkMask := rfl
@[simp] theorem setCurGroup_blocks (g : Group) : (setCurGroup s g).blocks = s.blocks := rfl
@[simp] theorem setCurGroup_gangs (g : Group) : (setCurGroup s g).gangs = s.gangs := rfl
@[simp] theorem setCurGroup_tasks (g : Group) : (setCurGroup s g).tasks = s.tasks := rfl
@[simp] theorem setCurGroup_cores (g : Group) : (setCurGroup s g).cores = s.cores := rfl
@[simp] theorem setCurGroup_clusters (g : Group) : (setCurGroup s g).clusters = s.clusters := rfl
@[simp] theorem setCurGroup_mem (g : Group) : (setCurGroup s g).mem = s.mem := rfl
@[simp] theorem setCurGroup_poison (g : Group) : (setCurGroup s g).poison = s.poison := rfl
@[simp] theorem setCurGroup_mgmt (g : Group) : (setCurGroup s g).mgmt = s.mgmt := rfl
@[simp] theorem setCurGroup_outbox (g : Group) : (setCurGroup s g).outbox = s.outbox := rfl
@[simp] theorem setCurGroup_calls (g : Group) : (setCurGroup s g).calls = s.calls := rfl
@[simp] theorem setCurGroup_hostAccs (g : Group) : (setCurGroup s g).hostAccs = s.hostAccs := rfl
@[simp] theorem setCurGroup_waiters (g : Group) : (setCurGroup s g).waiters = s.waiters := rfl
@[simp] theorem setCurGroup_nextTag (g : Group) : (setCurGroup s g).nextTag = s.nextTag := rfl
@[simp] theorem setCurGroup_nextFlight (g : Group) : (setCurGroup s g).nextFlight = s.nextFlight := rfl
@[simp] theorem setCurGroup_ports (g : Group) : (setCurGroup s g).ports = s.ports := rfl
@[simp] theorem setCurGroup_queues (g : Group) : (setCurGroup s g).queues = s.queues := rfl
@[simp] theorem setCurGroup_served (g : Group) : (setCurGroup s g).served = s.served := rfl
@[simp] theorem setCurGroup_recent (g : Group) : (setCurGroup s g).recent = s.recent := rfl
@[simp] theorem setCurGroup_nextTask (g : Group) : (setCurGroup s g).nextTask = s.nextTask := rfl
@[simp] theorem setCurGroup_tinvs (g : Group) : (setCurGroup s g).tinvs = s.tinvs := rfl
@[simp] theorem setCurGroup_kvinvs (g : Group) : (setCurGroup s g).kvinvs = s.kvinvs := rfl
@[simp] theorem setCurGroup_rings (g : Group) : (setCurGroup s g).rings = s.rings := rfl
@[simp] theorem setCurGroup_steals (g : Group) : (setCurGroup s g).steals = s.steals := rfl
@[simp] theorem setCurGroup_lxUsed (g : Group) : (setCurGroup s g).lxUsed = s.lxUsed := rfl
@[simp] theorem setCurGroup_unitEvents (g : Group) : (setCurGroup s g).unitEvents = s.unitEvents := rfl
@[simp] theorem setCurGroup_declared (g : Group) : (setCurGroup s g).declared = s.declared := rfl
@[simp] theorem setCurGroup_gaps (g : Group) : (setCurGroup s g).gaps = s.gaps := rfl
@[simp] theorem setCurGroup_hot (g : Group) : (setCurGroup s g).hot = s.hot := rfl
@[simp] theorem setCurGroup_off (g : Group) : (setCurGroup s g).off = s.off := rfl
@[simp] theorem setCurGroup_boot (g : Group) : (setCurGroup s g).boot = s.boot := rfl

@[simp] theorem setCurBlock_now (b : Block) : (setCurBlock s b).now = s.now := rfl
@[simp] theorem setCurBlock_cur (b : Block) : (setCurBlock s b).cur = s.cur := rfl
@[simp] theorem setCurBlock_turns (b : Block) : (setCurBlock s b).turns = s.turns := rfl
@[simp] theorem setCurBlock_fresh (b : Block) : (setCurBlock s b).fresh = s.fresh := rfl
@[simp] theorem setCurBlock_parkMask (b : Block) : (setCurBlock s b).parkMask = s.parkMask := rfl
@[simp] theorem setCurBlock_groups (b : Block) : (setCurBlock s b).groups = s.groups := rfl
@[simp] theorem setCurBlock_gangs (b : Block) : (setCurBlock s b).gangs = s.gangs := rfl
@[simp] theorem setCurBlock_tasks (b : Block) : (setCurBlock s b).tasks = s.tasks := rfl
@[simp] theorem setCurBlock_cores (b : Block) : (setCurBlock s b).cores = s.cores := rfl
@[simp] theorem setCurBlock_clusters (b : Block) : (setCurBlock s b).clusters = s.clusters := rfl
@[simp] theorem setCurBlock_mem (b : Block) : (setCurBlock s b).mem = s.mem := rfl
@[simp] theorem setCurBlock_poison (b : Block) : (setCurBlock s b).poison = s.poison := rfl
@[simp] theorem setCurBlock_mgmt (b : Block) : (setCurBlock s b).mgmt = s.mgmt := rfl
@[simp] theorem setCurBlock_outbox (b : Block) : (setCurBlock s b).outbox = s.outbox := rfl
@[simp] theorem setCurBlock_calls (b : Block) : (setCurBlock s b).calls = s.calls := rfl
@[simp] theorem setCurBlock_hostAccs (b : Block) : (setCurBlock s b).hostAccs = s.hostAccs := rfl
@[simp] theorem setCurBlock_waiters (b : Block) : (setCurBlock s b).waiters = s.waiters := rfl
@[simp] theorem setCurBlock_nextTag (b : Block) : (setCurBlock s b).nextTag = s.nextTag := rfl
@[simp] theorem setCurBlock_nextFlight (b : Block) : (setCurBlock s b).nextFlight = s.nextFlight := rfl
@[simp] theorem setCurBlock_ports (b : Block) : (setCurBlock s b).ports = s.ports := rfl
@[simp] theorem setCurBlock_queues (b : Block) : (setCurBlock s b).queues = s.queues := rfl
@[simp] theorem setCurBlock_served (b : Block) : (setCurBlock s b).served = s.served := rfl
@[simp] theorem setCurBlock_recent (b : Block) : (setCurBlock s b).recent = s.recent := rfl
@[simp] theorem setCurBlock_nextTask (b : Block) : (setCurBlock s b).nextTask = s.nextTask := rfl
@[simp] theorem setCurBlock_tinvs (b : Block) : (setCurBlock s b).tinvs = s.tinvs := rfl
@[simp] theorem setCurBlock_kvinvs (b : Block) : (setCurBlock s b).kvinvs = s.kvinvs := rfl
@[simp] theorem setCurBlock_rings (b : Block) : (setCurBlock s b).rings = s.rings := rfl
@[simp] theorem setCurBlock_steals (b : Block) : (setCurBlock s b).steals = s.steals := rfl
@[simp] theorem setCurBlock_lxUsed (b : Block) : (setCurBlock s b).lxUsed = s.lxUsed := rfl
@[simp] theorem setCurBlock_unitEvents (b : Block) : (setCurBlock s b).unitEvents = s.unitEvents := rfl
@[simp] theorem setCurBlock_declared (b : Block) : (setCurBlock s b).declared = s.declared := rfl
@[simp] theorem setCurBlock_gaps (b : Block) : (setCurBlock s b).gaps = s.gaps := rfl
@[simp] theorem setCurBlock_hot (b : Block) : (setCurBlock s b).hot = s.hot := rfl
@[simp] theorem setCurBlock_off (b : Block) : (setCurBlock s b).off = s.off := rfl
@[simp] theorem setCurBlock_boot (b : Block) : (setCurBlock s b).boot = s.boot := rfl

@[simp] theorem setCurGang_now (g : Gang) : (setCurGang s g).now = s.now := rfl
@[simp] theorem setCurGang_cur (g : Gang) : (setCurGang s g).cur = s.cur := rfl
@[simp] theorem setCurGang_turns (g : Gang) : (setCurGang s g).turns = s.turns := rfl
@[simp] theorem setCurGang_fresh (g : Gang) : (setCurGang s g).fresh = s.fresh := rfl
@[simp] theorem setCurGang_parkMask (g : Gang) : (setCurGang s g).parkMask = s.parkMask := rfl
@[simp] theorem setCurGang_groups (g : Gang) : (setCurGang s g).groups = s.groups := rfl
@[simp] theorem setCurGang_blocks (g : Gang) : (setCurGang s g).blocks = s.blocks := rfl
@[simp] theorem setCurGang_tasks (g : Gang) : (setCurGang s g).tasks = s.tasks := rfl
@[simp] theorem setCurGang_cores (g : Gang) : (setCurGang s g).cores = s.cores := rfl
@[simp] theorem setCurGang_clusters (g : Gang) : (setCurGang s g).clusters = s.clusters := rfl
@[simp] theorem setCurGang_mem (g : Gang) : (setCurGang s g).mem = s.mem := rfl
@[simp] theorem setCurGang_poison (g : Gang) : (setCurGang s g).poison = s.poison := rfl
@[simp] theorem setCurGang_mgmt (g : Gang) : (setCurGang s g).mgmt = s.mgmt := rfl
@[simp] theorem setCurGang_outbox (g : Gang) : (setCurGang s g).outbox = s.outbox := rfl
@[simp] theorem setCurGang_calls (g : Gang) : (setCurGang s g).calls = s.calls := rfl
@[simp] theorem setCurGang_hostAccs (g : Gang) : (setCurGang s g).hostAccs = s.hostAccs := rfl
@[simp] theorem setCurGang_waiters (g : Gang) : (setCurGang s g).waiters = s.waiters := rfl
@[simp] theorem setCurGang_nextTag (g : Gang) : (setCurGang s g).nextTag = s.nextTag := rfl
@[simp] theorem setCurGang_nextFlight (g : Gang) : (setCurGang s g).nextFlight = s.nextFlight := rfl
@[simp] theorem setCurGang_ports (g : Gang) : (setCurGang s g).ports = s.ports := rfl
@[simp] theorem setCurGang_queues (g : Gang) : (setCurGang s g).queues = s.queues := rfl
@[simp] theorem setCurGang_served (g : Gang) : (setCurGang s g).served = s.served := rfl
@[simp] theorem setCurGang_recent (g : Gang) : (setCurGang s g).recent = s.recent := rfl
@[simp] theorem setCurGang_nextTask (g : Gang) : (setCurGang s g).nextTask = s.nextTask := rfl
@[simp] theorem setCurGang_tinvs (g : Gang) : (setCurGang s g).tinvs = s.tinvs := rfl
@[simp] theorem setCurGang_kvinvs (g : Gang) : (setCurGang s g).kvinvs = s.kvinvs := rfl
@[simp] theorem setCurGang_rings (g : Gang) : (setCurGang s g).rings = s.rings := rfl
@[simp] theorem setCurGang_steals (g : Gang) : (setCurGang s g).steals = s.steals := rfl
@[simp] theorem setCurGang_lxUsed (g : Gang) : (setCurGang s g).lxUsed = s.lxUsed := rfl
@[simp] theorem setCurGang_unitEvents (g : Gang) : (setCurGang s g).unitEvents = s.unitEvents := rfl
@[simp] theorem setCurGang_declared (g : Gang) : (setCurGang s g).declared = s.declared := rfl
@[simp] theorem setCurGang_gaps (g : Gang) : (setCurGang s g).gaps = s.gaps := rfl
@[simp] theorem setCurGang_hot (g : Gang) : (setCurGang s g).hot = s.hot := rfl
@[simp] theorem setCurGang_off (g : Gang) : (setCurGang s g).off = s.off := rfl
@[simp] theorem setCurGang_boot (g : Gang) : (setCurGang s g).boot = s.boot := rfl

/-! ## Records -/

theorem groupKey_inj {a b c a' b' c' : Nat} (hb : b < 32) (hc : c < 64) (hb' : b' < 32) (hc' : c' < 64) (h : groupKey a b c = groupKey a' b' c') :
    a = a' ∧ b = b' ∧ c = c' := by
  unfold groupKey at h; omega
theorem blockKey_inj {a b a' b' : Nat} (hb : b < 32) (hb' : b' < 32) (h : blockKey a b = blockKey a' b') : a = a' ∧ b = b' := by
  unfold blockKey at h; omega

@[simp] theorem groupAt_setGroupAt (gang blk grp : Nat) (g : Group) : groupAt (setGroupAt s gang blk grp g) gang blk grp = g := get_set_self _
@[simp] theorem blockAt_setBlockAt (gang blk : Nat) (b : Block) : blockAt (setBlockAt s gang blk b) gang blk = b := get_set_self _
@[simp] theorem gangAt_setGangAt (gang : Nat) (g : Gang) : gangAt (setGangAt s gang g) gang = g := get_set_self _
@[simp] theorem taskAt_setTaskAt (t : Nat) (x : Task) : taskAt (setTaskAt s t x) t = x := get_set_self _
@[simp] theorem coreAt_setCoreAt (c : Nat) (x : Core) : coreAt (setCoreAt s c x) c = x := get_set_self _
@[simp] theorem clusterAt_setClusterAt (c : Nat) (x : Cluster) : clusterAt (setClusterAt s c x) c = x := get_set_self _
@[simp] theorem portAt_setPortAt (p : Nat) (x : Port) : portAt (setPortAt s p x) p = x := get_set_self _
@[simp] theorem curGroup_setCurGroup (g : Group) : curGroup (setCurGroup s g) = g := get_set_self _
@[simp] theorem curBlock_setCurBlock (b : Block) : curBlock (setCurBlock s b) = b := get_set_self _
@[simp] theorem curGang_setCurGang (g : Gang) : curGang (setCurGang s g) = g := get_set_self _

theorem groupAt_setGroupAt_other {gang blk grp gang' blk' grp' : Nat} (g : Group) (h : groupKey gang' blk' grp' ≠ groupKey gang blk grp) :
    groupAt (setGroupAt s gang blk grp g) gang' blk' grp' = groupAt s gang' blk' grp' := get_set_other _ h
theorem blockAt_setBlockAt_other {gang blk gang' blk' : Nat} (b : Block) (h : blockKey gang' blk' ≠ blockKey gang blk) :
    blockAt (setBlockAt s gang blk b) gang' blk' = blockAt s gang' blk' := get_set_other _ h
theorem gangAt_setGangAt_other {gang gang' : Nat} (g : Gang) (h : gang' ≠ gang) : gangAt (setGangAt s gang g) gang' = gangAt s gang' :=
  get_set_other _ h
theorem taskAt_setTaskAt_other {t t' : Nat} (x : Task) (h : t' ≠ t) : taskAt (setTaskAt s t x) t' = taskAt s t' := get_set_other _ h
theorem coreAt_setCoreAt_other {c c' : Nat} (x : Core) (h : c' ≠ c) : coreAt (setCoreAt s c x) c' = coreAt s c' := get_set_other _ h
theorem clusterAt_setClusterAt_other {c c' : Nat} (x : Cluster) (h : c' ≠ c) : clusterAt (setClusterAt s c x) c' = clusterAt s c' :=
  get_set_other _ h
theorem portAt_setPortAt_other {p p' : Nat} (x : Port) (h : p' ≠ p) : portAt (setPortAt s p x) p' = portAt s p' := get_set_other _ h

/-! ## A unit's record after an update of another kind of unit -/

@[simp] theorem blockAt_setGroupAt (gang blk grp : Nat) (g : Group) (k0 k1 : Nat) : blockAt (setGroupAt s gang blk grp g) k0 k1 = blockAt s k0 k1 := rfl
@[simp] theorem gangAt_setGroupAt (gang blk grp : Nat) (g : Group) (k0 : Nat) : gangAt (setGroupAt s gang blk grp g) k0 = gangAt s k0 := rfl
@[simp] theorem taskAt_setGroupAt (gang blk grp : Nat) (g : Group) (k0 : Nat) : taskAt (setGroupAt s gang blk grp g) k0 = taskAt s k0 := rfl
@[simp] theorem coreAt_setGroupAt (gang blk grp : Nat) (g : Group) (k0 : Nat) : coreAt (setGroupAt s gang blk grp g) k0 = coreAt s k0 := rfl
@[simp] theorem clusterAt_setGroupAt (gang blk grp : Nat) (g : Group) (k0 : Nat) : clusterAt (setGroupAt s gang blk grp g) k0 = clusterAt s k0 := rfl
@[simp] theorem portAt_setGroupAt (gang blk grp : Nat) (g : Group) (k0 : Nat) : portAt (setGroupAt s gang blk grp g) k0 = portAt s k0 := rfl
@[simp] theorem memByte_setGroupAt (gang blk grp : Nat) (g : Group) (k0 : Nat) : memByte (setGroupAt s gang blk grp g) k0 = memByte s k0 := rfl
@[simp] theorem groupAt_setBlockAt (gang blk : Nat) (b : Block) (k0 k1 k2 : Nat) : groupAt (setBlockAt s gang blk b) k0 k1 k2 = groupAt s k0 k1 k2 := rfl
@[simp] theorem gangAt_setBlockAt (gang blk : Nat) (b : Block) (k0 : Nat) : gangAt (setBlockAt s gang blk b) k0 = gangAt s k0 := rfl
@[simp] theorem taskAt_setBlockAt (gang blk : Nat) (b : Block) (k0 : Nat) : taskAt (setBlockAt s gang blk b) k0 = taskAt s k0 := rfl
@[simp] theorem coreAt_setBlockAt (gang blk : Nat) (b : Block) (k0 : Nat) : coreAt (setBlockAt s gang blk b) k0 = coreAt s k0 := rfl
@[simp] theorem clusterAt_setBlockAt (gang blk : Nat) (b : Block) (k0 : Nat) : clusterAt (setBlockAt s gang blk b) k0 = clusterAt s k0 := rfl
@[simp] theorem portAt_setBlockAt (gang blk : Nat) (b : Block) (k0 : Nat) : portAt (setBlockAt s gang blk b) k0 = portAt s k0 := rfl
@[simp] theorem memByte_setBlockAt (gang blk : Nat) (b : Block) (k0 : Nat) : memByte (setBlockAt s gang blk b) k0 = memByte s k0 := rfl
@[simp] theorem groupAt_setGangAt (gang : Nat) (g : Gang) (k0 k1 k2 : Nat) : groupAt (setGangAt s gang g) k0 k1 k2 = groupAt s k0 k1 k2 := rfl
@[simp] theorem blockAt_setGangAt (gang : Nat) (g : Gang) (k0 k1 : Nat) : blockAt (setGangAt s gang g) k0 k1 = blockAt s k0 k1 := rfl
@[simp] theorem taskAt_setGangAt (gang : Nat) (g : Gang) (k0 : Nat) : taskAt (setGangAt s gang g) k0 = taskAt s k0 := rfl
@[simp] theorem coreAt_setGangAt (gang : Nat) (g : Gang) (k0 : Nat) : coreAt (setGangAt s gang g) k0 = coreAt s k0 := rfl
@[simp] theorem clusterAt_setGangAt (gang : Nat) (g : Gang) (k0 : Nat) : clusterAt (setGangAt s gang g) k0 = clusterAt s k0 := rfl
@[simp] theorem portAt_setGangAt (gang : Nat) (g : Gang) (k0 : Nat) : portAt (setGangAt s gang g) k0 = portAt s k0 := rfl
@[simp] theorem memByte_setGangAt (gang : Nat) (g : Gang) (k0 : Nat) : memByte (setGangAt s gang g) k0 = memByte s k0 := rfl
@[simp] theorem groupAt_setTaskAt (t : Nat) (x : Task) (k0 k1 k2 : Nat) : groupAt (setTaskAt s t x) k0 k1 k2 = groupAt s k0 k1 k2 := rfl
@[simp] theorem blockAt_setTaskAt (t : Nat) (x : Task) (k0 k1 : Nat) : blockAt (setTaskAt s t x) k0 k1 = blockAt s k0 k1 := rfl
@[simp] theorem gangAt_setTaskAt (t : Nat) (x : Task) (k0 : Nat) : gangAt (setTaskAt s t x) k0 = gangAt s k0 := rfl
@[simp] theorem coreAt_setTaskAt (t : Nat) (x : Task) (k0 : Nat) : coreAt (setTaskAt s t x) k0 = coreAt s k0 := rfl
@[simp] theorem clusterAt_setTaskAt (t : Nat) (x : Task) (k0 : Nat) : clusterAt (setTaskAt s t x) k0 = clusterAt s k0 := rfl
@[simp] theorem portAt_setTaskAt (t : Nat) (x : Task) (k0 : Nat) : portAt (setTaskAt s t x) k0 = portAt s k0 := rfl
@[simp] theorem memByte_setTaskAt (t : Nat) (x : Task) (k0 : Nat) : memByte (setTaskAt s t x) k0 = memByte s k0 := rfl
@[simp] theorem groupAt_setCoreAt (c : Nat) (x : Core) (k0 k1 k2 : Nat) : groupAt (setCoreAt s c x) k0 k1 k2 = groupAt s k0 k1 k2 := rfl
@[simp] theorem blockAt_setCoreAt (c : Nat) (x : Core) (k0 k1 : Nat) : blockAt (setCoreAt s c x) k0 k1 = blockAt s k0 k1 := rfl
@[simp] theorem gangAt_setCoreAt (c : Nat) (x : Core) (k0 : Nat) : gangAt (setCoreAt s c x) k0 = gangAt s k0 := rfl
@[simp] theorem taskAt_setCoreAt (c : Nat) (x : Core) (k0 : Nat) : taskAt (setCoreAt s c x) k0 = taskAt s k0 := rfl
@[simp] theorem clusterAt_setCoreAt (c : Nat) (x : Core) (k0 : Nat) : clusterAt (setCoreAt s c x) k0 = clusterAt s k0 := rfl
@[simp] theorem portAt_setCoreAt (c : Nat) (x : Core) (k0 : Nat) : portAt (setCoreAt s c x) k0 = portAt s k0 := rfl
@[simp] theorem memByte_setCoreAt (c : Nat) (x : Core) (k0 : Nat) : memByte (setCoreAt s c x) k0 = memByte s k0 := rfl
@[simp] theorem groupAt_setClusterAt (c : Nat) (x : Cluster) (k0 k1 k2 : Nat) : groupAt (setClusterAt s c x) k0 k1 k2 = groupAt s k0 k1 k2 := rfl
@[simp] theorem blockAt_setClusterAt (c : Nat) (x : Cluster) (k0 k1 : Nat) : blockAt (setClusterAt s c x) k0 k1 = blockAt s k0 k1 := rfl
@[simp] theorem gangAt_setClusterAt (c : Nat) (x : Cluster) (k0 : Nat) : gangAt (setClusterAt s c x) k0 = gangAt s k0 := rfl
@[simp] theorem taskAt_setClusterAt (c : Nat) (x : Cluster) (k0 : Nat) : taskAt (setClusterAt s c x) k0 = taskAt s k0 := rfl
@[simp] theorem coreAt_setClusterAt (c : Nat) (x : Cluster) (k0 : Nat) : coreAt (setClusterAt s c x) k0 = coreAt s k0 := rfl
@[simp] theorem portAt_setClusterAt (c : Nat) (x : Cluster) (k0 : Nat) : portAt (setClusterAt s c x) k0 = portAt s k0 := rfl
@[simp] theorem memByte_setClusterAt (c : Nat) (x : Cluster) (k0 : Nat) : memByte (setClusterAt s c x) k0 = memByte s k0 := rfl
@[simp] theorem groupAt_setPortAt (p : Nat) (x : Port) (k0 k1 k2 : Nat) : groupAt (setPortAt s p x) k0 k1 k2 = groupAt s k0 k1 k2 := rfl
@[simp] theorem blockAt_setPortAt (p : Nat) (x : Port) (k0 k1 : Nat) : blockAt (setPortAt s p x) k0 k1 = blockAt s k0 k1 := rfl
@[simp] theorem gangAt_setPortAt (p : Nat) (x : Port) (k0 : Nat) : gangAt (setPortAt s p x) k0 = gangAt s k0 := rfl
@[simp] theorem taskAt_setPortAt (p : Nat) (x : Port) (k0 : Nat) : taskAt (setPortAt s p x) k0 = taskAt s k0 := rfl
@[simp] theorem coreAt_setPortAt (p : Nat) (x : Port) (k0 : Nat) : coreAt (setPortAt s p x) k0 = coreAt s k0 := rfl
@[simp] theorem clusterAt_setPortAt (p : Nat) (x : Port) (k0 : Nat) : clusterAt (setPortAt s p x) k0 = clusterAt s k0 := rfl
@[simp] theorem memByte_setPortAt (p : Nat) (x : Port) (k0 : Nat) : memByte (setPortAt s p x) k0 = memByte s k0 := rfl

/-! ## Registers -/

section Registers
variable (g : Group)

theorem readS_writeS (n k : Nat) (x : W32) : readS (writeS g n x) k = if k = n then x else readS g k := get_set _
theorem readV_writeV (r l r' l' : Nat) (x : W32) (h : l < 32) (h' : l' < 32) :
    readV (writeV g r l x) r' l' = if r' = r ∧ l' = l then x else readV g r' l' := by
  unfold readV writeV
  rw [get_set]
  by_cases hk : r' = r ∧ l' = l
  · rw [if_pos hk, if_pos (by omega)]
  · rw [if_neg hk, if_neg (by omega)]
/-- R100: p0 reads as all ones, whatever is written to it. -/
@[simp] theorem readP_zero : readP g 0 = 0xFFFFFFFF := rfl
@[simp] theorem writeP_zero (x : W32) : writeP g 0 x = g := rfl
theorem readP_writeP (n k : Nat) (x : W32) (h : k ≠ 0) : readP (writeP g n x) k = if k = n then x else readP g k := by
  unfold readP writeP
  by_cases hn : n = 0
  · subst hn; simp [h]
  · simp only [h, hn, if_false]; rw [get_set]

end Registers

end Sys2Proof.Laws
end

