-- ==== Sys2Proof/Laws/Group.lean ====
section
/-!
SUPPORT. What the operations on a group's record leave alone: register writes, flags, the landing of writes, retirement, and the state at a word's issue
clock.
-/

namespace Sys2Proof.Laws
open Sys2Proof.Machine

variable (g : Group)

/-! ## Register writes, flags and landings -/

/-- A register write touches the registers alone. -/
theorem applyWrite_frame (w : RegWrite) : ∃ s v p sf d k c, applyWrite g w =
    { g with s := s, v := v, p := p, sf := sf, psd := d, rngKey := k, rngCtr := c } := by
  cases w with
  | s n x => exact ⟨_, _, _, _, _, _, _, rfl⟩
  | v r l x => exact ⟨_, _, _, _, _, _, _, rfl⟩
  | sf x => exact ⟨_, _, _, _, _, _, _, rfl⟩
  | psd n => exact ⟨_, _, _, _, _, _, _, rfl⟩
  | rng l k c => exact ⟨_, _, _, _, _, _, _, rfl⟩
  | p n x =>
    by_cases h : n = 0
    · exact ⟨g.s, g.v, g.p, g.sf, g.psd, g.rngKey, g.rngCtr, by simp [applyWrite, writeP, h]⟩
    · exact ⟨g.s, g.v, g.p.set 0 n x, g.sf, g.psd, g.rngKey, g.rngCtr, by simp [applyWrite, writeP, h]⟩

theorem applyWrites_frame (ws : List RegWrite) : ∃ s v p sf d k c, applyWrites g ws =
    { g with s := s, v := v, p := p, sf := sf, psd := d, rngKey := k, rngCtr := c } := by
  induction ws generalizing g with
  | nil => exact ⟨g.s, g.v, g.p, g.sf, g.psd, g.rngKey, g.rngCtr, rfl⟩
  | cons w r ih =>
    obtain ⟨s, v, p, sf, d, k, c, h⟩ := applyWrite_frame g w
    obtain ⟨s', v', p', sf', d', k', c', h'⟩ := ih (applyWrite g w)
    exact ⟨s', v', p', sf', d', k', c', by rw [show applyWrites g (w :: r) = applyWrites (applyWrite g w) r from rfl, h', h]⟩

/-- R135: setting flags touches FLAGS and the pending trap alone. -/
theorem setFlags_frame (idx : W32) (f : FlagSet) : ∃ fl t, setFlags g idx f = { g with flags := fl, atrap := t } := by
  unfold setFlags
  split
  · exact ⟨g.flags, g.atrap, rfl⟩
  · simp only []
    split
    · exact ⟨_, g.atrap, rfl⟩
    · split
      · exact ⟨_, _, rfl⟩
      · exact ⟨_, g.atrap, rfl⟩

/-- What landing leaves alone: everything but registers, SF, `PSDEPTH`, the RNG state, FLAGS, the pending trap and what is in flight. -/
theorem landOne_frame (q : Pend) : ∃ s v p sf d k c fl t, landOne g q =
    { g with s := s, v := v, p := p, sf := sf, psd := d, rngKey := k, rngCtr := c, flags := fl, atrap := t } := by
  obtain ⟨s, v, p, sf, d, k, c, h⟩ := applyWrites_frame g q.ws
  obtain ⟨fl, t, h'⟩ := setFlags_frame (applyWrites g q.ws) q.idx q.flags
  exact ⟨s, v, p, sf, d, k, c, fl, t, by rw [landOne, h', h]⟩
theorem landList_frame (qs : List Pend) : ∃ s v p sf d k c fl t, qs.foldl landOne g =
    { g with s := s, v := v, p := p, sf := sf, psd := d, rngKey := k, rngCtr := c, flags := fl, atrap := t } := by
  induction qs generalizing g with
  | nil => exact ⟨g.s, g.v, g.p, g.sf, g.psd, g.rngKey, g.rngCtr, g.flags, g.atrap, rfl⟩
  | cons q r ih =>
    obtain ⟨s, v, p, sf, d, k, c, fl, t, h⟩ := landOne_frame g q
    obtain ⟨s', v', p', sf', d', k', c', fl', t', h'⟩ := ih (landOne g q)
    exact ⟨s', v', p', sf', d', k', c', fl', t', by rw [List.foldl_cons, h', h]⟩
theorem landAt_frame (c : Nat) : ∃ s v p sf d k r fl t, landAt c g =
    { g with s := s, v := v, p := p, sf := sf, psd := d, rngKey := k, rngCtr := r, flags := fl, atrap := t,
             pend := g.pend.filter fun q => !decide (q.land ≤ c) } := by
  obtain ⟨s, v, p, sf, d, k, r, fl, t, h⟩ := landList_frame { g with pend := g.pend.filter fun q => !decide (q.land ≤ c) }
    (sortPend (g.pend.filter fun q => decide (q.land ≤ c)))
  exact ⟨s, v, p, sf, d, k, r, fl, t, h⟩

@[simp] theorem landAt_st (c : Nat) : (landAt c g).st = g.st := by
  obtain ⟨_, _, _, _, _, _, _, _, _, h⟩ := landAt_frame g c; rw [h]
@[simp] theorem landAt_handler (c : Nat) : (landAt c g).handler = g.handler := by
  obtain ⟨_, _, _, _, _, _, _, _, _, h⟩ := landAt_frame g c; rw [h]
@[simp] theorem landAt_nv (c : Nat) : (landAt c g).nv = g.nv := by
  obtain ⟨_, _, _, _, _, _, _, _, _, h⟩ := landAt_frame g c; rw [h]
@[simp] theorem landAt_stk (c : Nat) : (landAt c g).stk = g.stk := by
  obtain ⟨_, _, _, _, _, _, _, _, _, h⟩ := landAt_frame g c; rw [h]
@[simp] theorem landAt_depth (c : Nat) : (landAt c g).depth = g.depth := by
  obtain ⟨_, _, _, _, _, _, _, _, _, h⟩ := landAt_frame g c; rw [h]
@[simp] theorem landAt_mode (c : Nat) : (landAt c g).mode = g.mode := by
  obtain ⟨_, _, _, _, _, _, _, _, _, h⟩ := landAt_frame g c; rw [h]
@[simp] theorem landAt_trapen (c : Nat) : (landAt c g).trapen = g.trapen := by
  obtain ⟨_, _, _, _, _, _, _, _, _, h⟩ := landAt_frame g c; rw [h]
@[simp] theorem landAt_lclk (c : Nat) : (landAt c g).lclk = g.lclk := by
  obtain ⟨_, _, _, _, _, _, _, _, _, h⟩ := landAt_frame g c; rw [h]
@[simp] theorem landAt_clkHi (c : Nat) : (landAt c g).clkHi = g.clkHi := by
  obtain ⟨_, _, _, _, _, _, _, _, _, h⟩ := landAt_frame g c; rw [h]
@[simp] theorem landAt_cycHi (c : Nat) : (landAt c g).cycHi = g.cycHi := by
  obtain ⟨_, _, _, _, _, _, _, _, _, h⟩ := landAt_frame g c; rw [h]
@[simp] theorem landAt_loops (c : Nat) : (landAt c g).loops = g.loops := by
  obtain ⟨_, _, _, _, _, _, _, _, _, h⟩ := landAt_frame g c; rw [h]
@[simp] theorem landAt_loopd (c : Nat) : (landAt c g).loopd = g.loopd := by
  obtain ⟨_, _, _, _, _, _, _, _, _, h⟩ := landAt_frame g c; rw [h]
@[simp] theorem landAt_pc (c : Nat) : (landAt c g).pc = g.pc := by
  obtain ⟨_, _, _, _, _, _, _, _, _, h⟩ := landAt_frame g c; rw [h]
@[simp] theorem landAt_resume (c : Nat) : (landAt c g).resume = g.resume := by
  obtain ⟨_, _, _, _, _, _, _, _, _, h⟩ := landAt_frame g c; rw [h]
@[simp] theorem landAt_flights (c : Nat) : (landAt c g).flights = g.flights := by
  obtain ⟨_, _, _, _, _, _, _, _, _, h⟩ := landAt_frame g c; rw [h]
@[simp] theorem landAt_vmc (c : Nat) : (landAt c g).vmc = g.vmc := by
  obtain ⟨_, _, _, _, _, _, _, _, _, h⟩ := landAt_frame g c; rw [h]
@[simp] theorem landAt_bfc (c : Nat) : (landAt c g).bfc = g.bfc := by
  obtain ⟨_, _, _, _, _, _, _, _, _, h⟩ := landAt_frame g c; rw [h]
@[simp] theorem landAt_sfc (c : Nat) : (landAt c g).sfc = g.sfc := by
  obtain ⟨_, _, _, _, _, _, _, _, _, h⟩ := landAt_frame g c; rw [h]
@[simp] theorem landAt_readyAt (c : Nat) : (landAt c g).readyAt = g.readyAt := by
  obtain ⟨_, _, _, _, _, _, _, _, _, h⟩ := landAt_frame g c; rw [h]
@[simp] theorem landAt_passes (c : Nat) : (landAt c g).passes = g.passes := by
  obtain ⟨_, _, _, _, _, _, _, _, _, h⟩ := landAt_frame g c; rw [h]
@[simp] theorem landAt_frozen (c : Nat) : (landAt c g).frozen = g.frozen := by
  obtain ⟨_, _, _, _, _, _, _, _, _, h⟩ := landAt_frame g c; rw [h]
@[simp] theorem landAt_arr (c : Nat) : (landAt c g).arr = g.arr := by
  obtain ⟨_, _, _, _, _, _, _, _, _, h⟩ := landAt_frame g c; rw [h]
@[simp] theorem landAt_ever (c : Nat) : (landAt c g).ever = g.ever := by
  obtain ⟨_, _, _, _, _, _, _, _, _, h⟩ := landAt_frame g c; rw [h]
@[simp] theorem landAt_watch (c : Nat) : (landAt c g).watch = g.watch := by
  obtain ⟨_, _, _, _, _, _, _, _, _, h⟩ := landAt_frame g c; rw [h]
@[simp] theorem landAt_called (c : Nat) : (landAt c g).called = g.called := by
  obtain ⟨_, _, _, _, _, _, _, _, _, h⟩ := landAt_frame g c; rw [h]
@[simp] theorem landAt_barWait (c : Nat) : (landAt c g).barWait = g.barWait := by
  obtain ⟨_, _, _, _, _, _, _, _, _, h⟩ := landAt_frame g c; rw [h]
@[simp] theorem landAt_tested (c : Nat) : (landAt c g).tested = g.tested := by
  obtain ⟨_, _, _, _, _, _, _, _, _, h⟩ := landAt_frame g c; rw [h]
@[simp] theorem landAt_owed (c : Nat) : (landAt c g).owed = g.owed := by
  obtain ⟨_, _, _, _, _, _, _, _, _, h⟩ := landAt_frame g c; rw [h]
@[simp] theorem landAt_freed (c : Nat) : (landAt c g).freed = g.freed := by
  obtain ⟨_, _, _, _, _, _, _, _, _, h⟩ := landAt_frame g c; rw [h]
@[simp] theorem landAt_sel (c : Nat) : (landAt c g).sel = g.sel := by
  obtain ⟨_, _, _, _, _, _, _, _, _, h⟩ := landAt_frame g c; rw [h]
@[simp] theorem landAt_xhsel (c : Nat) : (landAt c g).xhsel = g.xhsel := by
  obtain ⟨_, _, _, _, _, _, _, _, _, h⟩ := landAt_frame g c; rw [h]
@[simp] theorem landAt_xbsel (c : Nat) : (landAt c g).xbsel = g.xbsel := by
  obtain ⟨_, _, _, _, _, _, _, _, _, h⟩ := landAt_frame g c; rw [h]
@[simp] theorem landAt_tinvlo (c : Nat) : (landAt c g).tinvlo = g.tinvlo := by
  obtain ⟨_, _, _, _, _, _, _, _, _, h⟩ := landAt_frame g c; rw [h]
@[simp] theorem landAt_tinvhi (c : Nat) : (landAt c g).tinvhi = g.tinvhi := by
  obtain ⟨_, _, _, _, _, _, _, _, _, h⟩ := landAt_frame g c; rw [h]
@[simp] theorem landAt_kvinvlo (c : Nat) : (landAt c g).kvinvlo = g.kvinvlo := by
  obtain ⟨_, _, _, _, _, _, _, _, _, h⟩ := landAt_frame g c; rw [h]
@[simp] theorem landAt_kvinvhi (c : Nat) : (landAt c g).kvinvhi = g.kvinvhi := by
  obtain ⟨_, _, _, _, _, _, _, _, _, h⟩ := landAt_frame g c; rw [h]
@[simp] theorem landAt_ctl (c : Nat) : (landAt c g).ctl = g.ctl := by
  obtain ⟨_, _, _, _, _, _, _, _, _, h⟩ := landAt_frame g c; rw [h]
@[simp] theorem landAt_lit (c : Nat) : (landAt c g).lit = g.lit := by
  obtain ⟨_, _, _, _, _, _, _, _, _, h⟩ := landAt_frame g c; rw [h]
@[simp] theorem landAt_redo (c : Nat) : (landAt c g).redo = g.redo := by
  obtain ⟨_, _, _, _, _, _, _, _, _, h⟩ := landAt_frame g c; rw [h]
@[simp] theorem landAt_again (c : Nat) : (landAt c g).again = g.again := by
  obtain ⟨_, _, _, _, _, _, _, _, _, h⟩ := landAt_frame g c; rw [h]
/-- With nothing in flight nothing lands. -/
theorem landAt_nil (c : Nat) (h : g.pend = []) : landAt c g = g := by
  have : landAt c g = { g with pend := [] } := by simp [landAt, h, sortPend]
  rw [this, ← h]

/-! ## Retirement -/

@[simp] theorem retireTo_st (t : Nat) (nxt : W32) : (retireTo g t nxt).st = g.st := rfl
@[simp] theorem retireTo_handler (t : Nat) (nxt : W32) : (retireTo g t nxt).handler = g.handler := rfl
@[simp] theorem retireTo_nv (t : Nat) (nxt : W32) : (retireTo g t nxt).nv = g.nv := rfl
@[simp] theorem retireTo_v (t : Nat) (nxt : W32) : (retireTo g t nxt).v = g.v := rfl
@[simp] theorem retireTo_s (t : Nat) (nxt : W32) : (retireTo g t nxt).s = g.s := rfl
@[simp] theorem retireTo_p (t : Nat) (nxt : W32) : (retireTo g t nxt).p = g.p := rfl
@[simp] theorem retireTo_stk (t : Nat) (nxt : W32) : (retireTo g t nxt).stk = g.stk := rfl
@[simp] theorem retireTo_depth (t : Nat) (nxt : W32) : (retireTo g t nxt).depth = g.depth := rfl
@[simp] theorem retireTo_psd (t : Nat) (nxt : W32) : (retireTo g t nxt).psd = g.psd := rfl
@[simp] theorem retireTo_mode (t : Nat) (nxt : W32) : (retireTo g t nxt).mode = g.mode := rfl
@[simp] theorem retireTo_flags (t : Nat) (nxt : W32) : (retireTo g t nxt).flags = g.flags := rfl
@[simp] theorem retireTo_trapen (t : Nat) (nxt : W32) : (retireTo g t nxt).trapen = g.trapen := rfl
@[simp] theorem retireTo_sf (t : Nat) (nxt : W32) : (retireTo g t nxt).sf = g.sf := rfl
@[simp] theorem retireTo_clkHi (t : Nat) (nxt : W32) : (retireTo g t nxt).clkHi = g.clkHi := rfl
@[simp] theorem retireTo_cycHi (t : Nat) (nxt : W32) : (retireTo g t nxt).cycHi = g.cycHi := rfl
@[simp] theorem retireTo_rngKey (t : Nat) (nxt : W32) : (retireTo g t nxt).rngKey = g.rngKey := rfl
@[simp] theorem retireTo_rngCtr (t : Nat) (nxt : W32) : (retireTo g t nxt).rngCtr = g.rngCtr := rfl
@[simp] theorem retireTo_resume (t : Nat) (nxt : W32) : (retireTo g t nxt).resume = g.resume := rfl
@[simp] theorem retireTo_pend (t : Nat) (nxt : W32) : (retireTo g t nxt).pend = g.pend := rfl
@[simp] theorem retireTo_flights (t : Nat) (nxt : W32) : (retireTo g t nxt).flights = g.flights := rfl
@[simp] theorem retireTo_vmc (t : Nat) (nxt : W32) : (retireTo g t nxt).vmc = g.vmc := rfl
@[simp] theorem retireTo_bfc (t : Nat) (nxt : W32) : (retireTo g t nxt).bfc = g.bfc := rfl
@[simp] theorem retireTo_sfc (t : Nat) (nxt : W32) : (retireTo g t nxt).sfc = g.sfc := rfl
@[simp] theorem retireTo_passes (t : Nat) (nxt : W32) : (retireTo g t nxt).passes = g.passes := rfl
@[simp] theorem retireTo_frozen (t : Nat) (nxt : W32) : (retireTo g t nxt).frozen = g.frozen := rfl
@[simp] theorem retireTo_arr (t : Nat) (nxt : W32) : (retireTo g t nxt).arr = g.arr := rfl
@[simp] theorem retireTo_ever (t : Nat) (nxt : W32) : (retireTo g t nxt).ever = g.ever := rfl
@[simp] theorem retireTo_atrap (t : Nat) (nxt : W32) : (retireTo g t nxt).atrap = g.atrap := rfl
@[simp] theorem retireTo_watch (t : Nat) (nxt : W32) : (retireTo g t nxt).watch = g.watch := rfl
@[simp] theorem retireTo_called (t : Nat) (nxt : W32) : (retireTo g t nxt).called = g.called := rfl
@[simp] theorem retireTo_barWait (t : Nat) (nxt : W32) : (retireTo g t nxt).barWait = g.barWait := rfl
@[simp] theorem retireTo_owed (t : Nat) (nxt : W32) : (retireTo g t nxt).owed = g.owed := rfl
@[simp] theorem retireTo_freed (t : Nat) (nxt : W32) : (retireTo g t nxt).freed = g.freed := rfl
@[simp] theorem retireTo_sel (t : Nat) (nxt : W32) : (retireTo g t nxt).sel = g.sel := rfl
@[simp] theorem retireTo_xhsel (t : Nat) (nxt : W32) : (retireTo g t nxt).xhsel = g.xhsel := rfl
@[simp] theorem retireTo_xbsel (t : Nat) (nxt : W32) : (retireTo g t nxt).xbsel = g.xbsel := rfl
@[simp] theorem retireTo_tinvlo (t : Nat) (nxt : W32) : (retireTo g t nxt).tinvlo = g.tinvlo := rfl
@[simp] theorem retireTo_tinvhi (t : Nat) (nxt : W32) : (retireTo g t nxt).tinvhi = g.tinvhi := rfl
@[simp] theorem retireTo_kvinvlo (t : Nat) (nxt : W32) : (retireTo g t nxt).kvinvlo = g.kvinvlo := rfl
@[simp] theorem retireTo_kvinvhi (t : Nat) (nxt : W32) : (retireTo g t nxt).kvinvhi = g.kvinvhi := rfl
@[simp] theorem retireTo_ctl (t : Nat) (nxt : W32) : (retireTo g t nxt).ctl = g.ctl := rfl
@[simp] theorem retireTo_lit (t : Nat) (nxt : W32) : (retireTo g t nxt).lit = g.lit := rfl
@[simp] theorem retireTo_redo (t : Nat) (nxt : W32) : (retireTo g t nxt).redo = g.redo := rfl
@[simp] theorem retireTo_again (t : Nat) (nxt : W32) : (retireTo g t nxt).again = g.again := rfl
/-- R58: a word that retires is one word of the logical clock. -/
@[simp] theorem retireTo_lclk (t : Nat) (nxt : W32) : (retireTo g t nxt).lclk = g.lclk + 1 := rfl

@[simp] theorem retire_st (t skip : Nat) : (retire g t skip).st = g.st := rfl
@[simp] theorem retire_handler (t skip : Nat) : (retire g t skip).handler = g.handler := rfl
@[simp] theorem retire_nv (t skip : Nat) : (retire g t skip).nv = g.nv := rfl
@[simp] theorem retire_v (t skip : Nat) : (retire g t skip).v = g.v := rfl
@[simp] theorem retire_s (t skip : Nat) : (retire g t skip).s = g.s := rfl
@[simp] theorem retire_p (t skip : Nat) : (retire g t skip).p = g.p := rfl
@[simp] theorem retire_stk (t skip : Nat) : (retire g t skip).stk = g.stk := rfl
@[simp] theorem retire_depth (t skip : Nat) : (retire g t skip).depth = g.depth := rfl
@[simp] theorem retire_psd (t skip : Nat) : (retire g t skip).psd = g.psd := rfl
@[simp] theorem retire_mode (t skip : Nat) : (retire g t skip).mode = g.mode := rfl
@[simp] theorem retire_flags (t skip : Nat) : (retire g t skip).flags = g.flags := rfl
@[simp] theorem retire_trapen (t skip : Nat) : (retire g t skip).trapen = g.trapen := rfl
@[simp] theorem retire_sf (t skip : Nat) : (retire g t skip).sf = g.sf := rfl
@[simp] theorem retire_clkHi (t skip : Nat) : (retire g t skip).clkHi = g.clkHi := rfl
@[simp] theorem retire_cycHi (t skip : Nat) : (retire g t skip).cycHi = g.cycHi := rfl
@[simp] theorem retire_rngKey (t skip : Nat) : (retire g t skip).rngKey = g.rngKey := rfl
@[simp] theorem retire_rngCtr (t skip : Nat) : (retire g t skip).rngCtr = g.rngCtr := rfl
@[simp] theorem retire_resume (t skip : Nat) : (retire g t skip).resume = g.resume := rfl
@[simp] theorem retire_pend (t skip : Nat) : (retire g t skip).pend = g.pend := rfl
@[simp] theorem retire_flights (t skip : Nat) : (retire g t skip).flights = g.flights := rfl
@[simp] theorem retire_vmc (t skip : Nat) : (retire g t skip).vmc = g.vmc := rfl
@[simp] theorem retire_bfc (t skip : Nat) : (retire g t skip).bfc = g.bfc := rfl
@[simp] theorem retire_sfc (t skip : Nat) : (retire g t skip).sfc = g.sfc := rfl
@[simp] theorem retire_passes (t skip : Nat) : (retire g t skip).passes = g.passes := rfl
@[simp] theorem retire_frozen (t skip : Nat) : (retire g t skip).frozen = g.frozen := rfl
@[simp] theorem retire_arr (t skip : Nat) : (retire g t skip).arr = g.arr := rfl
@[simp] theorem retire_ever (t skip : Nat) : (retire g t skip).ever = g.ever := rfl
@[simp] theorem retire_atrap (t skip : Nat) : (retire g t skip).atrap = g.atrap := rfl
@[simp] theorem retire_watch (t skip : Nat) : (retire g t skip).watch = g.watch := rfl
@[simp] theorem retire_called (t skip : Nat) : (retire g t skip).called = g.called := rfl
@[simp] theorem retire_barWait (t skip : Nat) : (retire g t skip).barWait = g.barWait := rfl
@[simp] theorem retire_owed (t skip : Nat) : (retire g t skip).owed = g.owed := rfl
@[simp] theorem retire_freed (t skip : Nat) : (retire g t skip).freed = g.freed := rfl
@[simp] theorem retire_sel (t skip : Nat) : (retire g t skip).sel = g.sel := rfl
@[simp] theorem retire_xhsel (t skip : Nat) : (retire g t skip).xhsel = g.xhsel := rfl
@[simp] theorem retire_xbsel (t skip : Nat) : (retire g t skip).xbsel = g.xbsel := rfl
@[simp] theorem retire_tinvlo (t skip : Nat) : (retire g t skip).tinvlo = g.tinvlo := rfl
@[simp] theorem retire_tinvhi (t skip : Nat) : (retire g t skip).tinvhi = g.tinvhi := rfl
@[simp] theorem retire_kvinvlo (t skip : Nat) : (retire g t skip).kvinvlo = g.kvinvlo := rfl
@[simp] theorem retire_kvinvhi (t skip : Nat) : (retire g t skip).kvinvhi = g.kvinvhi := rfl
@[simp] theorem retire_ctl (t skip : Nat) : (retire g t skip).ctl = g.ctl := rfl
@[simp] theorem retire_lit (t skip : Nat) : (retire g t skip).lit = g.lit := rfl
@[simp] theorem retire_redo (t skip : Nat) : (retire g t skip).redo = g.redo := rfl
@[simp] theorem retire_again (t skip : Nat) : (retire g t skip).again = g.again := rfl
/-- R58: a word that retires is one word of the logical clock. -/
@[simp] theorem retire_lclk (t skip : Nat) : (retire g t skip).lclk = g.lclk + 1 := rfl

@[simp] theorem retireJump_st (t : Nat) (target : W32) (pops : Bool) : (retireJump g t target pops).st = g.st := rfl
@[simp] theorem retireJump_handler (t : Nat) (target : W32) (pops : Bool) : (retireJump g t target pops).handler = g.handler := rfl
@[simp] theorem retireJump_nv (t : Nat) (target : W32) (pops : Bool) : (retireJump g t target pops).nv = g.nv := rfl
@[simp] theorem retireJump_v (t : Nat) (target : W32) (pops : Bool) : (retireJump g t target pops).v = g.v := rfl
@[simp] theorem retireJump_s (t : Nat) (target : W32) (pops : Bool) : (retireJump g t target pops).s = g.s := rfl
@[simp] theorem retireJump_p (t : Nat) (target : W32) (pops : Bool) : (retireJump g t target pops).p = g.p := rfl
@[simp] theorem retireJump_stk (t : Nat) (target : W32) (pops : Bool) : (retireJump g t target pops).stk = g.stk := rfl
@[simp] theorem retireJump_depth (t : Nat) (target : W32) (pops : Bool) : (retireJump g t target pops).depth = g.depth := rfl
@[simp] theorem retireJump_psd (t : Nat) (target : W32) (pops : Bool) : (retireJump g t target pops).psd = g.psd := rfl
@[simp] theorem retireJump_mode (t : Nat) (target : W32) (pops : Bool) : (retireJump g t target pops).mode = g.mode := rfl
@[simp] theorem retireJump_flags (t : Nat) (target : W32) (pops : Bool) : (retireJump g t target pops).flags = g.flags := rfl
@[simp] theorem retireJump_trapen (t : Nat) (target : W32) (pops : Bool) : (retireJump g t target pops).trapen = g.trapen := rfl
@[simp] theorem retireJump_sf (t : Nat) (target : W32) (pops : Bool) : (retireJump g t target pops).sf = g.sf := rfl
@[simp] theorem retireJump_clkHi (t : Nat) (target : W32) (pops : Bool) : (retireJump g t target pops).clkHi = g.clkHi := rfl
@[simp] theorem retireJump_cycHi (t : Nat) (target : W32) (pops : Bool) : (retireJump g t target pops).cycHi = g.cycHi := rfl
@[simp] theorem retireJump_rngKey (t : Nat) (target : W32) (pops : Bool) : (retireJump g t target pops).rngKey = g.rngKey := rfl
@[simp] theorem retireJump_rngCtr (t : Nat) (target : W32) (pops : Bool) : (retireJump g t target pops).rngCtr = g.rngCtr := rfl
@[simp] theorem retireJump_resume (t : Nat) (target : W32) (pops : Bool) : (retireJump g t target pops).resume = g.resume := rfl
@[simp] theorem retireJump_pend (t : Nat) (target : W32) (pops : Bool) : (retireJump g t target pops).pend = g.pend := rfl
@[simp] theorem retireJump_flights (t : Nat) (target : W32) (pops : Bool) : (retireJump g t target pops).flights = g.flights := rfl
@[simp] theorem retireJump_vmc (t : Nat) (target : W32) (pops : Bool) : (retireJump g t target pops).vmc = g.vmc := rfl
@[simp] theorem retireJump_bfc (t : Nat) (target : W32) (pops : Bool) : (retireJump g t target pops).bfc = g.bfc := rfl
@[simp] theorem retireJump_sfc (t : Nat) (target : W32) (pops : Bool) : (retireJump g t target pops).sfc = g.sfc := rfl
@[simp] theorem retireJump_passes (t : Nat) (target : W32) (pops : Bool) : (retireJump g t target pops).passes = g.passes := rfl
@[simp] theorem retireJump_frozen (t : Nat) (target : W32) (pops : Bool) : (retireJump g t target pops).frozen = g.frozen := rfl
@[simp] theorem retireJump_arr (t : Nat) (target : W32) (pops : Bool) : (retireJump g t target pops).arr = g.arr := rfl
@[simp] theorem retireJump_ever (t : Nat) (target : W32) (pops : Bool) : (retireJump g t target pops).ever = g.ever := rfl
@[simp] theorem retireJump_atrap (t : Nat) (target : W32) (pops : Bool) : (retireJump g t target pops).atrap = g.atrap := rfl
@[simp] theorem retireJump_watch (t : Nat) (target : W32) (pops : Bool) : (retireJump g t target pops).watch = g.watch := rfl
@[simp] theorem retireJump_called (t : Nat) (target : W32) (pops : Bool) : (retireJump g t target pops).called = g.called := rfl
@[simp] theorem retireJump_barWait (t : Nat) (target : W32) (pops : Bool) : (retireJump g t target pops).barWait = g.barWait := rfl
@[simp] theorem retireJump_owed (t : Nat) (target : W32) (pops : Bool) : (retireJump g t target pops).owed = g.owed := rfl
@[simp] theorem retireJump_freed (t : Nat) (target : W32) (pops : Bool) : (retireJump g t target pops).freed = g.freed := rfl
@[simp] theorem retireJump_sel (t : Nat) (target : W32) (pops : Bool) : (retireJump g t target pops).sel = g.sel := rfl
@[simp] theorem retireJump_xhsel (t : Nat) (target : W32) (pops : Bool) : (retireJump g t target pops).xhsel = g.xhsel := rfl
@[simp] theorem retireJump_xbsel (t : Nat) (target : W32) (pops : Bool) : (retireJump g t target pops).xbsel = g.xbsel := rfl
@[simp] theorem retireJump_tinvlo (t : Nat) (target : W32) (pops : Bool) : (retireJump g t target pops).tinvlo = g.tinvlo := rfl
@[simp] theorem retireJump_tinvhi (t : Nat) (target : W32) (pops : Bool) : (retireJump g t target pops).tinvhi = g.tinvhi := rfl
@[simp] theorem retireJump_kvinvlo (t : Nat) (target : W32) (pops : Bool) : (retireJump g t target pops).kvinvlo = g.kvinvlo := rfl
@[simp] theorem retireJump_kvinvhi (t : Nat) (target : W32) (pops : Bool) : (retireJump g t target pops).kvinvhi = g.kvinvhi := rfl
@[simp] theorem retireJump_ctl (t : Nat) (target : W32) (pops : Bool) : (retireJump g t target pops).ctl = g.ctl := rfl
@[simp] theorem retireJump_lit (t : Nat) (target : W32) (pops : Bool) : (retireJump g t target pops).lit = g.lit := rfl
@[simp] theorem retireJump_redo (t : Nat) (target : W32) (pops : Bool) : (retireJump g t target pops).redo = g.redo := rfl
@[simp] theorem retireJump_again (t : Nat) (target : W32) (pops : Bool) : (retireJump g t target pops).again = g.again := rfl
@[simp] theorem retireJump_loops (t : Nat) (target : W32) (pops : Bool) : (retireJump g t target pops).loops = g.loops := rfl
/-- R58: a word that retires is one word of the logical clock. -/
@[simp] theorem retireJump_lclk (t : Nat) (target : W32) (pops : Bool) : (retireJump g t target pops).lclk = g.lclk + 1 := rfl

/-! ## The state at the issue clock -/

variable (w : Word) (s : State)

/-- R87, R88: issue moves only the clock and the record of the group in focus. -/
theorem issueState_frame : issueState w s = { s with now := (issueState w s).now, groups := (issueState w s).groups } := rfl
@[simp] theorem issueState_cur : (issueState w s).cur = s.cur := rfl
@[simp] theorem issueState_turns : (issueState w s).turns = s.turns := rfl
@[simp] theorem issueState_fresh : (issueState w s).fresh = s.fresh := rfl
@[simp] theorem issueState_parkMask : (issueState w s).parkMask = s.parkMask := rfl
@[simp] theorem issueState_blocks : (issueState w s).blocks = s.blocks := rfl
@[simp] theorem issueState_gangs : (issueState w s).gangs = s.gangs := rfl
@[simp] theorem issueState_tasks : (issueState w s).tasks = s.tasks := rfl
@[simp] theorem issueState_cores : (issueState w s).cores = s.cores := rfl
@[simp] theorem issueState_clusters : (issueState w s).clusters = s.clusters := rfl
@[simp] theorem issueState_mem : (issueState w s).mem = s.mem := rfl
@[simp] theorem issueState_poison : (issueState w s).poison = s.poison := rfl
@[simp] theorem issueState_mgmt : (issueState w s).mgmt = s.mgmt := rfl
@[simp] theorem issueState_outbox : (issueState w s).outbox = s.outbox := rfl
@[simp] theorem issueState_calls : (issueState w s).calls = s.calls := rfl
@[simp] theorem issueState_hostAccs : (issueState w s).hostAccs = s.hostAccs := rfl
@[simp] theorem issueState_waiters : (issueState w s).waiters = s.waiters := rfl
@[simp] theorem issueState_nextTag : (issueState w s).nextTag = s.nextTag := rfl
@[simp] theorem issueState_nextFlight : (issueState w s).nextFlight = s.nextFlight := rfl
@[simp] theorem issueState_ports : (issueState w s).ports = s.ports := rfl
@[simp] theorem issueState_queues : (issueState w s).queues = s.queues := rfl
@[simp] theorem issueState_served : (issueState w s).served = s.served := rfl
@[simp] theorem issueState_recent : (issueState w s).recent = s.recent := rfl
@[simp] theorem issueState_nextTask : (issueState w s).nextTask = s.nextTask := rfl
@[simp] theorem issueState_tinvs : (issueState w s).tinvs = s.tinvs := rfl
@[simp] theorem issueState_kvinvs : (issueState w s).kvinvs = s.kvinvs := rfl
@[simp] theorem issueState_rings : (issueState w s).rings = s.rings := rfl
@[simp] theorem issueState_steals : (issueState w s).steals = s.steals := rfl
@[simp] theorem issueState_lxUsed : (issueState w s).lxUsed = s.lxUsed := rfl
@[simp] theorem issueState_unitEvents : (issueState w s).unitEvents = s.unitEvents := rfl
@[simp] theorem issueState_declared : (issueState w s).declared = s.declared := rfl
@[simp] theorem issueState_gaps : (issueState w s).gaps = s.gaps := rfl
@[simp] theorem issueState_hot : (issueState w s).hot = s.hot := rfl
@[simp] theorem issueState_off : (issueState w s).off = s.off := rfl
@[simp] theorem issueState_boot : (issueState w s).boot = s.boot := rfl
/-- The other groups are as before. -/
theorem issueState_other (gang blk grp : Nat) (h : groupKey gang blk grp ≠ groupKey s.cur.gang s.cur.blk s.cur.grp) :
    groupAt (issueState w s) gang blk grp = groupAt s gang blk grp :=
  groupAt_setGroupAt_other (s := { s with now := (issueState w s).now }) _ h


/-! ## Results put in flight -/

/-- R148: a fixed-latency result adds one entry to what is in flight and changes nothing else. -/
theorem inFlight_eq (lat : Nat) (ws : List RegWrite) (f : FlagSet) :
    inFlight s lat ws f = setCurGroup s { curGroup s with pend := (curGroup s).pend ++ [⟨s.now + lat, (curGroup s).pc, ws, f, lat, (curGroup s).passes⟩] } := rfl
@[simp] theorem inFlight_cur (lat : Nat) (ws : List RegWrite) (f : FlagSet) : (inFlight s lat ws f).cur = s.cur := rfl
@[simp] theorem inFlight_turns (lat : Nat) (ws : List RegWrite) (f : FlagSet) : (inFlight s lat ws f).turns = s.turns := rfl
@[simp] theorem inFlight_fresh (lat : Nat) (ws : List RegWrite) (f : FlagSet) : (inFlight s lat ws f).fresh = s.fresh := rfl
@[simp] theorem inFlight_parkMask (lat : Nat) (ws : List RegWrite) (f : FlagSet) : (inFlight s lat ws f).parkMask = s.parkMask := rfl
@[simp] theorem inFlight_blocks (lat : Nat) (ws : List RegWrite) (f : FlagSet) : (inFlight s lat ws f).blocks = s.blocks := rfl
@[simp] theorem inFlight_gangs (lat : Nat) (ws : List RegWrite) (f : FlagSet) : (inFlight s lat ws f).gangs = s.gangs := rfl
@[simp] theorem inFlight_tasks (lat : Nat) (ws : List RegWrite) (f : FlagSet) : (inFlight s lat ws f).tasks = s.tasks := rfl
@[simp] theorem inFlight_cores (lat : Nat) (ws : List RegWrite) (f : FlagSet) : (inFlight s lat ws f).cores = s.cores := rfl
@[simp] theorem inFlight_clusters (lat : Nat) (ws : List RegWrite) (f : FlagSet) : (inFlight s lat ws f).clusters = s.clusters := rfl
@[simp] theorem inFlight_mem (lat : Nat) (ws : List RegWrite) (f : FlagSet) : (inFlight s lat ws f).mem = s.mem := rfl
@[simp] theorem inFlight_poison (lat : Nat) (ws : List RegWrite) (f : FlagSet) : (inFlight s lat ws f).poison = s.poison := rfl
@[simp] theorem inFlight_mgmt (lat : Nat) (ws : List RegWrite) (f : FlagSet) : (inFlight s lat ws f).mgmt = s.mgmt := rfl
@[simp] theorem inFlight_outbox (lat : Nat) (ws : List RegWrite) (f : FlagSet) : (inFlight s lat ws f).outbox = s.outbox := rfl
@[simp] theorem inFlight_calls (lat : Nat) (ws : List RegWrite) (f : FlagSet) : (inFlight s lat ws f).calls = s.calls := rfl
@[simp] theorem inFlight_hostAccs (lat : Nat) (ws : List RegWrite) (f : FlagSet) : (inFlight s lat ws f).hostAccs = s.hostAccs := rfl
@[simp] theorem inFlight_waiters (lat : Nat) (ws : List RegWrite) (f : FlagSet) : (inFlight s lat ws f).waiters = s.waiters := rfl
@[simp] theorem inFlight_nextTag (lat : Nat) (ws : List RegWrite) (f : FlagSet) : (inFlight s lat ws f).nextTag = s.nextTag := rfl
@[simp] theorem inFlight_nextFlight (lat : Nat) (ws : List RegWrite) (f : FlagSet) : (inFlight s lat ws f).nextFlight = s.nextFlight := rfl
@[simp] theorem inFlight_ports (lat : Nat) (ws : List RegWrite) (f : FlagSet) : (inFlight s lat ws f).ports = s.ports := rfl
@[simp] theorem inFlight_queues (lat : Nat) (ws : List RegWrite) (f : FlagSet) : (inFlight s lat ws f).queues = s.queues := rfl
@[simp] theorem inFlight_served (lat : Nat) (ws : List RegWrite) (f : FlagSet) : (inFlight s lat ws f).served = s.served := rfl
@[simp] theorem inFlight_recent (lat : Nat) (ws : List RegWrite) (f : FlagSet) : (inFlight s lat ws f).recent = s.recent := rfl
@[simp] theorem inFlight_nextTask (lat : Nat) (ws : List RegWrite) (f : FlagSet) : (inFlight s lat ws f).nextTask = s.nextTask := rfl
@[simp] theorem inFlight_tinvs (lat : Nat) (ws : List RegWrite) (f : FlagSet) : (inFlight s lat ws f).tinvs = s.tinvs := rfl
@[simp] theorem inFlight_kvinvs (lat : Nat) (ws : List RegWrite) (f : FlagSet) : (inFlight s lat ws f).kvinvs = s.kvinvs := rfl
@[simp] theorem inFlight_rings (lat : Nat) (ws : List RegWrite) (f : FlagSet) : (inFlight s lat ws f).rings = s.rings := rfl
@[simp] theorem inFlight_steals (lat : Nat) (ws : List RegWrite) (f : FlagSet) : (inFlight s lat ws f).steals = s.steals := rfl
@[simp] theorem inFlight_lxUsed (lat : Nat) (ws : List RegWrite) (f : FlagSet) : (inFlight s lat ws f).lxUsed = s.lxUsed := rfl
@[simp] theorem inFlight_unitEvents (lat : Nat) (ws : List RegWrite) (f : FlagSet) : (inFlight s lat ws f).unitEvents = s.unitEvents := rfl
@[simp] theorem inFlight_declared (lat : Nat) (ws : List RegWrite) (f : FlagSet) : (inFlight s lat ws f).declared = s.declared := rfl
@[simp] theorem inFlight_gaps (lat : Nat) (ws : List RegWrite) (f : FlagSet) : (inFlight s lat ws f).gaps = s.gaps := rfl
@[simp] theorem inFlight_hot (lat : Nat) (ws : List RegWrite) (f : FlagSet) : (inFlight s lat ws f).hot = s.hot := rfl
@[simp] theorem inFlight_off (lat : Nat) (ws : List RegWrite) (f : FlagSet) : (inFlight s lat ws f).off = s.off := rfl
@[simp] theorem inFlight_boot (lat : Nat) (ws : List RegWrite) (f : FlagSet) : (inFlight s lat ws f).boot = s.boot := rfl
@[simp] theorem inFlight_now (lat : Nat) (ws : List RegWrite) (f : FlagSet) : (inFlight s lat ws f).now = s.now := rfl
@[simp] theorem launchFlight_cur (ws : List RegWrite) (f : FlagSet) (c : Counter) (b : Bool) (lat : Nat) : (launchFlight s ws f c b lat).cur = s.cur := rfl
@[simp] theorem launchFlight_turns (ws : List RegWrite) (f : FlagSet) (c : Counter) (b : Bool) (lat : Nat) : (launchFlight s ws f c b lat).turns = s.turns := rfl
@[simp] theorem launchFlight_fresh (ws : List RegWrite) (f : FlagSet) (c : Counter) (b : Bool) (lat : Nat) : (launchFlight s ws f c b lat).fresh = s.fresh := rfl
@[simp] theorem launchFlight_parkMask (ws : List RegWrite) (f : FlagSet) (c : Counter) (b : Bool) (lat : Nat) : (launchFlight s ws f c b lat).parkMask = s.parkMask := rfl
@[simp] theorem launchFlight_blocks (ws : List RegWrite) (f : FlagSet) (c : Counter) (b : Bool) (lat : Nat) : (launchFlight s ws f c b lat).blocks = s.blocks := rfl
@[simp] theorem launchFlight_gangs (ws : List RegWrite) (f : FlagSet) (c : Counter) (b : Bool) (lat : Nat) : (launchFlight s ws f c b lat).gangs = s.gangs := rfl
@[simp] theorem launchFlight_tasks (ws : List RegWrite) (f : FlagSet) (c : Counter) (b : Bool) (lat : Nat) : (launchFlight s ws f c b lat).tasks = s.tasks := rfl
@[simp] theorem launchFlight_cores (ws : List RegWrite) (f : FlagSet) (c : Counter) (b : Bool) (lat : Nat) : (launchFlight s ws f c b lat).cores = s.cores := rfl
@[simp] theorem launchFlight_clusters (ws : List RegWrite) (f : FlagSet) (c : Counter) (b : Bool) (lat : Nat) : (launchFlight s ws f c b lat).clusters = s.clusters := rfl
@[simp] theorem launchFlight_mem (ws : List RegWrite) (f : FlagSet) (c : Counter) (b : Bool) (lat : Nat) : (launchFlight s ws f c b lat).mem = s.mem := rfl
@[simp] theorem launchFlight_poison (ws : List RegWrite) (f : FlagSet) (c : Counter) (b : Bool) (lat : Nat) : (launchFlight s ws f c b lat).poison = s.poison := rfl
@[simp] theorem launchFlight_mgmt (ws : List RegWrite) (f : FlagSet) (c : Counter) (b : Bool) (lat : Nat) : (launchFlight s ws f c b lat).mgmt = s.mgmt := rfl
@[simp] theorem launchFlight_outbox (ws : List RegWrite) (f : FlagSet) (c : Counter) (b : Bool) (lat : Nat) : (launchFlight s ws f c b lat).outbox = s.outbox := rfl
@[simp] theorem launchFlight_calls (ws : List RegWrite) (f : FlagSet) (c : Counter) (b : Bool) (lat : Nat) : (launchFlight s ws f c b lat).calls = s.calls := rfl
@[simp] theorem launchFlight_hostAccs (ws : List RegWrite) (f : FlagSet) (c : Counter) (b : Bool) (lat : Nat) : (launchFlight s ws f c b lat).hostAccs = s.hostAccs := rfl
@[simp] theorem launchFlight_waiters (ws : List RegWrite) (f : FlagSet) (c : Counter) (b : Bool) (lat : Nat) : (launchFlight s ws f c b lat).waiters = s.waiters := rfl
@[simp] theorem launchFlight_nextTag (ws : List RegWrite) (f : FlagSet) (c : Counter) (b : Bool) (lat : Nat) : (launchFlight s ws f c b lat).nextTag = s.nextTag := rfl
@[simp] theorem launchFlight_ports (ws : List RegWrite) (f : FlagSet) (c : Counter) (b : Bool) (lat : Nat) : (launchFlight s ws f c b lat).ports = s.ports := rfl
@[simp] theorem launchFlight_queues (ws : List RegWrite) (f : FlagSet) (c : Counter) (b : Bool) (lat : Nat) : (launchFlight s ws f c b lat).queues = s.queues := rfl
@[simp] theorem launchFlight_served (ws : List RegWrite) (f : FlagSet) (c : Counter) (b : Bool) (lat : Nat) : (launchFlight s ws f c b lat).served = s.served := rfl
@[simp] theorem launchFlight_recent (ws : List RegWrite) (f : FlagSet) (c : Counter) (b : Bool) (lat : Nat) : (launchFlight s ws f c b lat).recent = s.recent := rfl
@[simp] theorem launchFlight_nextTask (ws : List RegWrite) (f : FlagSet) (c : Counter) (b : Bool) (lat : Nat) : (launchFlight s ws f c b lat).nextTask = s.nextTask := rfl
@[simp] theorem launchFlight_tinvs (ws : List RegWrite) (f : FlagSet) (c : Counter) (b : Bool) (lat : Nat) : (launchFlight s ws f c b lat).tinvs = s.tinvs := rfl
@[simp] theorem launchFlight_kvinvs (ws : List RegWrite) (f : FlagSet) (c : Counter) (b : Bool) (lat : Nat) : (launchFlight s ws f c b lat).kvinvs = s.kvinvs := rfl
@[simp] theorem launchFlight_rings (ws : List RegWrite) (f : FlagSet) (c : Counter) (b : Bool) (lat : Nat) : (launchFlight s ws f c b lat).rings = s.rings := rfl
@[simp] theorem launchFlight_steals (ws : List RegWrite) (f : FlagSet) (c : Counter) (b : Bool) (lat : Nat) : (launchFlight s ws f c b lat).steals = s.steals := rfl
@[simp] theorem launchFlight_lxUsed (ws : List RegWrite) (f : FlagSet) (c : Counter) (b : Bool) (lat : Nat) : (launchFlight s ws f c b lat).lxUsed = s.lxUsed := rfl
@[simp] theorem launchFlight_unitEvents (ws : List RegWrite) (f : FlagSet) (c : Counter) (b : Bool) (lat : Nat) : (launchFlight s ws f c b lat).unitEvents = s.unitEvents := rfl
@[simp] theorem launchFlight_declared (ws : List RegWrite) (f : FlagSet) (c : Counter) (b : Bool) (lat : Nat) : (launchFlight s ws f c b lat).declared = s.declared := rfl
@[simp] theorem launchFlight_gaps (ws : List RegWrite) (f : FlagSet) (c : Counter) (b : Bool) (lat : Nat) : (launchFlight s ws f c b lat).gaps = s.gaps := rfl
@[simp] theorem launchFlight_hot (ws : List RegWrite) (f : FlagSet) (c : Counter) (b : Bool) (lat : Nat) : (launchFlight s ws f c b lat).hot = s.hot := rfl
@[simp] theorem launchFlight_off (ws : List RegWrite) (f : FlagSet) (c : Counter) (b : Bool) (lat : Nat) : (launchFlight s ws f c b lat).off = s.off := rfl
@[simp] theorem launchFlight_boot (ws : List RegWrite) (f : FlagSet) (c : Counter) (b : Bool) (lat : Nat) : (launchFlight s ws f c b lat).boot = s.boot := rfl
@[simp] theorem launchFlight_now (ws : List RegWrite) (f : FlagSet) (c : Counter) (b : Bool) (lat : Nat) : (launchFlight s ws f c b lat).now = s.now := rfl

end Sys2Proof.Laws
end

