-- ==== Sys2Proof/Laws/Memory.lean ====
section
/-!
SUPPORT. Device memory: what each operation that writes it leaves, and that every one of them keeps its canonical form. A folding lemma carries a property
over a loop of writes.
-/

namespace Sys2Proof.Laws
open Sys2Proof.Machine

/-- A property that each step of a loop keeps holds after the loop. -/
theorem foldl_keeps {α β : Type} (P : α → Prop) (f : α → β → α) (h : ∀ a b, P a → P (f a b)) (l : List β) (a : α) (ha : P a) : P (l.foldl f a) := by
  induction l generalizing a with
  | nil => exact ha
  | cons b r ih => exact ih _ (h a b ha)

/-- A field that each step of a loop leaves alone is as before after the loop. -/
theorem foldl_same {α β γ : Type} (p : α → γ) (f : α → β → α) (h : ∀ a b, p (f a b) = p a) (l : List β) (a : α) : p (l.foldl f a) = p a :=
  foldl_keeps (fun x => p x = p a) f (fun x b hx => (h x b).trans hx) l a rfl

/-- The reset memory is canonical. -/
theorem reset_mem_wf : Memory.wf State.reset.mem := rfl

/-! ## Operations that leave memory alone -/

@[simp] theorem noteWatch_mem (s : State) (line : Nat) : (noteWatch s line).mem = s.mem := rfl
@[simp] theorem setClusterLine_mem (s : State) (cl line : Nat) (l : Line) : (setClusterLine s cl line l).mem = s.mem := rfl
@[simp] theorem clusterFill_mem (s : State) (cl line : Nat) : (clusterFill s cl line).mem = s.mem := setClusterLine_mem _ _ _ _
@[simp] theorem clusterPut_mem (s : State) (cl pa : Nat) (b : Byte) : (clusterPut s cl pa b).mem = s.mem := rfl
@[simp] theorem dropClean_mem (s : State) (cl line : Nat) : (dropClean s cl line).mem = s.mem := rfl
@[simp] theorem mergeLine_mem (s : State) (cl line : Nat) (l : StoreLine) : (mergeLine s cl line l).mem = s.mem := by
  unfold mergeLine
  refine foldl_same State.mem _ ?_ _ _
  intro a b; exact clusterPut_mem _ _ _ _
/-- R257: a commit changes the cluster cache, not the memory side. -/
@[simp] theorem commitGang_mem (s : State) (gang : Nat) : (commitGang s gang).mem = s.mem := by
  unfold commitGang
  rw [setGangAt_mem]
  refine foldl_same State.mem _ ?_ _ _
  intro a e
  cases e.2 <;> simp
@[simp] theorem closeWindow_mem (s : State) (gang : Nat) : (closeWindow s gang).mem = s.mem := by
  unfold closeWindow; simp only []; split <;> simp
@[simp] theorem makeRoom_mem (s : State) (gang line : Nat) : (makeRoom s gang line).mem = s.mem := by
  unfold makeRoom; simp only []
  repeat' split
  all_goals simp
/-- R256: a store changes the gang's store buffer, not the memory side. -/
@[simp] theorem storeByte_mem (s : State) (gang blk grp : Nat) (idx : W32) (pa : Nat) (b : Byte) : (storeByte s gang blk grp idx pa b).mem = s.mem := by
  simp [storeByte]
@[simp] theorem storeBytes_mem (bs : List Byte) (s : State) (gang blk grp : Nat) (idx : W32) (pa : Nat) :
    (storeBytes s gang blk grp idx pa bs).mem = s.mem := by
  induction bs generalizing s pa with
  | nil => rfl
  | cons b r ih => simp [storeBytes, ih]
@[simp] theorem rcacheFill_mem (s : State) (core cl line : Nat) : (rcacheFill s core cl line).mem = s.mem := by
  unfold rcacheFill; simp only []
  split
  · rfl
  · rw [setCoreAt_mem, clusterFill_mem]

/-! ## Operations that write memory -/

/-- A write leaves the same memory whether or not it ends waits. -/
@[simp] theorem memWrite_mem (s : State) (pa : Nat) (bs : List Byte) : (memWrite s pa bs).mem = (memPut s pa bs).mem := by
  unfold memWrite
  simp only []
  split
  · rfl
  · refine foldl_same State.mem _ ?_ _ _
    intro a b; rfl

/-- R233: after a write, each byte of the memory that it covers reads as written, and every other byte as before. -/
theorem memByte_memPut (s : State) (pa a : Nat) (bs : List Byte) : memByte (memPut s pa bs) a =
    if pa ≤ a ∧ a < pa + bs.length ∧ a < memSize then (bs[a - pa]?).getD memDefault else memByte s a := by
  unfold memByte memPut
  simp only [get_setList, List.length_take]
  by_cases h : a < memSize
  · by_cases hc : pa ≤ a ∧ a < pa + bs.length
    · rw [if_pos h, if_pos (by omega), if_pos ⟨hc.1, hc.2, h⟩, List.getElem?_take_of_lt (by omega)]
    · rw [if_pos h, if_neg (by omega), if_neg (by omega), if_pos h]
  · rw [if_neg h, if_neg (by omega), if_neg h]
theorem memByte_memWrite (s : State) (pa a : Nat) (bs : List Byte) : memByte (memWrite s pa bs) a =
    if pa ≤ a ∧ a < pa + bs.length ∧ a < memSize then (bs[a - pa]?).getD memDefault else memByte s a := by
  rw [← memByte_memPut]; unfold memByte; rw [memWrite_mem]

theorem memPut_wf {s : State} (h : Memory.wf s.mem) (pa : Nat) (bs : List Byte) : Memory.wf (memPut s pa bs).mem := wf_setList _ h
theorem memWrite_wf {s : State} (h : Memory.wf s.mem) (pa : Nat) (bs : List Byte) : Memory.wf (memWrite s pa bs).mem := by
  rw [memWrite_mem]; exact memPut_wf h _ _
theorem memWriteNat_wf {s : State} (h : Memory.wf s.mem) (pa len n : Nat) : Memory.wf (memWriteNat s pa len n).mem := memWrite_wf h _ _
theorem lowerWait_wf {s : State} (h : Memory.wf s.mem) (desc : Nat) : Memory.wf (lowerWait s desc).mem := memWriteNat_wf h _ _ _
theorem dropWaiters_wf {s : State} (h : Memory.wf s.mem) (f : Waiter → Bool) : Memory.wf (dropWaiters s f).mem := by
  unfold dropWaiters
  refine foldl_keeps (fun t : State => Memory.wf t.mem) _ ?_ _ _ h
  intro t w ht
  by_cases hw : w.got.isNone = true
  · simp only [hw, if_true]; exact lowerWait_wf ht _
  · simp only [hw]; exact ht
theorem cleanLine_wf {s : State} (h : Memory.wf s.mem) (cl line : Nat) : Memory.wf (cleanLine s cl line).mem := by
  unfold cleanLine
  simp only []
  split
  · exact h
  · show Memory.wf (State.mem (List.foldl _ s (List.range 128)))
    refine foldl_keeps (fun t : State => Memory.wf t.mem) _ ?_ _ _ h
    intro t o ht
    split
    · split
      · split
        · exact wf_set ht
        · exact ht
      · exact ht
    · exact ht
theorem writeBack_wf {s : State} (h : Memory.wf s.mem) (cl line : Nat) : Memory.wf (writeBack s cl line).mem := by
  unfold writeBack
  split
  · exact h
  · rw [noteWatch_mem]; exact cleanLine_wf h _ _
theorem invalidateLine_wf {s : State} (h : Memory.wf s.mem) (cl line : Nat) : Memory.wf (invalidateLine s cl line).mem := writeBack_wf h cl line
theorem deviceWrite_wf {s : State} (h : Memory.wf s.mem) (cl pa len n : Nat) : Memory.wf (deviceWrite s cl pa len n).mem := by
  unfold deviceWrite
  refine foldl_keeps (fun t : State => Memory.wf t.mem) _ ?_ _ _ (memWriteNat_wf h _ _ _)
  intro t _ ht; exact ht
theorem writeArea_wf (asid : Nat) (sup : Bool) (cl fuel va : Nat) (bs : List Byte) {s t : State} (h : Memory.wf s.mem)
    (ht : writeArea asid sup cl fuel va bs s = .ok t) : Memory.wf t.mem := by
  induction fuel generalizing va bs s with
  | zero => cases ht; exact h
  | succ n ih =>
    unfold writeArea at ht
    split at ht
    · cases ht; exact h
    · split at ht
      · cases ht
      · refine ih _ _ ?_ ht
        refine foldl_keeps (fun u : State => Memory.wf u.mem) _ ?_ _ _ (memPut_wf h _ _)
        intro u _ hu; exact hu
theorem writeVirtual_wf {s t : State} {asid cl va : Nat} {sup : Bool} {bs : List Byte} (h : Memory.wf s.mem)
    (ht : writeVirtual s asid sup cl va bs = .ok t) : Memory.wf t.mem := writeArea_wf _ _ _ _ _ _ h ht
theorem hostPut_wf {s : State} (h : Memory.wf s.mem) (line : Nat) (data : BitVec 1024) (mask : BitVec 128) : Memory.wf (hostPut s line data mask).mem := by
  unfold hostPut
  simp only []
  split
  · exact h
  · rw [noteWatch_mem]
    refine foldl_keeps (fun m => Memory.wf m) _ ?_ _ _ h
    intro m k hm
    split
    · exact wf_set hm
    · exact hm

end Sys2Proof.Laws
end

