-- ==== Sys2Proof/Laws/PerInstr.lean ====
section
/-!
SUPPORT. The family HasWord: an instruction of one of the three streams has a word, and an event of the device has none. One lemma per constructor.
-/

namespace Sys2Proof.Laws

/-- An instruction has a word just when a stream issues it. -/
def HasWord.Statement (i : Instr) : Prop := (encode i).isSome = i.stream.isSome

theorem HasWord.nop : HasWord.Statement .nop := rfl
theorem HasWord.stop : HasWord.Statement .stop := rfl
theorem HasWord.br x0 : HasWord.Statement (.br x0) := rfl
theorem HasWord.brc x0 x1 : HasWord.Statement (.brc x0 x1) := rfl
theorem HasWord.pbr x0 x1 x2 : HasWord.Statement (.pbr x0 x1 x2) := rfl
theorem HasWord.call x0 : HasWord.Statement (.call x0) := rfl
theorem HasWord.ret : HasWord.Statement .ret := rfl
theorem HasWord.jmpr x0 : HasWord.Statement (.jmpr x0) := rfl
theorem HasWord.loops x0 x1 : HasWord.Statement (.loops x0 x1) := rfl
theorem HasWord.yield : HasWord.Statement .yield := rfl
theorem HasWord.setm x0 x1 : HasWord.Statement (.setm x0 x1) := rfl
theorem HasWord.setmReg x0 x1 : HasWord.Statement (.setmReg x0 x1) := rfl
theorem HasWord.setmr x0 : HasWord.Statement (.setmr x0) := rfl
theorem HasWord.getm x0 : HasWord.Statement (.getm x0) := rfl
theorem HasWord.rdsr x0 x1 : HasWord.Statement (.rdsr x0 x1) := rfl
theorem HasWord.wrsr x0 x1 : HasWord.Statement (.wrsr x0 x1) := rfl
theorem HasWord.trap x0 : HasWord.Statement (.trap x0) := rfl
theorem HasWord.hostCallRecord : HasWord.Statement .hostCallRecord := rfl
theorem HasWord.bkpt x0 : HasWord.Statement (.bkpt x0) := rfl
theorem HasWord.eret : HasWord.Statement .eret := rfl
theorem HasWord.xsel x0 : HasWord.Statement (.xsel x0) := rfl
theorem HasWord.xrv x0 x1 : HasWord.Statement (.xrv x0 x1) := rfl
theorem HasWord.xwv x0 x1 : HasWord.Statement (.xwv x0 x1) := rfl
theorem HasWord.xrs x0 x1 x2 : HasWord.Statement (.xrs x0 x1 x2) := rfl
theorem HasWord.xws x0 x1 x2 : HasWord.Statement (.xws x0 x1 x2) := rfl
theorem HasWord.sadd x0 x1 x2 : HasWord.Statement (.sadd x0 x1 x2) := rfl
theorem HasWord.ssub x0 x1 x2 : HasWord.Statement (.ssub x0 x1 x2) := rfl
theorem HasWord.smul x0 x1 x2 : HasWord.Statement (.smul x0 x1 x2) := rfl
theorem HasWord.smulh x0 x1 x2 : HasWord.Statement (.smulh x0 x1 x2) := rfl
theorem HasWord.smulhn x0 x1 x2 : HasWord.Statement (.smulhn x0 x1 x2) := rfl
theorem HasWord.sdiv x0 x1 x2 : HasWord.Statement (.sdiv x0 x1 x2) := rfl
theorem HasWord.sdivn x0 x1 x2 : HasWord.Statement (.sdivn x0 x1 x2) := rfl
theorem HasWord.srem x0 x1 x2 : HasWord.Statement (.srem x0 x1 x2) := rfl
theorem HasWord.sremn x0 x1 x2 : HasWord.Statement (.sremn x0 x1 x2) := rfl
theorem HasWord.sand x0 x1 x2 : HasWord.Statement (.sand x0 x1 x2) := rfl
theorem HasWord.sor x0 x1 x2 : HasWord.Statement (.sor x0 x1 x2) := rfl
theorem HasWord.sxor x0 x1 x2 : HasWord.Statement (.sxor x0 x1 x2) := rfl
theorem HasWord.sshl x0 x1 x2 : HasWord.Statement (.sshl x0 x1 x2) := rfl
theorem HasWord.sshr x0 x1 x2 : HasWord.Statement (.sshr x0 x1 x2) := rfl
theorem HasWord.ssar x0 x1 x2 : HasWord.Statement (.ssar x0 x1 x2) := rfl
theorem HasWord.smin x0 x1 x2 : HasWord.Statement (.smin x0 x1 x2) := rfl
theorem HasWord.smax x0 x1 x2 : HasWord.Statement (.smax x0 x1 x2) := rfl
theorem HasWord.sminn x0 x1 x2 : HasWord.Statement (.sminn x0 x1 x2) := rfl
theorem HasWord.smaxn x0 x1 x2 : HasWord.Statement (.smaxn x0 x1 x2) := rfl
theorem HasWord.smov x0 x1 x2 : HasWord.Statement (.smov x0 x1 x2) := rfl
theorem HasWord.snot x0 x1 x2 : HasWord.Statement (.snot x0 x1 x2) := rfl
theorem HasWord.sneg x0 x1 x2 : HasWord.Statement (.sneg x0 x1 x2) := rfl
theorem HasWord.sclz x0 x1 x2 : HasWord.Statement (.sclz x0 x1 x2) := rfl
theorem HasWord.spopc x0 x1 x2 : HasWord.Statement (.spopc x0 x1 x2) := rfl
theorem HasWord.scmp x0 x1 x2 : HasWord.Statement (.scmp x0 x1 x2) := rfl
theorem HasWord.scmpn x0 x1 x2 : HasWord.Statement (.scmpn x0 x1 x2) := rfl
theorem HasWord.saddi x0 x1 : HasWord.Statement (.saddi x0 x1) := rfl
theorem HasWord.smovi x0 x1 : HasWord.Statement (.smovi x0 x1) := rfl
theorem HasWord.slit x0 : HasWord.Statement (.slit x0) := rfl
theorem HasWord.saddc x0 x1 x2 : HasWord.Statement (.saddc x0 x1 x2) := rfl
theorem HasWord.ssubb x0 x1 x2 : HasWord.Statement (.ssubb x0 x1 x2) := rfl
theorem HasWord.ssel x0 x1 x2 x3 : HasWord.Statement (.ssel x0 x1 x2 x3) := rfl
theorem HasWord.pand x0 x1 x2 : HasWord.Statement (.pand x0 x1 x2) := rfl
theorem HasWord.por x0 x1 x2 : HasWord.Statement (.por x0 x1 x2) := rfl
theorem HasWord.pxor x0 x1 x2 : HasWord.Statement (.pxor x0 x1 x2) := rfl
theorem HasWord.pnot x0 x1 : HasWord.Statement (.pnot x0 x1) := rfl
theorem HasWord.pmov x0 x1 : HasWord.Statement (.pmov x0 x1) := rfl
theorem HasWord.psets x0 x1 : HasWord.Statement (.psets x0 x1) := rfl
theorem HasWord.pgets x0 x1 : HasWord.Statement (.pgets x0 x1) := rfl
theorem HasWord.pcnt x0 x1 : HasWord.Statement (.pcnt x0 x1) := rfl
theorem HasWord.pffs x0 x1 : HasWord.Statement (.pffs x0 x1) := rfl
theorem HasWord.plane x0 x1 : HasWord.Statement (.plane x0 x1) := rfl
theorem HasWord.ppush x0 : HasWord.Statement (.ppush x0) := rfl
theorem HasWord.ppop x0 : HasWord.Statement (.ppop x0) := rfl
theorem HasWord.vadd x0 x1 x2 : HasWord.Statement (.vadd x0 x1 x2) := rfl
theorem HasWord.vsub x0 x1 x2 : HasWord.Statement (.vsub x0 x1 x2) := rfl
theorem HasWord.vmul x0 x1 x2 : HasWord.Statement (.vmul x0 x1 x2) := rfl
theorem HasWord.vmulh x0 x1 x2 : HasWord.Statement (.vmulh x0 x1 x2) := rfl
theorem HasWord.vmad x0 x1 x2 : HasWord.Statement (.vmad x0 x1 x2) := rfl
theorem HasWord.vand x0 x1 x2 : HasWord.Statement (.vand x0 x1 x2) := rfl
theorem HasWord.vor x0 x1 x2 : HasWord.Statement (.vor x0 x1 x2) := rfl
theorem HasWord.vxor x0 x1 x2 : HasWord.Statement (.vxor x0 x1 x2) := rfl
theorem HasWord.vnot x0 x1 : HasWord.Statement (.vnot x0 x1) := rfl
theorem HasWord.vshl x0 x1 x2 : HasWord.Statement (.vshl x0 x1 x2) := rfl
theorem HasWord.vshr x0 x1 x2 : HasWord.Statement (.vshr x0 x1 x2) := rfl
theorem HasWord.vmin x0 x1 x2 : HasWord.Statement (.vmin x0 x1 x2) := rfl
theorem HasWord.vmax x0 x1 x2 : HasWord.Statement (.vmax x0 x1 x2) := rfl
theorem HasWord.vabs x0 x1 : HasWord.Statement (.vabs x0 x1) := rfl
theorem HasWord.vclz x0 x1 : HasWord.Statement (.vclz x0 x1) := rfl
theorem HasWord.vpopc x0 x1 : HasWord.Statement (.vpopc x0 x1) := rfl
theorem HasWord.vsel x0 x1 x2 : HasWord.Statement (.vsel x0 x1 x2) := rfl
theorem HasWord.vmov x0 x1 : HasWord.Statement (.vmov x0 x1) := rfl
theorem HasWord.vbcast x0 x1 : HasWord.Statement (.vbcast x0 x1) := rfl
theorem HasWord.vlane x0 : HasWord.Statement (.vlane x0) := rfl
theorem HasWord.vshfl x0 x1 x2 : HasWord.Statement (.vshfl x0 x1 x2) := rfl
theorem HasWord.vrot x0 x1 x2 : HasWord.Statement (.vrot x0 x1 x2) := rfl
theorem HasWord.vscan x0 x1 x2 : HasWord.Statement (.vscan x0 x1 x2) := rfl
theorem HasWord.vred x0 x1 x2 : HasWord.Statement (.vred x0 x1 x2) := rfl
theorem HasWord.vcmp x0 x1 x2 x3 : HasWord.Statement (.vcmp x0 x1 x2 x3) := rfl
theorem HasWord.vpack x0 x1 x2 : HasWord.Statement (.vpack x0 x1 x2) := rfl
theorem HasWord.vunpk x0 x1 x2 : HasWord.Statement (.vunpk x0 x1 x2) := rfl
theorem HasWord.vhash x0 x1 : HasWord.Statement (.vhash x0 x1) := rfl
theorem HasWord.vxtr x0 x1 x2 : HasWord.Statement (.vxtr x0 x1 x2) := rfl
theorem HasWord.vins x0 x1 x2 : HasWord.Statement (.vins x0 x1 x2) := rfl
theorem HasWord.vfadd x0 x1 x2 : HasWord.Statement (.vfadd x0 x1 x2) := rfl
theorem HasWord.vfsub x0 x1 x2 : HasWord.Statement (.vfsub x0 x1 x2) := rfl
theorem HasWord.vfmul x0 x1 x2 : HasWord.Statement (.vfmul x0 x1 x2) := rfl
theorem HasWord.vfmulz x0 x1 x2 : HasWord.Statement (.vfmulz x0 x1 x2) := rfl
theorem HasWord.vfma x0 x1 x2 : HasWord.Statement (.vfma x0 x1 x2) := rfl
theorem HasWord.vfms x0 x1 x2 : HasWord.Statement (.vfms x0 x1 x2) := rfl
theorem HasWord.vfnma x0 x1 x2 : HasWord.Statement (.vfnma x0 x1 x2) := rfl
theorem HasWord.vfdiv x0 x1 x2 : HasWord.Statement (.vfdiv x0 x1 x2) := rfl
theorem HasWord.vfsqrt x0 x1 : HasWord.Statement (.vfsqrt x0 x1) := rfl
theorem HasWord.vfrsq x0 x1 : HasWord.Statement (.vfrsq x0 x1) := rfl
theorem HasWord.vfrcp x0 x1 : HasWord.Statement (.vfrcp x0 x1) := rfl
theorem HasWord.vfexp x0 x1 : HasWord.Statement (.vfexp x0 x1) := rfl
theorem HasWord.vfexp2 x0 x1 : HasWord.Statement (.vfexp2 x0 x1) := rfl
theorem HasWord.vfexpm1 x0 x1 : HasWord.Statement (.vfexpm1 x0 x1) := rfl
theorem HasWord.vflog x0 x1 : HasWord.Statement (.vflog x0 x1) := rfl
theorem HasWord.vflog2 x0 x1 : HasWord.Statement (.vflog2 x0 x1) := rfl
theorem HasWord.vflog1p x0 x1 : HasWord.Statement (.vflog1p x0 x1) := rfl
theorem HasWord.vfsin x0 x1 : HasWord.Statement (.vfsin x0 x1) := rfl
theorem HasWord.vfcos x0 x1 : HasWord.Statement (.vfcos x0 x1) := rfl
theorem HasWord.vftan x0 x1 : HasWord.Statement (.vftan x0 x1) := rfl
theorem HasWord.vfatan x0 x1 : HasWord.Statement (.vfatan x0 x1) := rfl
theorem HasWord.vfatan2 x0 x1 x2 : HasWord.Statement (.vfatan2 x0 x1 x2) := rfl
theorem HasWord.vftanh x0 x1 : HasWord.Statement (.vftanh x0 x1) := rfl
theorem HasWord.vferf x0 x1 : HasWord.Statement (.vferf x0 x1) := rfl
theorem HasWord.vfpow x0 x1 x2 : HasWord.Statement (.vfpow x0 x1 x2) := rfl
theorem HasWord.vfhyp x0 x1 x2 : HasWord.Statement (.vfhyp x0 x1 x2) := rfl
theorem HasWord.vfmin x0 x1 x2 : HasWord.Statement (.vfmin x0 x1 x2) := rfl
theorem HasWord.vfmax x0 x1 x2 : HasWord.Statement (.vfmax x0 x1 x2) := rfl
theorem HasWord.vfabs x0 x1 : HasWord.Statement (.vfabs x0 x1) := rfl
theorem HasWord.vfneg x0 x1 : HasWord.Statement (.vfneg x0 x1) := rfl
theorem HasWord.vfcps x0 x1 x2 : HasWord.Statement (.vfcps x0 x1 x2) := rfl
theorem HasWord.vfrnd x0 x1 : HasWord.Statement (.vfrnd x0 x1) := rfl
theorem HasWord.vftoi x0 x1 x2 : HasWord.Statement (.vftoi x0 x1 x2) := rfl
theorem HasWord.vitof x0 x1 x2 : HasWord.Statement (.vitof x0 x1 x2) := rfl
theorem HasWord.vfcvt x0 x1 x2 : HasWord.Statement (.vfcvt x0 x1 x2) := rfl
theorem HasWord.vfqnt x0 x1 x2 : HasWord.Statement (.vfqnt x0 x1 x2) := rfl
theorem HasWord.vfdq x0 x1 x2 : HasWord.Statement (.vfdq x0 x1 x2) := rfl
theorem HasWord.vfcls x0 x1 : HasWord.Statement (.vfcls x0 x1) := rfl
theorem HasWord.vfcmp x0 x1 x2 x3 : HasWord.Statement (.vfcmp x0 x1 x2 x3) := rfl
theorem HasWord.vfsmx x0 x1 x2 : HasWord.Statement (.vfsmx x0 x1 x2) := rfl
theorem HasWord.vfssq x0 x1 : HasWord.Statement (.vfssq x0 x1) := rfl
theorem HasWord.vfred x0 x1 x2 : HasWord.Statement (.vfred x0 x1 x2) := rfl
theorem HasWord.vfscan x0 x1 x2 : HasWord.Statement (.vfscan x0 x1 x2) := rfl
theorem HasWord.vfrot x0 x1 x2 : HasWord.Statement (.vfrot x0 x1 x2) := rfl
theorem HasWord.vfldx x0 x1 x2 : HasWord.Statement (.vfldx x0 x1 x2) := rfl
theorem HasWord.vffrx x0 x1 x2 : HasWord.Statement (.vffrx x0 x1 x2) := rfl
theorem HasWord.vfrem x0 x1 x2 : HasWord.Statement (.vfrem x0 x1 x2) := rfl
theorem HasWord.ld x0 x1 x2 x3 : HasWord.Statement (.ld x0 x1 x2 x3) := rfl
theorem HasWord.ldf x0 x1 x2 x3 : HasWord.Statement (.ldf x0 x1 x2 x3) := rfl
theorem HasWord.ldd x0 x1 x2 x3 : HasWord.Statement (.ldd x0 x1 x2 x3) := rfl
theorem HasWord.lda x0 x1 x2 x3 : HasWord.Statement (.lda x0 x1 x2 x3) := rfl
theorem HasWord.st x0 x1 x2 x3 : HasWord.Statement (.st x0 x1 x2 x3) := rfl
theorem HasWord.stnt x0 x1 x2 x3 : HasWord.Statement (.stnt x0 x1 x2 x3) := rfl
theorem HasWord.std x0 x1 x2 x3 : HasWord.Statement (.std x0 x1 x2 x3) := rfl
theorem HasWord.stl x0 x1 x2 x3 : HasWord.Statement (.stl x0 x1 x2 x3) := rfl
theorem HasWord.drainnt : HasWord.Statement .drainnt := rfl
theorem HasWord.fence x0 : HasWord.Statement (.fence x0) := rfl
theorem HasWord.aadd x0 x1 x2 x3 : HasWord.Statement (.aadd x0 x1 x2 x3) := rfl
theorem HasWord.afadd x0 x1 x2 x3 : HasWord.Statement (.afadd x0 x1 x2 x3) := rfl
theorem HasWord.amin x0 x1 x2 x3 : HasWord.Statement (.amin x0 x1 x2 x3) := rfl
theorem HasWord.amax x0 x1 x2 x3 : HasWord.Statement (.amax x0 x1 x2 x3) := rfl
theorem HasWord.aand x0 x1 x2 x3 : HasWord.Statement (.aand x0 x1 x2 x3) := rfl
theorem HasWord.aor x0 x1 x2 x3 : HasWord.Statement (.aor x0 x1 x2 x3) := rfl
theorem HasWord.axor x0 x1 x2 x3 : HasWord.Statement (.axor x0 x1 x2 x3) := rfl
theorem HasWord.axchg x0 x1 x2 x3 : HasWord.Statement (.axchg x0 x1 x2 x3) := rfl
theorem HasWord.acas x0 x1 x2 x3 : HasWord.Statement (.acas x0 x1 x2 x3) := rfl
theorem HasWord.ldb x0 x1 x2 : HasWord.Statement (.ldb x0 x1 x2) := rfl
theorem HasWord.stb x0 x1 x2 : HasWord.Statement (.stb x0 x1 x2) := rfl
theorem HasWord.abadd x0 x1 x2 : HasWord.Statement (.abadd x0 x1 x2) := rfl
theorem HasWord.abcas x0 x1 x2 : HasWord.Statement (.abcas x0 x1 x2) := rfl
theorem HasWord.ldc x0 x1 x2 : HasWord.Statement (.ldc x0 x1 x2) := rfl
theorem HasWord.stc x0 x1 x2 : HasWord.Statement (.stc x0 x1 x2) := rfl
theorem HasWord.pref x0 x1 x2 : HasWord.Statement (.pref x0 x1 x2) := rfl
theorem HasWord.ldkv x0 x1 x2 : HasWord.Statement (.ldkv x0 x1 x2) := rfl
theorem HasWord.stkv x0 x1 x2 : HasWord.Statement (.stkv x0 x1 x2) := rfl
theorem HasWord.kvmap x0 x1 : HasWord.Statement (.kvmap x0 x1) := rfl
theorem HasWord.kvfork x0 x1 : HasWord.Statement (.kvfork x0 x1) := rfl
theorem HasWord.kvdrop x0 x1 : HasWord.Statement (.kvdrop x0 x1) := rfl
theorem HasWord.kvinfo x0 x1 : HasWord.Statement (.kvinfo x0 x1) := rfl
theorem HasWord.bar x0 : HasWord.Statement (.bar x0) := rfl
theorem HasWord.bara x0 : HasWord.Statement (.bara x0) := rfl
theorem HasWord.barw x0 : HasWord.Statement (.barw x0) := rfl
theorem HasWord.gbar x0 x1 : HasWord.Statement (.gbar x0 x1) := rfl
theorem HasWord.hwait x0 x1 x2 : HasWord.Statement (.hwait x0 x1 x2) := rfl
theorem HasWord.hset x0 x1 : HasWord.Statement (.hset x0 x1) := rfl
theorem HasWord.wait x0 x1 x2 : HasWord.Statement (.wait x0 x1 x2) := rfl
theorem HasWord.evpop x0 x1 : HasWord.Statement (.evpop x0 x1) := rfl
theorem HasWord.qpush x0 x1 : HasWord.Statement (.qpush x0 x1) := rfl
theorem HasWord.qpop x0 x1 : HasWord.Statement (.qpop x0 x1) := rfl
theorem HasWord.mwatch x0 : HasWord.Statement (.mwatch x0) := rfl
theorem HasWord.mwait : HasWord.Statement .mwait := rfl
theorem HasWord.launch x0 x1 : HasWord.Statement (.launch x0 x1) := rfl
theorem HasWord.signal x0 x1 : HasWord.Statement (.signal x0 x1) := rfl
theorem HasWord.deal x0 : HasWord.Statement (.deal x0) := rfl
theorem HasWord.tkick x0 : HasWord.Statement (.tkick x0) := rfl
theorem HasWord.ckpt : HasWord.Statement .ckpt := rfl
theorem HasWord.clock x0 : HasWord.Statement (.clock x0) := rfl
theorem HasWord.clksync : HasWord.Statement .clksync := rfl
theorem HasWord.rngk x0 x1 x2 : HasWord.Statement (.rngk x0 x1 x2) := rfl
theorem HasWord.rng x0 : HasWord.Statement (.rng x0) := rfl
theorem HasWord.rngs : HasWord.Statement .rngs := rfl
theorem HasWord.rngf x0 x1 : HasWord.Statement (.rngf x0 x1) := rfl
theorem HasWord.rngsv x0 : HasWord.Statement (.rngsv x0) := rfl
theorem HasWord.rngld x0 : HasWord.Statement (.rngld x0) := rfl
theorem HasWord.illegalInstruction x0 : HasWord.Statement (.illegalInstruction x0) := rfl
theorem HasWord.matrixStreamIllegal x0 : HasWord.Statement (.matrixStreamIllegal x0) := rfl
theorem HasWord.tenderIllegal x0 : HasWord.Statement (.tenderIllegal x0) := rfl
theorem HasWord.mnop : HasWord.Statement .mnop := rfl
theorem HasWord.mend : HasWord.Statement .mend := rfl
theorem HasWord.mli x0 x1 : HasWord.Statement (.mli x0 x1) := rfl
theorem HasWord.maddi x0 x1 : HasWord.Statement (.maddi x0 x1) := rfl
theorem HasWord.mbr x0 x1 x2 : HasWord.Statement (.mbr x0 x1 x2) := rfl
theorem HasWord.mloop x0 x1 : HasWord.Statement (.mloop x0 x1) := rfl
theorem HasWord.msetf x0 : HasWord.Statement (.msetf x0) := rfl
theorem HasWord.mtile x0 x1 x2 : HasWord.Statement (.mtile x0 x1 x2) := rfl
theorem HasWord.mbind x0 x1 x2 x3 : HasWord.Statement (.mbind x0 x1 x2 x3) := rfl
theorem HasWord.mrmt x0 x1 x2 x3 x4 : HasWord.Statement (.mrmt x0 x1 x2 x3 x4) := rfl
theorem HasWord.mzero : HasWord.Statement .mzero := rfl
theorem HasWord.mma x0 x1 x2 : HasWord.Statement (.mma x0 x1 x2) := rfl
theorem HasWord.mmas x0 x1 x2 : HasWord.Statement (.mmas x0 x1 x2) := rfl
theorem HasWord.mepi x0 x1 x2 x3 x4 x5 x6 : HasWord.Statement (.mepi x0 x1 x2 x3 x4 x5 x6) := rfl
theorem HasWord.mepkv x0 x1 x2 x3 x4 x5 : HasWord.Statement (.mepkv x0 x1 x2 x3 x4 x5) := rfl
theorem HasWord.att x0 x1 x2 x3 x4 x5 x6 : HasWord.Statement (.att x0 x1 x2 x3 x4 x5 x6) := rfl
theorem HasWord.mbar x0 x1 x2 : HasWord.Statement (.mbar x0 x1 x2) := rfl
theorem HasWord.mwaith x0 x1 x2 x3 : HasWord.Statement (.mwaith x0 x1 x2 x3) := rfl
theorem HasWord.mhset x0 x1 x2 : HasWord.Statement (.mhset x0 x1 x2) := rfl
theorem HasWord.mchk x0 x1 : HasWord.Statement (.mchk x0 x1) := rfl
theorem HasWord.mstat x0 x1 : HasWord.Statement (.mstat x0 x1) := rfl
theorem HasWord.engineWordStart x0 x1 : HasWord.Statement (.engineWordStart x0 x1) := rfl
theorem HasWord.escalationBudget x0 x1 : HasWord.Statement (.escalationBudget x0 x1) := rfl
theorem HasWord.engineWordComplete x0 x1 : HasWord.Statement (.engineWordComplete x0 x1) := rfl
theorem HasWord.tnop : HasWord.Statement .tnop := rfl
theorem HasWord.tend : HasWord.Statement .tend := rfl
theorem HasWord.tli x0 x1 : HasWord.Statement (.tli x0 x1) := rfl
theorem HasWord.tlih x0 x1 x2 : HasWord.Statement (.tlih x0 x1 x2) := rfl
theorem HasWord.tadd x0 x1 x2 : HasWord.Statement (.tadd x0 x1 x2) := rfl
theorem HasWord.taddImm x0 x1 x2 : HasWord.Statement (.taddImm x0 x1 x2) := rfl
theorem HasWord.tsub x0 x1 x2 : HasWord.Statement (.tsub x0 x1 x2) := rfl
theorem HasWord.tsubImm x0 x1 x2 : HasWord.Statement (.tsubImm x0 x1 x2) := rfl
theorem HasWord.tmul x0 x1 x2 : HasWord.Statement (.tmul x0 x1 x2) := rfl
theorem HasWord.tmulImm x0 x1 x2 : HasWord.Statement (.tmulImm x0 x1 x2) := rfl
theorem HasWord.tmad x0 x1 x2 : HasWord.Statement (.tmad x0 x1 x2) := rfl
theorem HasWord.tmadImm x0 x1 x2 : HasWord.Statement (.tmadImm x0 x1 x2) := rfl
theorem HasWord.tshl x0 x1 x2 : HasWord.Statement (.tshl x0 x1 x2) := rfl
theorem HasWord.tshlImm x0 x1 x2 : HasWord.Statement (.tshlImm x0 x1 x2) := rfl
theorem HasWord.tshr x0 x1 x2 : HasWord.Statement (.tshr x0 x1 x2) := rfl
theorem HasWord.tshrImm x0 x1 x2 : HasWord.Statement (.tshrImm x0 x1 x2) := rfl
theorem HasWord.tand x0 x1 x2 : HasWord.Statement (.tand x0 x1 x2) := rfl
theorem HasWord.tandImm x0 x1 x2 : HasWord.Statement (.tandImm x0 x1 x2) := rfl
theorem HasWord.tor x0 x1 x2 : HasWord.Statement (.tor x0 x1 x2) := rfl
theorem HasWord.torImm x0 x1 x2 : HasWord.Statement (.torImm x0 x1 x2) := rfl
theorem HasWord.tmin x0 x1 x2 : HasWord.Statement (.tmin x0 x1 x2) := rfl
theorem HasWord.tminImm x0 x1 x2 : HasWord.Statement (.tminImm x0 x1 x2) := rfl
theorem HasWord.tmax x0 x1 x2 : HasWord.Statement (.tmax x0 x1 x2) := rfl
theorem HasWord.tmaxImm x0 x1 x2 : HasWord.Statement (.tmaxImm x0 x1 x2) := rfl
theorem HasWord.tbc x0 x1 x2 : HasWord.Statement (.tbc x0 x1 x2) := rfl
theorem HasWord.tba x0 x1 x2 : HasWord.Statement (.tba x0 x1 x2) := rfl
theorem HasWord.tloop x0 x1 : HasWord.Statement (.tloop x0 x1) := rfl
theorem HasWord.tld x0 x1 x2 x3 : HasWord.Statement (.tld x0 x1 x2 x3) := rfl
theorem HasWord.tldEnv x0 x1 : HasWord.Statement (.tldEnv x0 x1) := rfl
theorem HasWord.tst x0 x1 x2 x3 : HasWord.Statement (.tst x0 x1 x2 x3) := rfl
theorem HasWord.tldb x0 x1 x2 x3 : HasWord.Statement (.tldb x0 x1 x2 x3) := rfl
theorem HasWord.tdesc x0 x1 : HasWord.Statement (.tdesc x0 x1) := rfl
theorem HasWord.tcopy x0 x1 x2 x3 x4 x5 : HasWord.Statement (.tcopy x0 x1 x2 x3 x4 x5) := rfl
theorem HasWord.tstore x0 x1 x2 x3 x4 x5 : HasWord.Statement (.tstore x0 x1 x2 x3 x4 x5) := rfl
theorem HasWord.tcopyl x0 x1 x2 x3 x4 : HasWord.Statement (.tcopyl x0 x1 x2 x3 x4) := rfl
theorem HasWord.tgath x0 x1 x2 x3 : HasWord.Statement (.tgath x0 x1 x2 x3) := rfl
theorem HasWord.tscat x0 x1 x2 x3 : HasWord.Statement (.tscat x0 x1 x2 x3) := rfl
theorem HasWord.tkvr x0 x1 x2 x3 x4 x5 : HasWord.Statement (.tkvr x0 x1 x2 x3 x4 x5) := rfl
theorem HasWord.tkvw x0 x1 x2 x3 x4 x5 : HasWord.Statement (.tkvw x0 x1 x2 x3 x4 x5) := rfl
theorem HasWord.tcvt x0 x1 x2 x3 x4 : HasWord.Statement (.tcvt x0 x1 x2 x3 x4) := rfl
theorem HasWord.tred x0 x1 x2 x3 x4 : HasWord.Statement (.tred x0 x1 x2 x3 x4) := rfl
theorem HasWord.tmcast x0 x1 x2 x3 x4 x5 : HasWord.Statement (.tmcast x0 x1 x2 x3 x4 x5) := rfl
theorem HasWord.tbar x0 x1 x2 : HasWord.Statement (.tbar x0 x1 x2) := rfl
theorem HasWord.thset x0 x1 : HasWord.Statement (.thset x0 x1) := rfl
theorem HasWord.thwait x0 x1 x2 : HasWord.Statement (.thwait x0 x1 x2) := rfl
theorem HasWord.tevt x0 x1 x2 x3 : HasWord.Statement (.tevt x0 x1 x2 x3) := rfl
theorem HasWord.tsend x0 x1 x2 x3 : HasWord.Statement (.tsend x0 x1 x2 x3) := rfl
theorem HasWord.trecv x0 x1 x2 x3 : HasWord.Statement (.trecv x0 x1 x2 x3) := rfl
theorem HasWord.tfence x0 : HasWord.Statement (.tfence x0) := rfl
theorem HasWord.twait x0 : HasWord.Statement (.twait x0) := rfl
theorem HasWord.ttrap x0 : HasWord.Statement (.ttrap x0) := rfl
theorem HasWord.tcopylIteration x0 x1 x2 : HasWord.Statement (.tcopylIteration x0 x1 x2) := rfl
theorem HasWord.copyWordComplete x0 x1 x2 : HasWord.Statement (.copyWordComplete x0 x1 x2) := rfl
theorem HasWord.eventPost x0 x1 : HasWord.Statement (.eventPost x0 x1) := rfl
theorem HasWord.barrierRelease x0 x1 x2 : HasWord.Statement (.barrierRelease x0 x1 x2) := rfl
theorem HasWord.variableLatencyWriteback x0 x1 x2 x3 : HasWord.Statement (.variableLatencyWriteback x0 x1 x2 x3) := rfl
theorem HasWord.replay x0 x1 x2 : HasWord.Statement (.replay x0 x1 x2) := rfl
theorem HasWord.beaconTake x0 : HasWord.Statement (.beaconTake x0) := rfl
theorem HasWord.beaconComplete x0 x1 x2 : HasWord.Statement (.beaconComplete x0 x1 x2) := rfl
theorem HasWord.lanternTake x0 : HasWord.Statement (.lanternTake x0) := rfl
theorem HasWord.lanternComplete x0 : HasWord.Statement (.lanternComplete x0) := rfl
theorem HasWord.commit x0 x1 : HasWord.Statement (.commit x0 x1) := rfl
theorem HasWord.tinvctl x0 : HasWord.Statement (.tinvctl x0) := rfl
theorem HasWord.translationInvalidationDone : HasWord.Statement .translationInvalidationDone := rfl
theorem HasWord.kvinvctl x0 : HasWord.Statement (.kvinvctl x0) := rfl
theorem HasWord.kvInvalidationDone : HasWord.Statement .kvInvalidationDone := rfl
theorem HasWord.xrel x0 : HasWord.Statement (.xrel x0) := rfl
theorem HasWord.xfail x0 : HasWord.Statement (.xfail x0) := rfl
theorem HasWord.handlerStart x0 : HasWord.Statement (.handlerStart x0) := rfl
theorem HasWord.taskDequeue : HasWord.Statement .taskDequeue := rfl
theorem HasWord.ageing x0 : HasWord.Statement (.ageing x0) := rfl
theorem HasWord.gangPlacement : HasWord.Statement .gangPlacement := rfl
theorem HasWord.reservation : HasWord.Statement .reservation := rfl
theorem HasWord.drainLimit x0 : HasWord.Statement (.drainLimit x0) := rfl
theorem HasWord.saveComplete x0 : HasWord.Statement (.saveComplete x0) := rfl
theorem HasWord.edgeAction x0 x1 : HasWord.Statement (.edgeAction x0 x1) := rfl
theorem HasWord.gangStart x0 : HasWord.Statement (.gangStart x0) := rfl
theorem HasWord.gangCompletion x0 : HasWord.Statement (.gangCompletion x0) := rfl
theorem HasWord.gangRetirement x0 : HasWord.Statement (.gangRetirement x0) := rfl
theorem HasWord.taskRetirement x0 : HasWord.Statement (.taskRetirement x0) := rfl
theorem HasWord.hread x0 x1 x2 : HasWord.Statement (.hread x0 x1 x2) := rfl
theorem HasWord.hwrite x0 x1 x2 : HasWord.Statement (.hwrite x0 x1 x2) := rfl
theorem HasWord.notify x0 : HasWord.Statement (.notify x0) := rfl
theorem HasWord.reply x0 x1 : HasWord.Statement (.reply x0 x1) := rfl
theorem HasWord.tinv x0 x1 x2 : HasWord.Statement (.tinv x0 x1 x2) := rfl
theorem HasWord.cancel x0 x1 : HasWord.Statement (.cancel x0 x1) := rfl
theorem HasWord.srdata x0 x1 : HasWord.Statement (.srdata x0 x1) := rfl
theorem HasWord.swack x0 : HasWord.Statement (.swack x0) := rfl
theorem HasWord.sares x0 x1 x2 : HasWord.Statement (.sares x0 x1 x2) := rfl
theorem HasWord.discardedFlit x0 : HasWord.Statement (.discardedFlit x0) := rfl
theorem HasWord.mgmtWrite x0 x1 x2 : HasWord.Statement (.mgmtWrite x0 x1 x2) := rfl
theorem HasWord.mremove x0 x1 : HasWord.Statement (.mremove x0 x1) := rfl
theorem HasWord.mattcmd x0 x1 : HasWord.Statement (.mattcmd x0 x1) := rfl
theorem HasWord.attestationReport : HasWord.Statement .attestationReport := rfl
theorem HasWord.powerGood x0 : HasWord.Statement (.powerGood x0) := rfl
theorem HasWord.powerCap : HasWord.Statement .powerCap := rfl
theorem HasWord.outletAbove60 : HasWord.Statement .outletAbove60 := rfl
theorem HasWord.outletAbove70 : HasWord.Statement .outletAbove70 := rfl
theorem HasWord.announce x0 x1 x2 : HasWord.Statement (.announce x0 x1 x2) := rfl
theorem HasWord.grant x0 x1 x2 : HasWord.Statement (.grant x0 x1 x2) := rfl
theorem HasWord.peerData x0 x1 x2 : HasWord.Statement (.peerData x0 x1 x2) := rfl
theorem HasWord.peerCompletion x0 x1 : HasWord.Statement (.peerCompletion x0 x1) := rfl
theorem HasWord.portInactive x0 : HasWord.Statement (.portInactive x0) := rfl
theorem HasWord.pageWalkEnd x0 x1 x2 : HasWord.Statement (.pageWalkEnd x0 x1 x2) := rfl
theorem HasWord.averageBelowPcap : HasWord.Statement .averageBelowPcap := rfl
theorem HasWord.outletBelow60 : HasWord.Statement .outletBelow60 := rfl
theorem HasWord.moduleLimitsExceeded : HasWord.Statement .moduleLimitsExceeded := rfl
theorem HasWord.portActive x0 : HasWord.Statement (.portActive x0) := rfl
theorem HasWord.uncorrectableErrorInLogic x0 x1 : HasWord.Statement (.uncorrectableErrorInLogic x0 x1) := rfl

end Sys2Proof.Laws
end

