-- ==== Sys2Proof/Tests/Slice0.lean ====
section
/-!
SUPPORT. Small tests: ill-formed terms, words written out from the spec's encodings, single steps, and states that meet the hypotheses of the statements.
-/

namespace Sys2Proof.Tests

set_option Elab.async false
open Sys2Proof.Machine Sys2Proof.Safety

/-! ## Ill-formed terms: for each check of each word, one that the check refuses -/

/-- An s register above s383 and an odd register of a pair are refused, in each place (R91, R100, R107). -/
theorem test_illformed_arithmetic : ∀ i ∈ [
    Instr.sadd 384 0 false, .sadd 0 511 false, .sadd 1 0 true, .sadd 0 383 true, .ssub 384 0 false, .ssub 0 511 false, .ssub 1 0 true, .ssub
    0 383 true, .smul 384 0 false, .smul 0 511 false, .smul 1 0 true, .smul 0 383 true, .smulh 384 0 false, .smulh 0 511 false, .smulh 1 0
    true, .smulh 0 383 true, .smulhn 384 0 false, .smulhn 0 511 false, .smulhn 1 0 true, .smulhn 0 383 true, .sdiv 384 0 false, .sdiv 0 511
    false, .sdiv 1 0 true, .sdiv 0 383 true, .sdivn 384 0 false, .sdivn 0 511 false, .sdivn 1 0 true, .sdivn 0 383 true, .srem 384 0 false,
    .srem 0 511 false, .srem 1 0 true, .srem 0 383 true, .sremn 384 0 false, .sremn 0 511 false, .sremn 1 0 true, .sremn 0 383 true, .sand
    384 0 false, .sand 0 511 false, .sand 1 0 true, .sand 0 383 true, .sor 384 0 false, .sor 0 511 false, .sor 1 0 true, .sor 0 383 true,
    .sxor 384 0 false, .sxor 0 511 false, .sxor 1 0 true, .sxor 0 383 true, .sshl 384 0 false, .sshl 0 511 false, .sshl 1 0 true, .sshl 0
    383 true, .sshr 384 0 false, .sshr 0 511 false, .sshr 1 0 true, .sshr 0 383 true], i.wf = false := by decide +kernel

/-- The same of the other two-address, one-operand, compare and carry words. -/
theorem test_illformed_scalar : ∀ i ∈ [
    Instr.ssar 384 0 false, .ssar 0 511 false, .ssar 1 0 true, .ssar 0 383 true, .smin 384 0 false, .smin 0 511 false, .smin 1 0 true, .smin
    0 383 true, .smax 384 0 false, .smax 0 511 false, .smax 1 0 true, .smax 0 383 true, .sminn 384 0 false, .sminn 0 511 false, .sminn 1 0
    true, .sminn 0 383 true, .smaxn 384 0 false, .smaxn 0 511 false, .smaxn 1 0 true, .smaxn 0 383 true, .smov 384 0 false, .smov 0 511
    false, .smov 1 0 true, .smov 0 383 true, .snot 384 0 false, .snot 0 511 false, .snot 1 0 true, .snot 0 383 true, .sneg 384 0 false,
    .sneg 0 511 false, .sneg 1 0 true, .sneg 0 383 true, .sclz 384 0 false, .sclz 0 511 false, .sclz 1 0 true, .sclz 0 383 true, .spopc 384
    0 false, .spopc 0 511 false, .spopc 1 0 true, .spopc 0 383 true, .scmp 384 0 false, .scmp 0 511 false, .scmp 1 0 true, .scmp 0 383 true,
    .scmpn 384 0 false, .scmpn 0 511 false, .scmpn 1 0 true, .scmpn 0 383 true, .saddc 384 0 false, .saddc 0 511 false, .saddc 1 0 true,
    .saddc 0 383 true, .ssubb 384 0 false, .ssubb 0 511 false, .ssubb 1 0 true, .ssubb 0 383 true], i.wf = false := by decide +kernel

/-- Codes without a meaning, fields out of range and registers that do not exist are refused (R93, R94, R96, R101, R103, R184). -/
theorem test_illformed_control : ∀ i ∈ [
    Instr.brc 15 0, .pbr 0 3 0, .jmpr 384, .loops 384 1, .loops 0 0, .setm 6 0, .setm 0 16, .setm 1 2, .setm 3 6, .setm 4 2, .setm 5 16,
    .setmReg 6 0, .setmReg 0 384, .setmr 384, .getm 384, .rdsr 384 0, .wrsr 384 0, .xsel 384, .xrs 384 0 0, .xrs 0 384 0, .xrs 0 16 1, .xrs
    0 8 2, .xrs 0 0x13 3, .xrs 0 0 4, .xws 384 0 0, .xws 0 384 0, .xws 0 16 1, .xws 0 8 2, .xws 0 6 3, .xws 0 0 7, .saddi 384 0, .smovi 384
    0, .slit 384, .ssel 384 0 false 0, .ssel 0 384 false 0, .ssel 1 0 true 0, .ssel 0 0 false 15, .psets 0 384, .plane 0 384, .pgets 384 0,
    .pcnt 384 0, .pffs 384 0], i.wf = false := by decide +kernel

/-- Operation, condition and type codes without a meaning and registers out of place are refused (R107, R198, R208, R218, R227, R230). -/
theorem test_illformed_vector : ∀ i ∈ [
    Instr.vscan 0 0 6, .vred 0 0 6, .vcmp 0 6 0 0, .vftoi 0 0 8, .vitof 0 0 7, .vitof 0 0 13, .vfcvt 0 0 7, .vfcvt 0 0 13, .vfqnt 1 0 1,
    .vfcmp 0 8 0 0, .vfred 0 0 3, .vfscan 0 0 3, .rngk 0 1 0, .rngk 0 0 1, .rngsv 2, .rngld 6], i.wf = false := by decide +kernel

/-- Scopes above system and registers out of place are refused (R93, R107, R364 to R369). -/
theorem test_illformed_memory : ∀ i ∈ [
    Instr.ld 0 0 0 6, .ldf 0 0 0 6, .ldd 0 0 0 6, .lda 0 0 0 6, .st 0 0 0 6, .stnt 0 0 0 6, .std 0 0 0 6, .stl 0 0 0 6, .aadd 0 0 0 6,
    .afadd 0 0 0 6, .amin 0 0 0 6, .amax 0 0 0 6, .aand 0 0 0 6, .aor 0 0 0 6, .axor 0 0 0 6, .axchg 0 0 0 6, .acas 0 0 0 6, .fence 6, .pref
    0 0 7, .ldkv 0 1 0, .ldkv 0 0 255, .stkv 0 1 0, .stkv 0 0 255, .kvmap 384 0, .kvmap 0 1, .kvmap 0 384, .kvfork 384 0, .kvfork 0 383,
    .kvdrop 384 0, .kvdrop 0 383, .kvinfo 382 0, .kvinfo 0 1], i.wf = false := by decide +kernel

/-- Modes and registers out of place are refused (R107, R392, R396 to R405). -/
theorem test_illformed_sync : ∀ i ∈ [
    Instr.gbar 0 3, .evpop 2 false, .evpop 384 false, .qpush 384 0, .qpush 0 1, .qpop 384 0, .qpop 0 1, .mwatch 1, .launch 384 0, .launch 0
    1, .signal 384 0, .signal 0 1, .deal 1, .tkick 384, .clock 1], i.wf = false := by decide +kernel

/-- Codes without a meaning of the sequencer and blocks that do not exist are refused (R322 to R327, R338, R344, R346). -/
theorem test_illformed_matrix : ∀ i ∈ [
    Instr.mbr 0 5 0, .mbr 1 0 0, .mbind 2 0 0 1, .mbind 3 0 1 0, .mbind 3 0 0 1, .mrmt 16 0 0 0 0, .mrmt 0 2 0 0 0, .mepkv false 6 false 0 0
    0, .att false 0 6 false 0 0 0, .att false 3 0 false 0 0 0, .mbar false 3 0, .mbar true 0 4, .mwaith 1 0 0 0, .mhset 15 0 0, .mstat 0 7,
    .engineWordStart 0 16, .escalationBudget 0 16, .engineWordComplete 0 16], i.wf = false := by decide +kernel

/-- Codes without a meaning of the Tender are refused (R291, R295 to R316). -/
theorem test_illformed_tender : ∀ i ∈ [
    Instr.tbc 0 6 0, .tld 0 0 3 0, .tldEnv 0 8, .tst 0 0 1 0, .tst 0 0 3 0, .tldb 0 0 0 3, .tcopyl 0 0 0 5 0, .tcvt 0 0 6 false false, .tred
    0 0 0 6 false, .tbar false 0 3, .tbar true 4 0, .tfence 6, .twait 16], i.wf = false := by decide +kernel

/-- An event of a unit that does not exist is refused (R11 to R13). -/
theorem test_illformed_event : ∀ i ∈ [
    Instr.tcopylIteration 0 16 0, .copyWordComplete 0 16 0, .eventPost 0 16, .barrierRelease 0 16 0, .variableLatencyWriteback 0 17 0 0,
    .variableLatencyWriteback 0 0 64 0, .replay 256 (0, 0) true, .replay 0 (17, 0) true, .beaconTake 16, .beaconComplete 256 0 true, .beaconComplete 0
    512 true, .lanternTake 16, .lanternComplete 16, .edgeAction 16 none, .pageWalkEnd 0 17 0, .pageWalkEnd 0 0 64], i.wf = false := by decide +kernel

/-! ## Decoding: for every word, its fields written out from bit 31 down -/

/-- A word from the widths and values of its fields, the highest first. -/
def bits (fs : List (Nat × Nat)) : W32 := BitVec.ofNat 32 (fs.foldl (fun a f => a * 2 ^ f.1 + f.2) 0)

/-- The words of the group stream from NOP to SMAX (R94, R95). -/
theorem test_decode_group_1 : ∀ e ∈ ([
    (bits [(8, 0x00), (24, 0)], .nop),
    (bits [(8, 0x01), (24, 0)], .stop),
    (bits [(8, 0x02), (4, 0), (20, 0xffffe)], .br 0xffffe),
    (bits [(8, 0x03), (4, 0xe), (20, 0xfffdb)], .brc 0xe 0xfffdb),
    (bits [(8, 0x04), (4, 0xf), (2, 2), (18, 0x3fff0)], .pbr 0xf 2 0x3fff0),
    (bits [(8, 0x05), (4, 0), (20, 0xffffe)], .call 0xffffe),
    (bits [(8, 0x06), (24, 0)], .ret),
    (bits [(8, 0x07), (9, 0), (9, 0x17e), (6, 0)], .jmpr 0x17e),
    (bits [(8, 0x08), (9, 0x17e), (15, 0x7fdb)], .loops 0x17e 0x7fdb),
    (bits [(8, 0x09), (24, 0)], .yield),
    (bits [(8, 0x0A), (4, 2), (15, 0), (5, 0x1d)], .setm 2 0x1d),
    (bits [(8, 0x0A), (4, 5), (6, 0x20), (9, 0x17e), (5, 0)], .setmReg 5 0x17e),
    (bits [(8, 0x0B), (9, 0), (9, 0x17e), (6, 0)], .setmr 0x17e),
    (bits [(8, 0x0C), (9, 0x17c), (15, 0)], .getm 0x17c),
    (bits [(8, 0x0D), (9, 0x17c), (6, 0), (9, 0x1a5)], .rdsr 0x17c 0x1a5),
    (bits [(8, 0x0E), (9, 0x17c), (6, 0), (9, 0x1a5)], .wrsr 0x17c 0x1a5),
    (bits [(8, 0x0F), (24, 0xfffffe)], .trap 0xfffffe),
    (bits [(8, 0x10), (24, 0xfffffe)], .bkpt 0xfffffe),
    (bits [(8, 0x11), (24, 0)], .eret),
    (bits [(8, 0x12), (9, 0), (9, 0x17e), (6, 0)], .xsel 0x17e),
    (bits [(8, 0x13), (8, 0xfe), (8, 0xc4), (8, 0)], .xrv 0xfe 0xc4),
    (bits [(8, 0x14), (8, 0xfe), (8, 0xc4), (8, 0)], .xwv 0xfe 0xc4),
    (bits [(8, 0x15), (9, 0x17c), (9, 0x12), (3, 0), (3, 3)], .xrs 0x17c 0x12 3),
    (bits [(8, 0x16), (9, 0x17c), (9, 5), (3, 0), (3, 3)], .xws 0x17c 5 3),
    (bits [(8, 0x18), (9, 0x17c), (9, 0x17e), (1, 1), (5, 0)], .sadd 0x17c 0x17e true),
    (bits [(8, 0x19), (9, 0x17c), (9, 0x17e), (1, 1), (5, 0)], .ssub 0x17c 0x17e true),
    (bits [(8, 0x1A), (9, 0x17c), (9, 0x17e), (1, 1), (5, 0)], .smul 0x17c 0x17e true),
    (bits [(8, 0x1B), (9, 0x17c), (9, 0x17e), (1, 1), (5, 0)], .smulh 0x17c 0x17e true),
    (bits [(8, 0x1C), (9, 0x17c), (9, 0x17e), (1, 1), (5, 0)], .smulhn 0x17c 0x17e true),
    (bits [(8, 0x1D), (9, 0x17c), (9, 0x17e), (1, 1), (5, 0)], .sdiv 0x17c 0x17e true),
    (bits [(8, 0x1E), (9, 0x17c), (9, 0x17e), (1, 1), (5, 0)], .sdivn 0x17c 0x17e true),
    (bits [(8, 0x1F), (9, 0x17c), (9, 0x17e), (1, 1), (5, 0)], .srem 0x17c 0x17e true),
    (bits [(8, 0x20), (9, 0x17c), (9, 0x17e), (1, 1), (5, 0)], .sremn 0x17c 0x17e true),
    (bits [(8, 0x21), (9, 0x17c), (9, 0x17e), (1, 1), (5, 0)], .sand 0x17c 0x17e true),
    (bits [(8, 0x22), (9, 0x17c), (9, 0x17e), (1, 1), (5, 0)], .sor 0x17c 0x17e true),
    (bits [(8, 0x23), (9, 0x17c), (9, 0x17e), (1, 1), (5, 0)], .sxor 0x17c 0x17e true),
    (bits [(8, 0x24), (9, 0x17c), (9, 0x17e), (1, 1), (5, 0)], .sshl 0x17c 0x17e true),
    (bits [(8, 0x25), (9, 0x17c), (9, 0x17e), (1, 1), (5, 0)], .sshr 0x17c 0x17e true),
    (bits [(8, 0x26), (9, 0x17c), (9, 0x17e), (1, 1), (5, 0)], .ssar 0x17c 0x17e true),
    (bits [(8, 0x27), (9, 0x17c), (9, 0x17e), (1, 1), (5, 0)], .smin 0x17c 0x17e true),
    (bits [(8, 0x28), (9, 0x17c), (9, 0x17e), (1, 1), (5, 0)], .smax 0x17c 0x17e true)] : List (W32 × Instr)),
    decodeGroup e.1 = e.2 := by decide +kernel

/-- The words of the group stream from SMINN to VABS (R94, R95). -/
theorem test_decode_group_2 : ∀ e ∈ ([
    (bits [(8, 0x29), (9, 0x17c), (9, 0x17e), (1, 1), (5, 0)], .sminn 0x17c 0x17e true),
    (bits [(8, 0x2A), (9, 0x17c), (9, 0x17e), (1, 1), (5, 0)], .smaxn 0x17c 0x17e true),
    (bits [(8, 0x2B), (9, 0x17c), (9, 0x17e), (1, 1), (5, 0)], .smov 0x17c 0x17e true),
    (bits [(8, 0x2C), (9, 0x17c), (9, 0x17e), (1, 1), (5, 0)], .snot 0x17c 0x17e true),
    (bits [(8, 0x2D), (9, 0x17c), (9, 0x17e), (1, 1), (5, 0)], .sneg 0x17c 0x17e true),
    (bits [(8, 0x2E), (9, 0x17c), (9, 0x17e), (1, 1), (5, 0)], .sclz 0x17c 0x17e true),
    (bits [(8, 0x2F), (9, 0x17c), (9, 0x17e), (1, 1), (5, 0)], .spopc 0x17c 0x17e true),
    (bits [(8, 0x30), (9, 0x17c), (9, 0x17e), (1, 1), (5, 0)], .scmp 0x17c 0x17e true),
    (bits [(8, 0x31), (9, 0x17c), (9, 0x17e), (1, 1), (5, 0)], .scmpn 0x17c 0x17e true),
    (bits [(8, 0x32), (9, 0x17c), (15, 0x7fdb)], .saddi 0x17c 0x7fdb),
    (bits [(8, 0x33), (9, 0x17c), (15, 0x7fdb)], .smovi 0x17c 0x7fdb),
    (bits [(8, 0x34), (9, 0x17c), (15, 0)], .slit 0x17c),
    (bits [(8, 0x35), (9, 0x17c), (9, 0x17e), (1, 1), (5, 0)], .saddc 0x17c 0x17e true),
    (bits [(8, 0x36), (9, 0x17c), (9, 0x17e), (1, 1), (5, 0)], .ssubb 0x17c 0x17e true),
    (bits [(8, 0x37), (9, 0x17c), (9, 0x17e), (1, 1), (1, 0), (4, 0xe)], .ssel 0x17c 0x17e true 0xe),
    (bits [(8, 0x38), (4, 0xf), (4, 0xd), (4, 0xe), (12, 0)], .pand 0xf 0xd 0xe),
    (bits [(8, 0x39), (4, 0xf), (4, 0xd), (4, 0xe), (12, 0)], .por 0xf 0xd 0xe),
    (bits [(8, 0x3A), (4, 0xf), (4, 0xd), (4, 0xe), (12, 0)], .pxor 0xf 0xd 0xe),
    (bits [(8, 0x3B), (4, 0xf), (4, 0xd), (16, 0)], .pnot 0xf 0xd),
    (bits [(8, 0x3C), (4, 0xf), (4, 0xd), (16, 0)], .pmov 0xf 0xd),
    (bits [(8, 0x3D), (4, 0xf), (8, 0), (9, 0x17e), (3, 0)], .psets 0xf 0x17e),
    (bits [(8, 0x3E), (4, 0), (4, 0xd), (4, 0), (9, 0x17c), (3, 0)], .pgets 0x17c 0xd),
    (bits [(8, 0x3F), (4, 0), (4, 0xd), (4, 0), (9, 0x17c), (3, 0)], .pcnt 0x17c 0xd),
    (bits [(8, 0x40), (4, 0), (4, 0xd), (4, 0), (9, 0x17c), (3, 0)], .pffs 0x17c 0xd),
    (bits [(8, 0x41), (4, 0xf), (8, 0), (9, 0x17e), (3, 0)], .plane 0xf 0x17e),
    (bits [(8, 0x42), (4, 0), (4, 0xf), (16, 0)], .ppush 0xf),
    (bits [(8, 0x43), (4, 0xf), (20, 0)], .ppop 0xf),
    (bits [(8, 0x48), (8, 0xfe), (8, 0xc4), (8, 0x3a)], .vadd 0xfe 0xc4 0x3a),
    (bits [(8, 0x49), (8, 0xfe), (8, 0xc4), (8, 0x3a)], .vsub 0xfe 0xc4 0x3a),
    (bits [(8, 0x4A), (8, 0xfe), (8, 0xc4), (8, 0x3a)], .vmul 0xfe 0xc4 0x3a),
    (bits [(8, 0x4B), (8, 0xfe), (8, 0xc4), (8, 0x3a)], .vmulh 0xfe 0xc4 0x3a),
    (bits [(8, 0x4C), (8, 0xfe), (8, 0xc4), (8, 0x3a)], .vmad 0xfe 0xc4 0x3a),
    (bits [(8, 0x4D), (8, 0xfe), (8, 0xc4), (8, 0x3a)], .vand 0xfe 0xc4 0x3a),
    (bits [(8, 0x4E), (8, 0xfe), (8, 0xc4), (8, 0x3a)], .vor 0xfe 0xc4 0x3a),
    (bits [(8, 0x4F), (8, 0xfe), (8, 0xc4), (8, 0x3a)], .vxor 0xfe 0xc4 0x3a),
    (bits [(8, 0x50), (8, 0xfe), (8, 0xc4), (8, 0)], .vnot 0xfe 0xc4),
    (bits [(8, 0x51), (8, 0xfe), (8, 0xc4), (8, 0x3a)], .vshl 0xfe 0xc4 0x3a),
    (bits [(8, 0x52), (8, 0xfe), (8, 0xc4), (8, 0x3a)], .vshr 0xfe 0xc4 0x3a),
    (bits [(8, 0x53), (8, 0xfe), (8, 0xc4), (8, 0x3a)], .vmin 0xfe 0xc4 0x3a),
    (bits [(8, 0x54), (8, 0xfe), (8, 0xc4), (8, 0x3a)], .vmax 0xfe 0xc4 0x3a),
    (bits [(8, 0x55), (8, 0xfe), (8, 0xc4), (8, 0)], .vabs 0xfe 0xc4)] : List (W32 × Instr)),
    decodeGroup e.1 = e.2 := by decide +kernel

/-- The words of the group stream from VCLZ to VFPOW (R94, R95). -/
theorem test_decode_group_3 : ∀ e ∈ ([
    (bits [(8, 0x56), (8, 0xfe), (8, 0xc4), (8, 0)], .vclz 0xfe 0xc4),
    (bits [(8, 0x57), (8, 0xfe), (8, 0xc4), (8, 0)], .vpopc 0xfe 0xc4),
    (bits [(8, 0x58), (8, 0xfe), (8, 0xc4), (8, 0x3a)], .vsel 0xfe 0xc4 0x3a),
    (bits [(8, 0x59), (8, 0xfe), (8, 0xc4), (8, 0)], .vmov 0xfe 0xc4),
    (bits [(8, 0x5A), (8, 0xfe), (8, 0xc4), (8, 0)], .vbcast 0xfe 0xc4),
    (bits [(8, 0x5B), (8, 0xfe), (16, 0)], .vlane 0xfe),
    (bits [(8, 0x5C), (8, 0xfe), (8, 0xc4), (8, 0x3a)], .vshfl 0xfe 0xc4 0x3a),
    (bits [(8, 0x5D), (8, 0xfe), (8, 0xc4), (3, 0), (5, 0x1e)], .vrot 0xfe 0xc4 0x1e),
    (bits [(8, 0x5E), (8, 0xfe), (8, 0xc4), (4, 0), (4, 5)], .vscan 0xfe 0xc4 5),
    (bits [(8, 0x5F), (8, 0xfe), (8, 0xc4), (4, 0), (4, 5)], .vred 0xfe 0xc4 5),
    (bits [(8, 0x60), (4, 0xf), (4, 5), (8, 0x3a), (8, 0x92)], .vcmp 0xf 5 0x3a 0x92),
    (bits [(8, 0x61), (8, 0xfe), (8, 0xc4), (8, 0x3a)], .vpack 0xfe 0xc4 0x3a),
    (bits [(8, 0x62), (8, 0xfe), (8, 0xc4), (6, 0), (2, 3)], .vunpk 0xfe 0xc4 3),
    (bits [(8, 0x63), (8, 0xfe), (8, 0xc4), (8, 0)], .vhash 0xfe 0xc4),
    (bits [(8, 0x64), (8, 0xfe), (8, 0xc4), (5, 0x1e), (3, 0)], .vxtr 0xfe 0xc4 0x1e),
    (bits [(8, 0x65), (8, 0xfe), (8, 0xc4), (5, 0x1e), (3, 0)], .vins 0xfe 0xc4 0x1e),
    (bits [(8, 0x68), (8, 0xfe), (8, 0xc4), (8, 0x3a)], .vfadd 0xfe 0xc4 0x3a),
    (bits [(8, 0x69), (8, 0xfe), (8, 0xc4), (8, 0x3a)], .vfsub 0xfe 0xc4 0x3a),
    (bits [(8, 0x6A), (8, 0xfe), (8, 0xc4), (8, 0x3a)], .vfmul 0xfe 0xc4 0x3a),
    (bits [(8, 0x6B), (8, 0xfe), (8, 0xc4), (8, 0x3a)], .vfmulz 0xfe 0xc4 0x3a),
    (bits [(8, 0x6C), (8, 0xfe), (8, 0xc4), (8, 0x3a)], .vfma 0xfe 0xc4 0x3a),
    (bits [(8, 0x6D), (8, 0xfe), (8, 0xc4), (8, 0x3a)], .vfms 0xfe 0xc4 0x3a),
    (bits [(8, 0x6E), (8, 0xfe), (8, 0xc4), (8, 0x3a)], .vfnma 0xfe 0xc4 0x3a),
    (bits [(8, 0x6F), (8, 0xfe), (8, 0xc4), (8, 0x3a)], .vfdiv 0xfe 0xc4 0x3a),
    (bits [(8, 0x70), (8, 0xfe), (8, 0xc4), (8, 0)], .vfsqrt 0xfe 0xc4),
    (bits [(8, 0x71), (8, 0xfe), (8, 0xc4), (8, 0)], .vfrsq 0xfe 0xc4),
    (bits [(8, 0x72), (8, 0xfe), (8, 0xc4), (8, 0)], .vfrcp 0xfe 0xc4),
    (bits [(8, 0x73), (8, 0xfe), (8, 0xc4), (8, 0)], .vfexp 0xfe 0xc4),
    (bits [(8, 0x74), (8, 0xfe), (8, 0xc4), (8, 0)], .vfexp2 0xfe 0xc4),
    (bits [(8, 0x75), (8, 0xfe), (8, 0xc4), (8, 0)], .vfexpm1 0xfe 0xc4),
    (bits [(8, 0x76), (8, 0xfe), (8, 0xc4), (8, 0)], .vflog 0xfe 0xc4),
    (bits [(8, 0x77), (8, 0xfe), (8, 0xc4), (8, 0)], .vflog2 0xfe 0xc4),
    (bits [(8, 0x78), (8, 0xfe), (8, 0xc4), (8, 0)], .vflog1p 0xfe 0xc4),
    (bits [(8, 0x79), (8, 0xfe), (8, 0xc4), (8, 0)], .vfsin 0xfe 0xc4),
    (bits [(8, 0x7A), (8, 0xfe), (8, 0xc4), (8, 0)], .vfcos 0xfe 0xc4),
    (bits [(8, 0x7B), (8, 0xfe), (8, 0xc4), (8, 0)], .vftan 0xfe 0xc4),
    (bits [(8, 0x7C), (8, 0xfe), (8, 0xc4), (8, 0)], .vfatan 0xfe 0xc4),
    (bits [(8, 0x7D), (8, 0xfe), (8, 0xc4), (8, 0x3a)], .vfatan2 0xfe 0xc4 0x3a),
    (bits [(8, 0x7E), (8, 0xfe), (8, 0xc4), (8, 0)], .vftanh 0xfe 0xc4),
    (bits [(8, 0x7F), (8, 0xfe), (8, 0xc4), (8, 0)], .vferf 0xfe 0xc4),
    (bits [(8, 0x80), (8, 0xfe), (8, 0xc4), (8, 0x3a)], .vfpow 0xfe 0xc4 0x3a)] : List (W32 × Instr)),
    decodeGroup e.1 = e.2 := by decide +kernel

/-- The words of the group stream from VFHYP to ACAS (R94, R95). -/
theorem test_decode_group_4 : ∀ e ∈ ([
    (bits [(8, 0x81), (8, 0xfe), (8, 0xc4), (8, 0x3a)], .vfhyp 0xfe 0xc4 0x3a),
    (bits [(8, 0x82), (8, 0xfe), (8, 0xc4), (8, 0x3a)], .vfmin 0xfe 0xc4 0x3a),
    (bits [(8, 0x83), (8, 0xfe), (8, 0xc4), (8, 0x3a)], .vfmax 0xfe 0xc4 0x3a),
    (bits [(8, 0x84), (8, 0xfe), (8, 0xc4), (8, 0)], .vfabs 0xfe 0xc4),
    (bits [(8, 0x85), (8, 0xfe), (8, 0xc4), (8, 0)], .vfneg 0xfe 0xc4),
    (bits [(8, 0x86), (8, 0xfe), (8, 0xc4), (8, 0x3a)], .vfcps 0xfe 0xc4 0x3a),
    (bits [(8, 0x87), (8, 0xfe), (8, 0xc4), (8, 0)], .vfrnd 0xfe 0xc4),
    (bits [(8, 0x88), (8, 0xfe), (8, 0xc4), (3, 0), (5, 7)], .vftoi 0xfe 0xc4 7),
    (bits [(8, 0x89), (8, 0xfe), (8, 0xc4), (3, 0), (5, 0xc)], .vitof 0xfe 0xc4 0xc),
    (bits [(8, 0x8A), (8, 0xfe), (8, 0xc4), (3, 0), (5, 9)], .vfcvt 0xfe 0xc4 9),
    (bits [(8, 0x8B), (8, 0xfe), (8, 0xc4), (8, 0x3a)], .vfqnt 0xfe 0xc4 0x3a),
    (bits [(8, 0x8C), (8, 0xfe), (8, 0xc4), (8, 0x3a)], .vfdq 0xfe 0xc4 0x3a),
    (bits [(8, 0x8D), (8, 0xfe), (8, 0xc4), (8, 0)], .vfcls 0xfe 0xc4),
    (bits [(8, 0x8E), (4, 0xf), (4, 7), (8, 0x3a), (8, 0x92)], .vfcmp 0xf 7 0x3a 0x92),
    (bits [(8, 0x8F), (8, 0xfe), (8, 0xc4), (8, 0x3a)], .vfsmx 0xfe 0xc4 0x3a),
    (bits [(8, 0x90), (8, 0xfe), (8, 0xc4), (8, 0)], .vfssq 0xfe 0xc4),
    (bits [(8, 0x91), (8, 0xfe), (8, 0xc4), (4, 0), (4, 2)], .vfred 0xfe 0xc4 2),
    (bits [(8, 0x92), (8, 0xfe), (8, 0xc4), (4, 0), (4, 2)], .vfscan 0xfe 0xc4 2),
    (bits [(8, 0x93), (8, 0xfe), (8, 0xc4), (8, 0x3a)], .vfrot 0xfe 0xc4 0x3a),
    (bits [(8, 0x94), (8, 0xfe), (8, 0xc4), (8, 0x3a)], .vfldx 0xfe 0xc4 0x3a),
    (bits [(8, 0x95), (8, 0xfe), (8, 0xc4), (7, 0), (1, 1)], .vffrx 0xfe 0xc4 1),
    (bits [(8, 0x96), (8, 0xfe), (8, 0xc4), (8, 0x3a)], .vfrem 0xfe 0xc4 0x3a),
    (bits [(8, 0xA0), (8, 0xfe), (8, 0xc4), (5, 0x1e), (3, 5)], .ld 0xfe 0xc4 0x1e 5),
    (bits [(8, 0xA1), (8, 0xfe), (8, 0xc4), (5, 0x1e), (3, 5)], .ldf 0xfe 0xc4 0x1e 5),
    (bits [(8, 0xA2), (8, 0xfe), (8, 0xc4), (5, 0x1e), (3, 5)], .ldd 0xfe 0xc4 0x1e 5),
    (bits [(8, 0xA3), (8, 0xfe), (8, 0xc4), (5, 0x1e), (3, 5)], .lda 0xfe 0xc4 0x1e 5),
    (bits [(8, 0xA4), (8, 0xfe), (8, 0xc4), (5, 0x1e), (3, 5)], .st 0xfe 0xc4 0x1e 5),
    (bits [(8, 0xA5), (8, 0xfe), (8, 0xc4), (5, 0x1e), (3, 5)], .stnt 0xfe 0xc4 0x1e 5),
    (bits [(8, 0xA6), (8, 0xfe), (8, 0xc4), (5, 0x1e), (3, 5)], .std 0xfe 0xc4 0x1e 5),
    (bits [(8, 0xA7), (8, 0xfe), (8, 0xc4), (5, 0x1e), (3, 5)], .stl 0xfe 0xc4 0x1e 5),
    (bits [(8, 0xA8), (24, 0)], .drainnt),
    (bits [(8, 0xA9), (21, 0), (3, 5)], .fence 5),
    (bits [(8, 0xAA), (8, 0xfe), (8, 0xc4), (5, 0x1e), (3, 5)], .aadd 0xfe 0xc4 0x1e 5),
    (bits [(8, 0xAB), (8, 0xfe), (8, 0xc4), (5, 0x1e), (3, 5)], .afadd 0xfe 0xc4 0x1e 5),
    (bits [(8, 0xAC), (8, 0xfe), (8, 0xc4), (5, 0x1e), (3, 5)], .amin 0xfe 0xc4 0x1e 5),
    (bits [(8, 0xAD), (8, 0xfe), (8, 0xc4), (5, 0x1e), (3, 5)], .amax 0xfe 0xc4 0x1e 5),
    (bits [(8, 0xAE), (8, 0xfe), (8, 0xc4), (5, 0x1e), (3, 5)], .aand 0xfe 0xc4 0x1e 5),
    (bits [(8, 0xAF), (8, 0xfe), (8, 0xc4), (5, 0x1e), (3, 5)], .aor 0xfe 0xc4 0x1e 5),
    (bits [(8, 0xB0), (8, 0xfe), (8, 0xc4), (5, 0x1e), (3, 5)], .axor 0xfe 0xc4 0x1e 5),
    (bits [(8, 0xB1), (8, 0xfe), (8, 0xc4), (5, 0x1e), (3, 5)], .axchg 0xfe 0xc4 0x1e 5),
    (bits [(8, 0xB2), (8, 0xfe), (8, 0xc4), (5, 0x1e), (3, 5)], .acas 0xfe 0xc4 0x1e 5)] : List (W32 × Instr)),
    decodeGroup e.1 = e.2 := by decide +kernel

/-- The words of the group stream from LDB to RNGLD (R94, R95). -/
theorem test_decode_group_5 : ∀ e ∈ ([
    (bits [(8, 0xB3), (8, 0xfe), (8, 0xc4), (6, 0x3e), (2, 0)], .ldb 0xfe 0xc4 0x3e),
    (bits [(8, 0xB4), (8, 0xfe), (8, 0xc4), (6, 0x3e), (2, 0)], .stb 0xfe 0xc4 0x3e),
    (bits [(8, 0xB5), (8, 0xfe), (8, 0xc4), (6, 0x3e), (2, 0)], .abadd 0xfe 0xc4 0x3e),
    (bits [(8, 0xB6), (8, 0xfe), (8, 0xc4), (6, 0x3e), (2, 0)], .abcas 0xfe 0xc4 0x3e),
    (bits [(8, 0xB7), (8, 0xfe), (8, 0xc4), (6, 0x3e), (2, 0)], .ldc 0xfe 0xc4 0x3e),
    (bits [(8, 0xB8), (8, 0xfe), (8, 0xc4), (6, 0x3e), (2, 0)], .stc 0xfe 0xc4 0x3e),
    (bits [(8, 0xB9), (8, 0), (8, 0xfe), (5, 0x1d), (3, 5)], .pref 0xfe 0x1d 5),
    (bits [(8, 0xBA), (8, 0xfe), (8, 0xc4), (8, 0xfd)], .ldkv 0xfe 0xc4 0xfd),
    (bits [(8, 0xBB), (8, 0xfe), (8, 0xc4), (8, 0xfb)], .stkv 0xfe 0xc4 0xfb),
    (bits [(8, 0xBC), (9, 0x17c), (9, 0x17e), (6, 0)], .kvmap 0x17c 0x17e),
    (bits [(8, 0xBD), (9, 0x17c), (9, 0x17e), (6, 0)], .kvfork 0x17c 0x17e),
    (bits [(8, 0xBE), (9, 0x17c), (9, 0x17e), (6, 0)], .kvdrop 0x17c 0x17e),
    (bits [(8, 0xBF), (9, 0x17d), (9, 0x17e), (6, 0)], .kvinfo 0x17d 0x17e),
    (bits [(8, 0xC0), (4, 0xf), (20, 0)], .bar 0xf),
    (bits [(8, 0xC1), (4, 0xf), (20, 0)], .bara 0xf),
    (bits [(8, 0xC2), (4, 0xf), (20, 0)], .barw 0xf),
    (bits [(8, 0xC3), (2, 3), (2, 2), (20, 0)], .gbar 3 2),
    (bits [(8, 0xC4), (6, 0x3f), (2, 2), (1, 1), (15, 0)], .hwait 0x3f 2 1),
    (bits [(8, 0xC5), (6, 0x3f), (2, 2), (16, 0)], .hset 0x3f 2),
    (bits [(8, 0xC6), (6, 0x3f), (6, 0x3d), (6, 0x3e), (6, 0)], .wait 0x3f 0x3d 0x3e),
    (bits [(8, 0xC7), (9, 0x17c), (14, 0), (1, 1)], .evpop 0x17c true),
    (bits [(8, 0xC8), (9, 0x16f), (9, 0x17e), (6, 0)], .qpush 0x16f 0x17e),
    (bits [(8, 0xC9), (9, 0x16f), (9, 0x17e), (6, 0)], .qpop 0x16f 0x17e),
    (bits [(8, 0xCA), (9, 0), (9, 0x17e), (6, 0)], .mwatch 0x17e),
    (bits [(8, 0xCB), (24, 0)], .mwait),
    (bits [(8, 0xCC), (9, 0x17c), (9, 0x17e), (6, 0)], .launch 0x17c 0x17e),
    (bits [(8, 0xCD), (9, 0x17c), (9, 0x17e), (6, 0)], .signal 0x17c 0x17e),
    (bits [(8, 0xCE), (9, 0x17c), (15, 0)], .deal 0x17c),
    (bits [(8, 0xCF), (9, 0), (9, 0x17e), (6, 0)], .tkick 0x17e),
    (bits [(8, 0xD0), (24, 0)], .ckpt),
    (bits [(8, 0xD1), (9, 0x17c), (15, 0)], .clock 0x17c),
    (bits [(8, 0xD2), (24, 0)], .clksync),
    (bits [(8, 0xD4), (8, 0xfe), (8, 0xc4), (8, 0x3a)], .rngk 0xfe 0xc4 0x3a),
    (bits [(8, 0xD5), (8, 0xfe), (16, 0)], .rng 0xfe),
    (bits [(8, 0xD6), (24, 0)], .rngs),
    (bits [(8, 0xD7), (8, 0xfe), (8, 0xc4), (8, 0)], .rngf 0xfe 0xc4),
    (bits [(8, 0xD8), (8, 0xfc), (16, 0)], .rngsv 0xfc),
    (bits [(8, 0xD9), (8, 0), (8, 0xf4), (8, 0)], .rngld 0xf4)] : List (W32 × Instr)),
    decodeGroup e.1 = e.2 := by decide +kernel

/-- The words of the sequencer from MNOP to MSTAT (R97, R322). -/
theorem test_decode_matrix_1 : ∀ e ∈ ([
    (bits [(8, 0x00), (24, 0)], .mnop),
    (bits [(8, 0x01), (24, 0)], .mend),
    (bits [(8, 0x02), (5, 0x1f), (19, 0x7ffdb)], .mli 0x1f 0x7ffdb),
    (bits [(8, 0x03), (5, 0x1f), (19, 0x7ffdb)], .maddi 0x1f 0x7ffdb),
    (bits [(8, 0x04), (5, 0x15), (3, 4), (16, 0xfff0)], .mbr 0x15 4 0xfff0),
    (bits [(8, 0x05), (5, 0x1f), (3, 0), (16, 0xffdb)], .mloop 0x1f 0xffdb),
    (bits [(8, 0x06), (5, 0), (5, 0x1f), (14, 0)], .msetf 0x1f),
    (bits [(8, 0x07), (5, 0), (5, 0x1e), (6, 0), (4, 0xd), (4, 0xf)], .mtile 0xf 0xd 0x1e),
    (bits [(8, 0x08), (5, 0), (5, 0x1e), (5, 0x1c), (2, 1), (6, 0x3d), (1, 0)], .mbind 1 0x3d 0x1e 0x1c),
    (bits [(8, 0x09), (5, 0xf), (5, 0x1c), (5, 0x1f), (2, 1), (6, 0x3e), (1, 0)], .mrmt 0xf 1 0x3e 0x1c 0x1f),
    (bits [(8, 0x0A), (24, 0)], .mzero),
    (bits [(8, 0x0B), (21, 0), (1, 1), (1, 1), (1, 1)], .mma true true true),
    (bits [(8, 0x0C), (21, 0), (1, 1), (1, 1), (1, 1)], .mmas true true true),
    (bits [(8, 0x0D), (5, 0x1f), (5, 0x1d), (5, 0x1e), (6, 0x3f), (1, 1), (1, 1), (1, 1)], .mepi 0x3f true true true 0x1f 0x1d 0x1e),
    (bits [(8, 0x0E), (5, 0x1c), (5, 0x1f), (5, 0x1d), (1, 1), (2, 0), (3, 5), (1, 1), (2, 0)], .mepkv true 5 true 0x1c 0x1f 0x1d),
    (bits [(8, 0x0F), (5, 0x1f), (5, 0x1d), (5, 0x1e), (1, 1), (2, 2), (3, 5), (1, 1), (2, 0)], .att true 2 5 true 0x1f 0x1d 0x1e),
    (bits [(8, 0x10), (15, 0), (1, 1), (2, 2), (2, 0), (4, 3)], .mbar true 2 3),
    (bits [(8, 0x11), (5, 0x1f), (10, 0), (6, 0x3d), (2, 3), (1, 1)], .mwaith 0x1f 0x3d 3 1),
    (bits [(8, 0x12), (5, 0x1f), (10, 0), (6, 0x3d), (2, 3), (1, 0)], .mhset 0x1f 0x3d 3),
    (bits [(8, 0x13), (5, 0x1d), (18, 0), (1, 1)], .mchk true 0x1d),
    (bits [(8, 0x14), (5, 0x1f), (15, 0), (4, 6)], .mstat 0x1f 6)] : List (W32 × Instr)),
    decodeMatrix e.1 = e.2 := by decide +kernel

/-- The words of the Tender from TNOP to TBA (R98, R291). -/
theorem test_decode_tender_1 : ∀ e ∈ ([
    (bits [(8, 0x00), (24, 0)], .tnop),
    (bits [(8, 0x01), (24, 0)], .tend),
    (bits [(8, 0x02), (6, 0x3f), (18, 0x3ffdb)], .tli 0x3f 0x3ffdb),
    (bits [(8, 0x03), (6, 0x3f), (2, 2), (16, 0xfff0)], .tlih 0x3f 2 0xfff0),
    (bits [(8, 0x04), (6, 0x3f), (6, 0x3d), (6, 0x3e), (6, 0)], .tadd 0x3f 0x3d 0x3e),
    (bits [(8, 0x04), (6, 0x3f), (6, 0x3d), (6, 0x3f), (1, 1), (5, 0x10)], .taddImm 0x3f 0x3d 0x7f0),
    (bits [(8, 0x05), (6, 0x3f), (6, 0x3d), (6, 0x3e), (6, 0)], .tsub 0x3f 0x3d 0x3e),
    (bits [(8, 0x05), (6, 0x3f), (6, 0x3d), (6, 0x3f), (1, 1), (5, 0x10)], .tsubImm 0x3f 0x3d 0x7f0),
    (bits [(8, 0x06), (6, 0x3f), (6, 0x3d), (6, 0x3e), (6, 0)], .tmul 0x3f 0x3d 0x3e),
    (bits [(8, 0x06), (6, 0x3f), (6, 0x3d), (6, 0x3f), (1, 1), (5, 0x10)], .tmulImm 0x3f 0x3d 0x7f0),
    (bits [(8, 0x07), (6, 0x3f), (6, 0x3d), (6, 0x3e), (6, 0)], .tmad 0x3f 0x3d 0x3e),
    (bits [(8, 0x07), (6, 0x3f), (6, 0x3d), (6, 0x3f), (1, 1), (5, 0x10)], .tmadImm 0x3f 0x3d 0x7f0),
    (bits [(8, 0x08), (6, 0x3f), (6, 0x3d), (6, 0x3e), (6, 0)], .tshl 0x3f 0x3d 0x3e),
    (bits [(8, 0x08), (6, 0x3f), (6, 0x3d), (6, 0x3f), (1, 1), (5, 0x10)], .tshlImm 0x3f 0x3d 0x7f0),
    (bits [(8, 0x09), (6, 0x3f), (6, 0x3d), (6, 0x3e), (6, 0)], .tshr 0x3f 0x3d 0x3e),
    (bits [(8, 0x09), (6, 0x3f), (6, 0x3d), (6, 0x3f), (1, 1), (5, 0x10)], .tshrImm 0x3f 0x3d 0x7f0),
    (bits [(8, 0x0A), (6, 0x3f), (6, 0x3d), (6, 0x3e), (6, 0)], .tand 0x3f 0x3d 0x3e),
    (bits [(8, 0x0A), (6, 0x3f), (6, 0x3d), (6, 0x3f), (1, 1), (5, 0x10)], .tandImm 0x3f 0x3d 0x7f0),
    (bits [(8, 0x0B), (6, 0x3f), (6, 0x3d), (6, 0x3e), (6, 0)], .tor 0x3f 0x3d 0x3e),
    (bits [(8, 0x0B), (6, 0x3f), (6, 0x3d), (6, 0x3f), (1, 1), (5, 0x10)], .torImm 0x3f 0x3d 0x7f0),
    (bits [(8, 0x0C), (6, 0x3f), (6, 0x3d), (6, 0x3e), (6, 0)], .tmin 0x3f 0x3d 0x3e),
    (bits [(8, 0x0C), (6, 0x3f), (6, 0x3d), (6, 0x3f), (1, 1), (5, 0x10)], .tminImm 0x3f 0x3d 0x7f0),
    (bits [(8, 0x0D), (6, 0x3f), (6, 0x3d), (6, 0x3e), (6, 0)], .tmax 0x3f 0x3d 0x3e),
    (bits [(8, 0x0D), (6, 0x3f), (6, 0x3d), (6, 0x3f), (1, 1), (5, 0x10)], .tmaxImm 0x3f 0x3d 0x7f0),
    (bits [(8, 0x0E), (6, 0x3f), (3, 5), (15, 0x7ff0)], .tbc 0x3f 5 0x7ff0),
    (bits [(8, 0x0F), (6, 0x3f), (6, 0x3d), (12, 0xff0)], .tba 0x3f 0x3d 0xff0)] : List (W32 × Instr)),
    decodeTender e.1 = e.2 := by decide +kernel

/-- The words of the Tender from TLOOP to TTRAP (R98, R291). -/
theorem test_decode_tender_2 : ∀ e ∈ ([
    (bits [(8, 0x10), (6, 0x3f), (18, 0x3ffdb)], .tloop 0x3f 0x3ffdb),
    (bits [(8, 0x11), (6, 0x3f), (6, 0x3d), (2, 2), (10, 0x3fe)], .tld 0x3f 0x3d 2 0x3fe),
    (bits [(8, 0x11), (6, 0x3f), (8, 3), (10, 7)], .tldEnv 0x3f 7),
    (bits [(8, 0x12), (6, 0x3f), (6, 0x3d), (2, 2), (10, 0x3fe)], .tst 0x3f 0x3d 2 0x3fe),
    (bits [(8, 0x13), (6, 0x3f), (6, 0x3d), (6, 0x3e), (2, 2), (4, 0)], .tldb 0x3f 0x3d 0x3e 2),
    (bits [(8, 0x14), (2, 0), (4, 0xf), (6, 0x3d), (12, 0)], .tdesc 0xf 0x3d),
    (bits [(8, 0x15), (2, 0), (4, 0xf), (6, 0x3d), (6, 0x3e), (3, 0), (1, 1), (1, 1), (1, 1)], .tcopy 0xf 0x3d 0x3e true true true),
    (bits [(8, 0x16), (2, 0), (4, 0xf), (6, 0x3d), (6, 0x3e), (3, 0), (1, 1), (1, 1), (1, 1)], .tstore 0xf 0x3d 0x3e true true true),
    (bits [(8, 0x17), (2, 0), (4, 0xf), (6, 0x3d), (6, 0x3e), (3, 4), (3, 7)], .tcopyl 0xf 0x3d 0x3e 4 7),
    (bits [(8, 0x18), (2, 0), (4, 0xf), (6, 0x3d), (6, 0x3e), (6, 0x3c)], .tgath 0xf 0x3d 0x3e 0x3c),
    (bits [(8, 0x19), (2, 0), (4, 0xf), (6, 0x3d), (6, 0x3e), (6, 0x3c)], .tscat 0xf 0x3d 0x3e 0x3c),
    (bits [(8, 0x1A), (2, 0), (4, 0xf), (6, 0x3d), (6, 0x3e), (3, 0), (1, 1), (1, 1), (1, 1)], .tkvr 0xf 0x3d 0x3e true true true),
    (bits [(8, 0x1B), (2, 0), (4, 0xf), (6, 0x3d), (6, 0x3e), (3, 0), (1, 1), (1, 1), (1, 1)], .tkvw 0xf 0x3d 0x3e true true true),
    (bits [(8, 0x1C), (2, 0), (4, 0xf), (2, 0), (4, 0xd), (7, 0), (1, 1), (1, 1), (3, 5)], .tcvt 0xf 0xd 5 true true),
    (bits [(8, 0x1D), (2, 0), (4, 0xf), (2, 0), (4, 0xd), (6, 0x3e), (2, 0), (1, 1), (3, 5)], .tred 0xf 0xd 0x3e 5 true),
    (bits [(8, 0x1E), (2, 0), (4, 0xf), (6, 0x3d), (6, 0x3e), (3, 0), (1, 1), (1, 1), (1, 1)], .tmcast 0xf 0x3d 0x3e true true true),
    (bits [(8, 0x1F), (1, 1), (1, 0), (4, 3), (2, 2), (16, 0)], .tbar true 3 2),
    (bits [(8, 0x20), (6, 0x3f), (2, 2), (16, 0)], .thset 0x3f 2),
    (bits [(8, 0x21), (6, 0x3f), (2, 2), (1, 1), (15, 0)], .thwait 0x3f 2 1),
    (bits [(8, 0x22), (6, 0x3f), (16, 0xffdb), (1, 1), (1, 1)], .tevt 0x3f 0xffdb true true),
    (bits [(8, 0x23), (2, 0), (4, 0xf), (6, 0x3d), (6, 0x3e), (3, 0), (1, 1), (2, 0)], .tsend 0xf 0x3d 0x3e true),
    (bits [(8, 0x24), (2, 0), (4, 0xf), (6, 0x3d), (6, 0x3e), (3, 0), (1, 1), (2, 0)], .trecv 0xf 0x3d 0x3e true),
    (bits [(8, 0x25), (21, 0), (3, 5)], .tfence 5),
    (bits [(8, 0x26), (8, 0xf), (16, 0)], .twait 0xf),
    (bits [(8, 0x27), (24, 0xfffffe)], .ttrap 0xfffffe)] : List (W32 × Instr)),
    decodeTender e.1 = e.2 := by decide +kernel

/-- The words of the loop of R174's example, and others that the spec writes out (R174, R278). -/
theorem test_decode_examples : ∀ e ∈ ([(0x33008000, .smovi 1 0), (0x33010005, .smovi 2 5), (0x08010003, .loops 2 3), (0x32008003, .saddi 1 3),
    (0x300080C0, .scmp 1 3 false), (0x03300003, .brc 3 3), (0x33020001, .smovi 4 1), (0x0A300005, .setm 3 5), (0x3F050048, .pcnt 9 5)] :
    List (W32 × Instr)), decodeGroup e.1 = e.2 := by decide +kernel
/-- Reserved opcodes, reserved bits and field values without a meaning decode to the stream's illegal word (R94, R97, R98). -/
theorem test_decode_reserved :
    ([0x17000000, 0x01000001, 0xFF000000, 0x18000001, 0x03F00000, 0x05100000] : List W32).all (fun w => (decodeGroup w).isIllegal) = true ∧
    ([0x15000000, 0x01000001, 0xFF000000, 0x14000007] : List W32).all (fun w => (decodeMatrix w).isIllegal) = true ∧
    ([0x28000000, 0x01000001, 0xFF000000, 0x26000010] : List W32).all (fun w => (decodeTender w).isIllegal) = true := by decide +kernel

/-! ## Small states -/

/-- A user group of 64 vector registers at the first word of a packet, with nothing in flight. -/
def user : Group := { Group.vacant with st := .running, nv := 64, pc := 1, ctl := 0xA0000000 }
/-- A handler group with group 0 of block 0 selected. -/
def super : Group := { user with handler := true, sel := some (0, 0) }
/-- A group stopped by a fault. -/
def stopped : Group := { user with st := .fault, resume := 2 }

/-- A task of one block of one group, one participant at every barrier, one region, a host-call ring and descriptors for a queue and a KV space. -/
def lpb : Lpb := { Lpb.zero with
  blocks := 1, groups := 1, gridx := 1, gridy := 1, hcring := 4096, hclog := 4, tentry := 64, mentry := 128
  barcnt := List.replicate 16 1, gbarcnt := List.replicate 4 1 }
def task : Task := { Task.vacant with used := true, active := true, lpb := lpb }
/-- A core whose TLB maps the first 2 MiB of the address space to device memory at the same addresses. -/
def core : Core := { Core.vacant with
  tlb := [⟨0, 0, 2 ^ 21, 0, 0, false, true, true⟩]
  filter := [(0, 0, [⟨0, 2 ^ 20, 0, 0, 2, false, false, false⟩, ⟨2 ^ 20, 2 ^ 20, 0, 0, 3, false, false, false⟩])] }
/-- A machine with one gang of one block. -/
def machine (t : Task) (b : Block) (gs : SMap Group) : State := { State.reset with
  mgmt := { Mgmt.reset with mstate := 2 }
  groups := gs, blocks := [(0, b)], gangs := [(0, { Gang.vacant with phase := .running })], tasks := [(0, t)], cores := [(0, core)] }
def block : Block := { Block.vacant with used := true, nv := 64, ngroups := 1, parts := [0] }
/-- The machine with one user group, in focus. -/
def st (g : Group) : State := machine task block [(0, g)]
/-- The machine with a handler group in focus and a stopped target. -/
def sup (h t : Group) : State := { machine task block [(0, t), (1024, h)] with cur := ⟨0, 16, 0⟩ }

/-- The state after one word. -/
noncomputable def run (i : Instr) (s : State) : State := match exec i s with | .next t => t | _ => State.reset
/-- The group after one word of the user group, once its fixed-latency writes have landed. -/
noncomputable def landed (i : Instr) (g : Group) : Group := landAt 10 (curGroup (run i (st g)))

/-- The hypotheses of issue, computed. -/
def canIssue (i : Instr) (s : State) : Bool :=
  decide ((curGroup s).st = .running) && !frozenAt s.now (curGroup s) && decide (pendingTrap (groupIn i s) = none) &&
    decide (issueFault (wordOf s i) (groupIn i s) = none) && !notReady (wordOf s i) (atIssue i s) && !unlanded (wordOf s i) (atIssue i s)
theorem can {i : Instr} {s : State} (h : canIssue i s = true) : CanIssue i s := by
  simp only [canIssue, Bool.and_eq_true, decide_eq_true_eq, Bool.not_eq_true'] at h
  exact ⟨h.1.1.1.1.1, h.1.1.1.1.2, h.1.1.1.2, h.1.1.2, h.1.2, h.2⟩

/-- The hypotheses on a stopped target, computed. -/
def isTarget (s : State) (b k : Nat) (t : Group) : Bool :=
  decide ((curGroup s).sel = some (b, k)) && decide (t = landAt s.now (groupAt s s.cur.gang b k)) &&
    decide (t.st = .fault ∨ t.st = .trap ∨ t.st = .brk ∨ t.st = .savePoint) &&
    decide (groupKey s.cur.gang b k ≠ groupKey s.cur.gang s.cur.blk s.cur.grp)
theorem target {s : State} {b k : Nat} {t : Group} (h : isTarget s b k t = true) : Target s b k t := by
  simp only [isTarget, Bool.and_eq_true, decide_eq_true_eq] at h
  exact ⟨h.1.1.1, h.1.1.2, h.1.2, h.2⟩
/-- A target with nothing in flight awaits no write. -/
theorem settled {t : Group} {r : Reg} (h : t.flights = []) (hp : t.pend = []) : Settled t r := by simp [Settled, h, hp]

/-- The user group under an element type, and its machine with a slot 0 of an unsigned and a slot 1 of a signed narrow format. -/
def typed (e : Nat) : Group := { user with mode := BitVec.ofNat 32 (32 * e) }
def nfTask : Task := { task with lpb := { lpb with nfdt := [0x480E0000, 0xC60E0000] } }
def nf (slot : Nat) : State := machine nfTask block [(0, typed (12 + slot * 2 ^ 9))]

/-- A group of which the guard p1 enables lane 31 alone, with s0 as the low word of a base pair and of a queue number. -/
def lone (e : Nat) (a : W32) : Group := { user with mode := BitVec.ofNat 32 (32 * e + 1), p := [(1, 0x80000000)], s := [(0, a)] }
/-- A handle of 128 bytes in a state, open to every engine. -/
def handle (buf st : Nat) : BitVec 128 := BitVec.ofNat 128 (buf * 2 ^ 126 + st * 2 ^ 124 + 128 * 2 ^ 64 + 0xFF * 2 ^ 40 + 0xFF * 2 ^ 32)
/-- The machine with handle 63 of the block in a state. -/
def withHandle (buf st : Nat) (g : Group) : State := machine task { block with handles := [(63, handle buf st)] } [(0, g)]
/-- Page tables at 0x10000 and 0x20000 that map the first GiB of address space 0 to device memory. -/
def pages : List Host.Cell := [(0, 1), (2, 1), (0x10000, 1), (0x10002, 2), (0x20000, 15)]
/-- A KV space at 0x30000 of one layer, one head and rows of eight bf16, in which key 0 is mapped to block 0. -/
def kvCells : List Host.Cell := pages ++ [(0x30002, 4), (0x30008, 1), (0x30012, 5), (0x3001A, 6), (0x30020, 2), (0x30024, 1), (0x30028, 8),
  (0x30040, 255), (0x30041, 255), (0x30042, 255), (0x30043, 255), (0x4000C, 1), (0x50000, 1)]
def kv (g : Group) : State := { machine { task with lpb := { lpb with kvdesc := 0x30000 } } block [(0, g)] with mem := kvCells }
/-- Whether a check passes, with what is asked of its answer. -/
def passes {ε α : Type} (x : Except ε α) (ok : α → Bool) : Bool := match x with | .ok a => ok a | .error _ => false
theorem passes_spec {ε α : Type} {x : Except ε α} {ok : α → Bool} (h : passes x ok = true) : ∃ a, x = .ok a ∧ ok a = true := by
  cases x with
  | ok a => exact ⟨a, rfl, h⟩
  | error e => exact absurd h (by simp [passes])
def handlePasses (c : HCheck) : Bool := match c with | .ok => true | _ => false
theorem handlePasses_spec {c : HCheck} (h : handlePasses c = true) : c = .ok := by cases c <;> first | rfl | exact absurd h (by simp [handlePasses])
/-- The tests on a handle, computed. -/
def readyBool (waited : Bool) (e : BitVec 128) (bufs : List (BitVec 2)) (a : HAccess) (size : Nat) (ls : List (Nat × Nat)) : Bool :=
  decide ((waited = false → e.extractLsb' 126 2 ∈ bufs) ∧ (waited = false → a ≠ .write → e.getLsbD 32 = true) ∧
    (waited = false → a ≠ .read → e.getLsbD 40 = true) ∧ (waited = false → ∀ l ∈ ls, l.2 + size ≤ (e.extractLsb' 64 20).toNat) ∧
    (waited = false → ∀ l ∈ ls, l.2 % size = 0) ∧
    (waited = false → (e.extractLsb' 51 4).toNat < 5 ∧ (e.extractLsb' 51 4 = 0 ∨ (e.extractLsb' 64 20).toNat % 128 = 0)) ∧
    (a = .read → e.getLsbD 118 = false ∨ e.extractLsb' 119 4 = e.extractLsb' 51 4) ∧
    (a = .read → e.extractLsb' 124 2 = 2 ∨ e.extractLsb' 124 2 = 3) ∧ (a ≠ .read → e.extractLsb' 124 2 = 1))
theorem ready {w : Bool} {e : BitVec 128} {bufs : List (BitVec 2)} {a : HAccess} {n : Nat} {ls : List (Nat × Nat)}
    (h : readyBool w e bufs a n ls = true) : HandleReady w e bufs a n ls := by
  have h := of_decide_eq_true h
  exact ⟨h.1, h.2.1, h.2.2.1, h.2.2.2.1, h.2.2.2.2.1, h.2.2.2.2.2.1, h.2.2.2.2.2.2.1, h.2.2.2.2.2.2.2.1, h.2.2.2.2.2.2.2.2⟩
/-- The conditions before the checks of a word, computed. -/
def comes (i : Instr) (s : State) : Bool :=
  decide ((curGroup s).st = .running) && !frozenAt s.now (curGroup s) && decide (pendingTrap (groupIn i s) = none)
theorem at_checks {i : Instr} {s : State} (h : comes i s = true) : AtChecks i s := by
  simp only [comes, Bool.and_eq_true, decide_eq_true_eq, Bool.not_eq_true'] at h
  exact ⟨h.1.1, h.1.2, h.2⟩
theorem onlyStnt {s : State} (h : groupHostWaits s = []) : OnlyStnt s := by simp [OnlyStnt, h]
theorem notHeld {s : State} {d : Bool} (h : groupHostWaits s = []) : NotHeld s d := by simp [NotHeld, h]

/-! ## States that meet the statements' hypotheses: scalar and control words -/

theorem wit_TwoAddressResult :
    (twoAddress (.ssub 0 382 true)).isSome ∧ CanIssue (.ssub 0 382 true) (st user) ∧
    (division (.sremn 383 0 false)).isSome ∧ CanIssue (.sremn 383 0 false) (st user) := ⟨rfl, can (by decide +kernel), rfl, can (by decide +kernel)⟩

theorem wit_OneOperandAndCompareResults :
    (oneOperand (.sclz 383 0 false)).isSome ∧ CanIssue (.sclz 383 0 false) (st user) ∧
    (sfWordOf (.saddc 382 0 true)).isSome ∧ CanIssue (.saddc 382 0 true) (st user) := ⟨rfl, can (by decide +kernel), rfl, can (by decide +kernel)⟩

theorem wit_MoveAndPredicateResults :
    (scalarMove (.ssel 0 382 true 13)).isSome ∧ CanIssue (.ssel 0 382 true 13) (st user) ∧
    (predicateWrite (.pffs 383 15)).isSome ∧ CanIssue (.pffs 383 15) (st user) ∧
    CanIssue (.ppush 15) (st { user with depth := 7 }) ∧ CanIssue (.ppush 0) (st { user with depth := 8 }) ∧
    CanIssue (.ppop 0) (st { user with depth := 1 }) ∧ CanIssue (.ppop 15) (st user) :=
  ⟨rfl, can (by decide +kernel), rfl, can (by decide +kernel), can (by decide +kernel), can (by decide +kernel), can (by decide +kernel), can (by decide +kernel)⟩

theorem wit_Transfers :
    (CanIssue (.br 8) (st user) ∧ transferOf (groupIn (.br 8) (st user)) (.br 8) = some (true, 9, true)) ∧
    (CanIssue (.br 7) (st user) ∧ transferOf (groupIn (.br 7) (st user)) (.br 7) = some (true, 8, true)) ∧
    (CanIssue (.brc 0 8) (st user) ∧ transferOf (groupIn (.brc 0 8) (st user)) (.brc 0 8) = some (false, 9, true)) ∧
    (CanIssue (.loops 383 6) (st user) ∧ readS (groupIn (.loops 383 6) (st user)) 383 = 0 ∧ (match codeWordAt (atIssue (.loops 383 6) (st user)) 7 with
      | .ok _ _ => true | _ => false) = true) ∧
    (let s := st { user with s := [(0, 1)], loopd := 3 }
     CanIssue (.loops 0 6) s ∧ readS (groupIn (.loops 0 6) s) 0 ≠ 0 ∧ (groupIn (.loops 0 6) s).loopd = 3) ∧
    (let s := st { user with s := [(0, 1)], loopd := 4 }
     CanIssue (.loops 0 6) s ∧ readS (groupIn (.loops 0 6) s) 0 ≠ 0 ∧ (groupIn (.loops 0 6) s).loopd = 4) :=
  ⟨⟨can (by decide +kernel), by decide +kernel⟩, ⟨can (by decide +kernel), by decide +kernel⟩, ⟨can (by decide +kernel), by decide +kernel⟩, ⟨can (by decide +kernel), by decide +kernel⟩,
    ⟨can (by decide +kernel), by decide +kernel⟩, ⟨can (by decide +kernel), by decide +kernel⟩⟩

theorem wit_NopYieldAndMode :
    CanIssue .nop (st user) ∧ CanIssue .yield (st user) ∧ (CanIssue (.setm 5 15) (st user) ∧ modeValue 5 15) ∧
    (let s := st { user with s := [(7, 5)] }
     CanIssue (.setmReg 3 7) s ∧ (readS (groupIn (.setmReg 3 7) s) 7).toNat = 5 ∧ modeValue 3 5) ∧
    (let s := st { user with s := [(7, 6)] }
     CanIssue (.setmReg 3 7) s ∧ ¬ modeValue 3 (readS (groupIn (.setmReg 3 7) s) 7).toNat) ∧
    CanIssue (.setmr 7) (st { user with s := [(7, 0x3FFFF)] }) :=
  ⟨can (by decide +kernel), can (by decide +kernel), ⟨can (by decide +kernel), by decide +kernel, by decide +kernel⟩, ⟨can (by decide +kernel), by decide +kernel, by decide +kernel, by decide +kernel⟩,
    ⟨can (by decide +kernel), fun h => absurd (h.2 rfl) (by decide +kernel)⟩, can (by decide +kernel)⟩

/-! ## Special registers and the supervisor -/

theorem wit_SpecialRegisters :
    (CanIssue (.rdsr 0 0x00F) (st user) ∧ (st user).cur.blk ≠ handlerBlk ∧ (groupIn (.rdsr 0 0x00F) (st user)).handler = false ∧
      (0x00F, 0) ∈ specials (atIssue (.rdsr 0 0x00F) (st user)) 0 0 (groupIn (.rdsr 0 0x00F) (st user))) ∧
    (CanIssue (.wrsr 0 2) (st user) ∧
      (2, groupIn (.wrsr 0 2) (st user)) ∈ writables (groupIn (.wrsr 0 2) (st user)) (readS (groupIn (.wrsr 0 2) (st user)) 0)) ∧
    (AtChecks (.rdsr 0 0x013) (st user) ∧ markOk (groupIn (.rdsr 0 0x013) (st user)).ctl = true) ∧
    (AtChecks (.wrsr 0 0x0FF) (st user) ∧ markOk (groupIn (.wrsr 0 0x0FF) (st user)).ctl = true) :=
  ⟨⟨can (by decide +kernel), by decide +kernel, by decide +kernel, by decide +kernel⟩, ⟨can (by decide +kernel), by decide +kernel⟩,
    ⟨at_checks (by decide +kernel), by decide +kernel⟩, at_checks (by decide +kernel), by decide +kernel⟩

theorem wit_SpecialRegisters_supervisor :
    (CanIssue (.rdsr 0 0x101) (sup super stopped) ∧ Target (atIssue (.rdsr 0 0x101) (sup super stopped)) 0 0 stopped ∧
      (0x101, 2) ∈ targetRegisters stopped) ∧
    (CanIssue (.wrsr 0 0x130) (sup super stopped) ∧ Target (atIssue (.wrsr 0 0x130) (sup super stopped)) 0 0 stopped ∧
      (0x130, { stopped with loopd := 0 }) ∈ targetWrites stopped (readS (groupIn (.wrsr 0 0x130) (sup super stopped)) 0)) ∧
    (CanIssue (.wrsr 0 0x13C) (sup super user) ∧ 0x13C ∈ (targetRegisters Group.vacant).map Prod.fst ∧
      (groupIn (.wrsr 0 0x13C) (sup super user)).sel = some (0, 0) ∧ (landAt 0 (groupAt (sup super user) 0 0 0)).st = .running) :=
  ⟨⟨can (by decide +kernel), target (by decide +kernel), by decide +kernel⟩,
    ⟨can (by decide +kernel), target (by decide +kernel), by decide +kernel⟩,
    ⟨can (by decide +kernel), by decide +kernel, by decide +kernel, by decide +kernel⟩⟩

theorem wit_StopTrapAndBreakpoint_stop :
    (CanIssue .stop (st user) ∧ (groupIn .stop (st user)).handler = false ∧ (groupIn .stop (st user)).vmc = 0 ∧
      (groupIn .stop (st user)).bfc = 0 ∧ (groupIn .stop (st user)).sfc = 0 ∧ (groupIn .stop (st user)).flights = [] ∧
      (groupIn .stop (st user)).pend = []) ∧
    (CanIssue .stop (st { user with vmc := 1 }) ∧ (groupIn .stop (st { user with vmc := 1 })).vmc ≠ 0) ∧
    (CanIssue (.bkpt 0xFFFFFF) (st user) ∧ (atIssue (.bkpt 0xFFFFFF) (st user)).mgmt.dbgctl % 2 = 0) := by
  refine ⟨⟨can ?_, ?_⟩, ⟨can ?_, ?_⟩, can ?_, ?_⟩ <;> decide +kernel

theorem wit_StopTrapAndBreakpoint_trap :
    (CanIssue (.trap 0) (machine Task.vacant block [(0, user)]) ∧ (curLpb (atIssue (.trap 0) (machine Task.vacant block [(0, user)]))).hcring = 0) ∧
    (CanIssue (.trap 0) (st user) ∧ (curLpb (atIssue (.trap 0) (st user))).hcring ≠ 0 ∧ (groupIn (.trap 0) (st user)).vmc = 0 ∧
      (groupIn (.trap 0) (st user)).bfc = 0 ∧ (groupIn (.trap 0) (st user)).sfc = 0 ∧ (groupIn (.trap 0) (st user)).called = false ∧
      groupHostWaits (atIssue (.trap 0) (st user)) = []) := by
  refine ⟨⟨can ?_, ?_⟩, can ?_, ?_⟩ <;> decide +kernel

theorem wit_SelectionWords :
    CanIssue (.xsel 0) (sup super stopped) ∧ CanIssue (.xsel 1) (sup { super with s := [(1, 1)] } stopped) ∧
    (CanIssue .eret (sup super stopped) ∧ Target (atIssue .eret (sup super stopped)) 0 0 stopped ∧
      (curGang (atIssue .eret (sup super stopped))).phase = .running) ∧
    (let s := setGangAt (sup super stopped) 0 { Gang.vacant with phase := .restoring }
     CanIssue .eret s ∧ Target (atIssue .eret s) 0 0 stopped ∧ (curGang (atIssue .eret s)).phase = .restoring) := by
  refine ⟨can ?_, can ?_, ⟨can ?_, target ?_, ?_⟩, can ?_, target ?_, ?_⟩ <;> decide +kernel

theorem wit_TargetAccess :
    (CanIssue (.xrv 0 63) (sup super stopped) ∧ Target (atIssue (.xrv 0 63) (sup super stopped)) 0 0 stopped ∧ 63 < stopped.nv ∧
      Settled stopped (.v 63)) ∧
    (CanIssue (.xwv 63 0) (sup super stopped) ∧ Target (atIssue (.xwv 63 0) (sup super stopped)) 0 0 stopped ∧ Settled stopped (.v 0)) ∧
    (CanIssue (.xrs 0 383 0) (sup super stopped) ∧ Target (atIssue (.xrs 0 383 0) (sup super stopped)) 0 0 stopped ∧
      spaceRead stopped 0 383 = some 0 ∧ Settled stopped (.s 383)) ∧
    (CanIssue (.xrs 0 2 3) (sup super stopped) ∧ Target (atIssue (.xrs 0 2 3) (sup super stopped)) 0 0 stopped ∧ (0 : Nat) ≠ handlerBlk ∧
      stopped.handler = false ∧ (2, 0) ∈ specials (atIssue (.xrs 0 2 3) (sup super stopped)) 0 0 stopped ∧ Settled stopped .sf) ∧
    (CanIssue (.xws 0 2 3) (sup super stopped) ∧ Target (atIssue (.xws 0 2 3) (sup super stopped)) 0 0 stopped ∧
      spaceWrite stopped 3 2 (readS (groupIn (.xws 0 2 3) (sup super stopped)) 0) = some stopped ∧ Settled stopped .sf) := by
  refine ⟨⟨can ?_, target ?_, ?_, settled ?_ ?_⟩, ⟨can ?_, target ?_, settled ?_ ?_⟩, ⟨can ?_, target ?_, ?_, settled ?_ ?_⟩,
    ⟨can ?_, target ?_, ?_, ?_, ?_, settled ?_ ?_⟩, can ?_, target ?_, ?_, settled ?_ ?_⟩ <;> decide +kernel

theorem wit_SupervisorInvalidations :
    (HandlerFocus (sup super stopped) ∧ (curGroup (sup super stopped)).sel = some (0, 0) ∧ (sup super stopped).tinvs = []) ∧
    ({ sup super stopped with tinvs := [(0, 4096, 3)] }.tinvs = (0, 4096, 3) :: []) ∧
    ({ sup super stopped with kvinvs := [some 0] }.kvinvs = some 0 :: []) := ⟨⟨rfl, rfl, rfl⟩, rfl, rfl⟩

/-! ## Vector words -/

theorem wit_VectorIntegerResults :
    ((vectorInteger (.vmad 62 0 2)).isSome ∧ CanIssue (.vmad 62 0 2) (st (typed 7)) ∧ modeEtype (groupIn (.vmad 62 0 2) (st (typed 7))) = 7) ∧
    ((vectorCount (.vclz 63 0)).isSome ∧ CanIssue (.vclz 63 0) (st (typed 0)) ∧ modeEtype (groupIn (.vclz 63 0) (st (typed 0))) = 0) ∧
    (CanIssue (.vcmp 15 5 0 62) (st (typed 3)) ∧ modeEtype (groupIn (.vcmp 15 5 0 62) (st (typed 3))) = 3) ∧
    (CanIssue (.vscan 62 0 5) (st (typed 7)) ∧ modeEtype (groupIn (.vscan 62 0 5) (st (typed 7))) = 7) ∧
    (CanIssue (.vred 63 0 0) (st (typed 4)) ∧ modeEtype (groupIn (.vred 63 0 0) (st (typed 4))) = 4) := by
  refine ⟨⟨rfl, can ?_, ?_⟩, ⟨rfl, can ?_, ?_⟩, ⟨can ?_, ?_⟩, ⟨can ?_, ?_⟩, can ?_, ?_⟩ <;> decide +kernel

theorem wit_VectorBitResults :
    ((vectorBits (.vsel 63 0 1)).isSome ∧ CanIssue (.vsel 63 0 1) (nf 0) ∧ modeEtype (groupIn (.vsel 63 0 1) (nf 0)) = 12 ∧
      SlotUsable (atIssue (.vsel 63 0 1) (nf 0))) ∧
    ((laneMove (.vins 63 383 31)).isSome ∧ CanIssue (.vins 63 383 31) (st (typed 13))) ∧
    (CanIssue (.vpack 63 0 2) (nf 0) ∧ modeEtype (groupIn (.vpack 63 0 2) (nf 0)) = 12 ∧
      nfSlotOk (curTask (atIssue (.vpack 63 0 2) (nf 0))) (modeNfs (groupIn (.vpack 63 0 2) (nf 0))) = true) ∧
    (CanIssue (.vunpk 63 0 3) (st (typed 4)) ∧ modeEtype (groupIn (.vunpk 63 0 3) (st (typed 4))) = 4) ∧
    (CanIssue (.vunpk 63 0 2) (st (typed 9)) ∧ modeEtype (groupIn (.vunpk 63 0 2) (st (typed 9))) = 9) := by
  refine ⟨⟨rfl, can ?_, ?_, ?_⟩, ⟨rfl, can ?_⟩, ⟨can ?_, ?_, ?_⟩, ⟨can ?_, ?_⟩, can ?_, ?_⟩ <;> first | decide +kernel | exact fun _ => by decide +kernel

theorem wit_IllegalType :
    (CanIssue (.vadd 0 1 2) (st (typed 8)) ∧ modeEtype (groupIn (.vadd 0 1 2) (st (typed 8))) = 8) ∧
    (CanIssue (.vand 0 1 2) (st (typed 13)) ∧ modeEtype (groupIn (.vand 0 1 2) (st (typed 13))) = 13) ∧
    (CanIssue (.vfadd 0 2 4) (st (typed 7)) ∧ modeEtype (groupIn (.vfadd 0 2 4) (st (typed 7))) = 7) ∧
    (CanIssue (.vfadd 0 1 2) (st (typed 13)) ∧ modeEtype (groupIn (.vfadd 0 1 2) (st (typed 13))) = 13) := by
  refine ⟨⟨can ?_, ?_⟩, ⟨can ?_, ?_⟩, ⟨can ?_, ?_⟩, can ?_, ?_⟩ <;> decide +kernel

theorem wit_FloatLaneResults :
    ((floatLane (.vfnma 62 0 2)).isSome ∧ CanIssue (.vfnma 62 0 2) (st (typed 11)) ∧
      floatFmt (curTask (atIssue (.vfnma 62 0 2) (st (typed 11)))) (groupIn (.vfnma 62 0 2) (st (typed 11))) = some .f64) ∧
    ((signLane (.vfneg 63 0)).isSome ∧ CanIssue (.vfneg 63 0) (nf 0) ∧
      (floatFmt (curTask (atIssue (.vfneg 63 0) (nf 0))) (groupIn (.vfneg 63 0) (nf 0))).map
        (fun f => match f with | .nar n => n.sgn | _ => true) = some false) ∧
    (CanIssue (.vfcps 63 0 1) (nf 1) ∧ (floatFmt (curTask (atIssue (.vfcps 63 0 1) (nf 1))) (groupIn (.vfcps 63 0 1) (nf 1))).map
        (fun f => match f with | .nar n => n.sgn | _ => false) = some true) := by
  refine ⟨⟨rfl, can ?_, ?_⟩, ⟨rfl, can ?_, ?_⟩, can ?_, ?_⟩ <;> decide +kernel

theorem wit_CompareAndPartsResults :
    (∀ i ∈ [Instr.vfcmp 15 5 0 62, .vfcls 63 0, .vfldx 62 0 63, .vffrx 63 62 1, .vffrx 62 0 0], CanIssue i (st (typed 11)) ∧
      floatFmt (curTask (atIssue i (st (typed 11)))) (groupIn i (st (typed 11))) = some .f64) := by
  intro i hi; simp only [List.mem_cons, List.not_mem_nil, or_false] at hi
  rcases hi with rfl | rfl | rfl | rfl | rfl <;> exact ⟨can (by decide +kernel), by decide +kernel⟩

theorem wit_DividerAndElementaryResults :
    (∀ i ∈ [Instr.vfrem 62 0 2, .vfatan2 62 0 2, .vfsmx 62 0 2], ((dividerLane i).isSome ∨ (elementaryLane i).isSome) ∧ CanIssue i (st (typed 11)) ∧
      floatFmt (curTask (atIssue i (st (typed 11)))) (groupIn i (st (typed 11))) = some .f64) := by
  intro i hi; simp only [List.mem_cons, List.not_mem_nil, or_false] at hi
  rcases hi with rfl | rfl | rfl <;> exact ⟨by decide +kernel, can (by decide +kernel), by decide +kernel⟩

theorem wit_ConversionResults :
    (CanIssue (.vitof 62 63 11) (st (typed 6)) ∧ modeEtype (groupIn (.vitof 62 63 11) (st (typed 6))) = 6 ∧
      convFmt (curTask (atIssue (.vitof 62 63 11) (st (typed 6)))) (groupIn (.vitof 62 63 11) (st (typed 6))) 11 = some .f64) ∧
    (CanIssue (.vftoi 62 0 7) (st (typed 11)) ∧
      floatFmt (curTask (atIssue (.vftoi 62 0 7) (st (typed 11)))) (groupIn (.vftoi 62 0 7) (st (typed 11))) = some .f64 ∧
      convFmt (curTask (atIssue (.vftoi 62 0 7) (st (typed 11)))) (groupIn (.vftoi 62 0 7) (st (typed 11))) 7 = some (.int false 64)) ∧
    (∀ i ∈ [Instr.vfqnt 63 0 1, .vfdq 63 0 1], CanIssue i (nf 1) ∧
      (quantFmt (curTask (atIssue i (nf 1))) (groupIn i (nf 1))).map (fun n => (n.blk, n.curve)) = some (0, [])) := by
  refine ⟨⟨can ?_, ?_, ?_⟩, ⟨can ?_, ?_, ?_⟩, ?_⟩ <;> first | decide +kernel | skip
  intro i hi; simp only [List.mem_cons, List.not_mem_nil, or_false] at hi
  rcases hi with rfl | rfl <;> exact ⟨can (by decide +kernel), by decide +kernel⟩

theorem wit_FoldAndRotationResults :
    (∀ i ∈ [Instr.vfred 62 0 0, .vfscan 62 0 2, .vfssq 62 0], CanIssue i (st (typed 11)) ∧
      floatFmt (curTask (atIssue i (st (typed 11)))) (groupIn i (st (typed 11))) = some .f64) ∧
    (CanIssue (.vfrot 63 0 1) (st (typed 10)) ∧
      floatFmt (curTask (atIssue (.vfrot 63 0 1) (st (typed 10)))) (groupIn (.vfrot 63 0 1) (st (typed 10))) = some .f32) ∧
    (CanIssue (.vfrot 63 0 1) (nf 0) ∧ (floatFmt (curTask (atIssue (.vfrot 63 0 1) (nf 0))) (groupIn (.vfrot 63 0 1) (nf 0))).isSome ∧
      modeEtype (groupIn (.vfrot 63 0 1) (nf 0)) = 12) := by
  refine ⟨?_, ⟨can ?_, ?_⟩, can ?_, ?_, ?_⟩ <;> first | decide +kernel | skip
  intro i hi; simp only [List.mem_cons, List.not_mem_nil, or_false] at hi
  rcases hi with rfl | rfl | rfl <;> exact ⟨can (by decide +kernel), by decide +kernel⟩

theorem wit_RandomResult :
    (∀ i ∈ [Instr.rngk 63 0 2, .rngf 63 0, .rng 63, .rngs, .rngsv 60, .rngld 60], CanIssue i (st user) ∧ (st user).cur.blk ≠ handlerBlk ∧
      (groupIn i (st user)).handler = false) ∧
    (∀ i ∈ [Instr.rngsv 60, .rngld 60], CanIssue i (sup super stopped) ∧ (groupIn i (sup super stopped)).handler = true ∧
      Target (atIssue i (sup super stopped)) 0 0 stopped) := by
  constructor <;> intro i hi <;> simp only [List.mem_cons, List.not_mem_nil, or_false] at hi
  · rcases hi with rfl | rfl | rfl | rfl | rfl | rfl <;> exact ⟨can (by decide +kernel), by decide +kernel, by decide +kernel⟩
  · rcases hi with rfl | rfl <;> exact ⟨can (by decide +kernel), by decide +kernel, target (by decide +kernel)⟩

/-! ## Memory words -/

theorem wit_AccessChecks :
    (loadForm (.ld 63 0 0 0) = some (.ld, .read, 63, 0, 0) ∧ CanIssue (.ld 63 0 0 0) (st (lone 2 2)) ∧ NotHeld (atIssue (.ld 63 0 0 0) (st (lone 2 2))) false ∧
      (laneAddresses (groupIn (.ld 63 0 0 0) (st (lone 2 2))) 0 0).find? (fun e => e.2 % 4 != 0) = some (31, 2)) ∧
    (storeForm (.std 63 0 0 2) = some (true, .device, none, 63, 0, 0) ∧ CanIssue (.std 63 0 0 2) (st (lone 2 0xFFFFC)) ∧
      NotHeld (atIssue (.std 63 0 0 2) (st (lone 2 0xFFFFC))) true ∧
      (∀ e ∈ laneAddresses (groupIn (.std 63 0 0 2) (st (lone 2 0xFFFFC))) 0 0, e.2 % 4 = 0) ∧
      (groupIn (.std 63 0 0 2) (st (lone 2 0xFFFFC))).handler = false ∧
      (regionFault (filterOf (atIssue (.std 63 0 0 2) (st (lone 2 0xFFFFC))) 0 0) .device 4
        (laneAddresses (groupIn (.std 63 0 0 2) (st (lone 2 0xFFFFC))) 0 0)).isSome) := by
  refine ⟨⟨rfl, can ?_, notHeld ?_, ?_⟩, rfl, can ?_, notHeld ?_, ?_, ?_, ?_⟩ <;> decide +kernel

theorem wit_AccessChecks_translation : passes (translate (st user) 0 0 (2 ^ 21 - 1) .write false) (fun e => e.1.w) = true := by decide +kernel

theorem wit_LoadResult :
    (CanIssue (.ld 62 0 0 0) (st (lone 3 0xFFFF8)) ∧ NotHeld (atIssue (.ld 62 0 0 0) (st (lone 3 0xFFFF8))) false ∧
      passes (checkLanes (atIssue (.ld 62 0 0 0) (st (lone 3 0xFFFF8))) .read .read false 0 0 8) (fun r => decide (r.1.length = 1 ∧
        ∀ a ∈ r.1, a.host = false ∧ poisoned (atIssue (.ld 62 0 0 0) (st (lone 3 0xFFFF8))) a.pa = false)) = true) ∧
    (CanIssue (.lda 63 0 0 5) (st (lone 2 0x1FFFFC)) ∧ NotHeld (atIssue (.lda 63 0 0 5) (st (lone 2 0x1FFFFC))) true ∧
      passes (checkLanes (atIssue (.lda 63 0 0 5) (st (lone 2 0x1FFFFC))) .device .read false 0 0 4) (fun r => decide (r.1.length = 1 ∧
        ∀ a ∈ r.1, a.host = false ∧ poisoned (atIssue (.lda 63 0 0 5) (st (lone 2 0x1FFFFC))) a.pa = false)) = true) := by
  refine ⟨⟨can ?_, notHeld ?_, ?_⟩, can ?_, notHeld ?_, ?_⟩ <;> decide +kernel

theorem wit_StoreResult :
    (CanIssue (.st 63 0 0 0) (st (lone 0 0)) ∧ NotHeld (atIssue (.st 63 0 0 0) (st (lone 0 0))) false ∧ StoreRoom (atIssue (.st 63 0 0 0) (st (lone 0 0))) ∧
      passes (checkLanes (atIssue (.st 63 0 0 0) (st (lone 0 0))) .write .write false 0 0 1) (fun r => decide (r.1.length = 1)) = true) ∧
    (CanIssue (.stl 62 0 0 5) (st (lone 11 0x100000)) ∧ NotHeld (atIssue (.stl 62 0 0 5) (st (lone 11 0x100000))) true ∧
      OnlyStnt (atIssue (.stl 62 0 0 5) (st (lone 11 0x100000))) ∧
      passes (checkLanes (atIssue (.stl 62 0 0 5) (st (lone 11 0x100000))) .device .write false 0 0 8) (fun r => decide (r.1.length = 1)) = true) := by
  refine ⟨⟨can ?_, notHeld ?_, ⟨?_, ?_⟩, ?_⟩, can ?_, notHeld ?_, onlyStnt ?_, ?_⟩ <;> decide +kernel

/-- Flight 7 of the group, with nothing to write. -/
def plain : Flight :=
  { id := 7, idx := 1, ws := [], flags := 0, parked := [], srcs := [], cnt := .vmc, written := false, divider := false, due := 0, lat := 0, toPark := [],
    held := 0 }
/-- An access of the group to host memory: an `STNT`'s write, of flight 3. -/
def ownWrite : HostAcc := ⟨5, 0, 0, 0, 0, 3, 1, 0, 0, 2, 2 ^ 20, 4, none, true, 5, none⟩
/-- The machine with a DRAINNT in flight behind that write. -/
def draining : State :=
  { machine task block [(0, { user with flights := [{ plain with drains := true }] })] with hostAccs := [ownWrite] }

theorem wit_CommitWords :
    (∀ i ∈ [Instr.pref 0 0 0, .fence 2, .fence 5, .drainnt, .ckpt], CanIssue i (st user) ∧ NotHeld (atIssue i (st user)) false ∧
      OnlyStnt (atIssue i (st user))) ∧
    ((groupAt draining 0 0 0).flights.find? (fun x => x.id == 7) = some { plain with drains := true } ∧
      ∃ a ∈ draining.hostAccs, a.strm = 0 ∧ a.gang = 0 ∧ a.blk = 0 ∧ a.grp = 0 ∧ a.kind = 1 ∧ a.nt = true ∧ a.flight < 7) := by
  refine ⟨?_, by decide +kernel, ownWrite, by decide +kernel⟩
  intro i hi; simp only [List.mem_cons, List.not_mem_nil, or_false] at hi
  rcases hi with rfl | rfl | rfl | rfl | rfl <;> exact ⟨can (by decide +kernel), notHeld (by decide +kernel), onlyStnt (by decide +kernel)⟩

/-- A reproducible task. -/
def repro (g : Group) : State := machine { task with lpb := { lpb with repro := true } } block [(0, g)]

theorem wit_AtomicResult :
    (CanIssue (.aadd 0 0 0 0) (st (typed 0)) ∧ AtomicOp.add.accepts (modeEtype (groupIn (.aadd 0 0 0 0) (st (typed 0)))) = false) ∧
    (CanIssue (.aadd 63 0 0 3) (repro (lone 2 0)) ∧ AtomicOp.add.accepts (modeEtype (groupIn (.aadd 63 0 0 3) (repro (lone 2 0)))) = true ∧
      orderShows .add 63 3 ∧ (curLpb (atIssue (.aadd 63 0 0 3) (repro (lone 2 0)))).repro = true) ∧
    (CanIssue (.aadd 0 0 0 3) (repro (lone 2 0)) ∧ isContribution .add 0 3 ∧ NotHeld (atIssue (.aadd 0 0 0 3) (repro (lone 2 0))) false ∧
      passes (checkLanes (atIssue (.aadd 0 0 0 3) (repro (lone 2 0))) .atomic .write false 0 0 4) (fun r =>
        (holdLanes .add 2 0 false (groupIn (.aadd 0 0 0 3) (repro (lone 2 0))) r.1 r.2).isSome) = true) ∧
    (CanIssue (.acas 60 0 0 5) (st (lone 7 0x1FFFF8)) ∧ NotHeld (atIssue (.acas 60 0 0 5) (st (lone 7 0x1FFFF8))) true ∧
      OnlyStnt (atIssue (.acas 60 0 0 5) (st (lone 7 0x1FFFF8))) ∧
      passes (checkLanes (atIssue (.acas 60 0 0 5) (st (lone 7 0x1FFFF8))) .device .write false 0 0 8) (fun r => decide (r.1.length = 1 ∧
        ∀ a ∈ r.1, a.host = false ∧ poisoned (atIssue (.acas 60 0 0 5) (st (lone 7 0x1FFFF8))) a.pa = false)) = true) := by
  refine ⟨⟨can ?_, ?_⟩, ⟨can ?_, ?_, ⟨by decide, .inr (by decide)⟩, ?_⟩, ⟨can ?_, ⟨rfl, .inr (by decide)⟩, notHeld ?_, ?_⟩, can ?_, notHeld ?_, onlyStnt ?_, ?_⟩ <;>
    decide +kernel

/-! ## Buffers and KV space -/

/-- The lone lane at an offset of a handle. -/
def at_ (e : Nat) (o : W32) : Group := { lone e 0 with v := [(31, o)] }

theorem wit_BufferResult :
    (∀ x ∈ [((0 : Nat), false), (1, false), (1, true)], let s := withHandle x.1 2 { at_ 2 124 with tested := x.2 }
      CanIssue (.ldb 63 0 63) s ∧ laneOffsets (groupIn (.ldb 63 0 63) s) 0 = [(31, 124)] ∧ (groupIn (.ldb 63 0 63) s).tested = x.2 ∧
      HandleReady x.2 (handleAt (curBlock (atIssue (.ldb 63 0 63) s)) 63) [0, 1] .read 4 [(31, 124)]) ∧
    (let s := withHandle 0 1 (at_ 2 124)
     CanIssue (.stb 63 0 63) s ∧ laneOffsets (groupIn (.stb 63 0 63) s) 0 = [(31, 124)] ∧ (groupIn (.stb 63 0 63) s).tested = false ∧
      HandleReady false (handleAt (curBlock (atIssue (.stb 63 0 63) s)) 63) [0] .write 4 [(31, 124)]) ∧
    (let s := withHandle 0 1 (at_ 2 124)
     CanIssue (.abadd 60 0 63) s ∧ laneOffsets (groupIn (.abadd 60 0 63) s) 0 = [(31, 124)] ∧ (groupIn (.abadd 60 0 63) s).tested = false ∧
      HandleReady false (handleAt (curBlock (atIssue (.abadd 60 0 63) s)) 63) [0] .atomic 4 [(31, 124)]) ∧
    (let s := withHandle 0 1 (at_ 11 120)
     CanIssue (.abcas 60 0 63) s ∧ laneOffsets (groupIn (.abcas 60 0 63) s) 0 = [(31, 120)] ∧ (groupIn (.abcas 60 0 63) s).tested = false ∧
      HandleReady false (handleAt (curBlock (atIssue (.abcas 60 0 63) s)) 63) [0] .atomic 8 [(31, 120)]) := by
  refine ⟨?_, ⟨can ?_, ?_, ?_, ready ?_⟩, ⟨can ?_, ?_, ?_, ready ?_⟩, can ?_, ?_, ?_, ready ?_⟩ <;> first | decide +kernel | skip
  intro x hx; simp only [List.mem_cons, List.not_mem_nil, or_false] at hx
  rcases hx with rfl | rfl | rfl <;> exact ⟨can (by decide +kernel), by decide +kernel, by decide +kernel, ready (by decide +kernel)⟩

/-- A handler group with block 0 selected, and the block's handle 63 a C-buffer handle. -/
def supHandle (g : Group) : State := { machine task { block with handles := [(63, handle 2 1)] } [(1024, g)] with cur := ⟨0, 16, 0⟩ }
def superLone (o : W32) : Group := { lone 10 0 with handler := true, sel := some (0, 0), v := [(31, o)] }

theorem wit_AccumulatorResult :
    (∀ x ∈ [(Instr.ldc 63 0 63, HAccess.read, (2 : Nat)), (.stc 63 0 63, .write, 1)], let s := withHandle 2 x.2.2 (at_ 10 112)
      CanIssue x.1 s ∧ (groupIn x.1 s).handler = false ∧ accumFmt (curTask (atIssue x.1 s)) (groupIn x.1 s) = some .f32 ∧
      laneOffsets (groupIn x.1 s) 0 = [(31, 112)] ∧ HandleReady (groupIn x.1 s).tested (handleAt (curBlock (atIssue x.1 s)) 63) [2] x.2.1 16 [(31, 112)] ∧
      NonePending (atIssue x.1 s) 0 (handle 2 x.2.2) 0 [(31, 112)] ∧ laCls (laAt (atIssue x.1 s) 0 0 (laIndex (handle 2 x.2.2) 0 112)) = 0) ∧
    (∀ i ∈ [Instr.ldc 60 0 63, .stc 60 0 63], CanIssue i (supHandle (superLone 112)) ∧ (groupIn i (supHandle (superLone 112))).handler = true ∧
      (groupIn i (supHandle (superLone 112))).sel = some (0, 0) ∧ hBuf (handleAt (blockAt (atIssue i (supHandle (superLone 112))) 0 0) 63) = 2 ∧
      laneOffsets (groupIn i (supHandle (superLone 112))) 0 = [(31, 112)] ∧
      hExt (handleAt (blockAt (atIssue i (supHandle (superLone 112))) 0 0) 63) = 128 ∧
      NonePending (atIssue i (supHandle (superLone 112))) 0 (handle 2 1) 0 [(31, 112)]) := by
  constructor <;> intro i hi <;> simp only [List.mem_cons, List.not_mem_nil, or_false] at hi
  · rcases hi with rfl | rfl <;> refine ⟨can ?_, ?_, ?_, ?_, ready ?_, ?_, ?_⟩ <;> first | decide +kernel | (intro l hl; simp only [List.mem_singleton] at hl; subst hl; decide +kernel)
  · rcases hi with rfl | rfl <;> refine ⟨can ?_, ?_, ?_, ?_, ?_, ?_, ?_⟩ <;> first | decide +kernel | (intro l hl; simp only [List.mem_singleton] at hl; subst hl; decide +kernel)

/-- A word's KV access of lane 31 in flight: a bf16 at the address of a row, read or written with a value. -/
def kvAcc (x : Option Nat) : KvAcc := ⟨31, 63, [0x50000, 0x50001], 0, 16, x, none, 0x30000⟩
def kvFlight (x : Option Nat) : Flight := { plain with cnt := .bfc, kv := [kvAcc x] }
def kvFlying (x : Option Nat) : State := kv { user with bfc := 1, flights := [kvFlight x] }

theorem wit_KvWords :
    (∀ i ∈ [Instr.ldkv 63 0 0, .stkv 63 0 0], CanIssue i (st (lone 10 0)) ∧ (curLpb (atIssue i (st (lone 10 0)))).kvdesc = 0 ∧
      CanIssue i (kv (lone 10 0)) ∧ (curLpb (atIssue i (kv (lone 10 0)))).kvdesc ≠ 0) ∧
    (∀ w, passes (kvCheckLanes (atIssue (.ldkv 63 0 0) (kv (lone 10 0))) w 63 (kvSel 0 0) (kvLanes (lone 10 0) 0)) (fun r => decide (r.1.length = 1)) = true) ∧
    (∀ x : Option Nat, (groupAt (kvFlying x) 0 0 0).flights.find? (fun f => f.id == 7) = some (kvFlight x)) ∧
    (∀ x ∈ [none, some 5], (kvFlight x).due ≤ (kvFlying x).now ∧ flightWaits (kvFlying x) 0 0 0 (kvFlight x) = false ∧
      kvBehind (groupAt (kvFlying x) 0 0 0) (kvFlight x) = false ∧ (kvFlight x).consumes (kvFlying x) = false ∧ (kvFlight x).held = 0) ∧
    (∀ i ∈ [Instr.kvmap 2 0, .kvfork 2 0, .kvdrop 2 0, .kvinfo 2 0], CanIssue i (kv (lone 10 0)) ∧
      passes (mapDesc (atIssue i (kv (lone 10 0))) true) (fun d => d.keyOk 0 && !kvInFlight (atIssue i (kv (lone 10 0))) d) = true) ∧
    passes (mapDesc (kv (lone 10 0)) true) (fun d => passes (kvmapOp (kv (lone 10 0)) d 0 0xFFFFFFFF) (fun _ => true) &&
      decide ((forkLoop d 1 0 (kvPairs d 0) (kv (lone 10 0))).1 = none) && decide ((dropLoop d 0 (kvPairs d 1) 0 (kv (lone 10 0))).1 = none) &&
      passes (kvLookup (kv (lone 10 0)) 0 d (2 ^ 32)) (fun r => r.1 == none) &&
      passes (kvLookup (kv (lone 10 0)) 0 d 0) (fun r => r.1 == some (0, false))) = true := by
  refine ⟨?_, ?_, fun _ => rfl, ?_, ?_, ?_⟩
  · intro i hi; simp only [List.mem_cons, List.not_mem_nil, or_false] at hi
    rcases hi with rfl | rfl <;> refine ⟨can ?_, ?_, can ?_, ?_⟩ <;> decide +kernel
  · decide +kernel
  · decide +kernel
  · intro i hi; simp only [List.mem_cons, List.not_mem_nil, or_false] at hi
    rcases hi with rfl | rfl | rfl | rfl <;> refine ⟨can ?_, ?_⟩ <;> decide +kernel
  · decide +kernel

/-! ## Synchronisation words -/

/-- A task in which barriers have two participants, and the machine with barrier 15 of the block in a state. -/
def two (b : Bar) (g : Group) : State :=
  machine { task with lpb := { lpb with barcnt := List.replicate 16 2 } } { block with bars := [(15, b)] } [(0, g)]

theorem wit_BarrierWords :
    (barrierForm (.gbar 3 2) = some (19, 2) ∧ CanIssue (.gbar 3 2) (machine Task.vacant block [(0, user)]) ∧
      participants (atIssue (.gbar 3 2) (machine Task.vacant block [(0, user)])) 19 = 0) ∧
    (barrierForm (.bar 15) = some (15, 0) ∧ CanIssue (.bar 15) (two ⟨0, 3, 3⟩ user) ∧ participants (atIssue (.bar 15) (two ⟨0, 3, 3⟩ user)) 15 = 2 ∧
      (groupIn (.bar 15) (two ⟨0, 3, 3⟩ user)).barWait = none ∧ (groupIn (.bar 15) (two ⟨0, 3, 3⟩ user)).arr.get 0 15 ≠ 1) ∧
    (barrierForm (.bara 15) = some (15, 1) ∧ CanIssue (.bara 15) (two ⟨1, 3, 3⟩ user) ∧ participants (atIssue (.bara 15) (two ⟨1, 3, 3⟩ user)) 15 = 2 ∧
      (groupIn (.bara 15) (two ⟨1, 3, 3⟩ user)).barWait = none ∧ (groupIn (.bara 15) (two ⟨1, 3, 3⟩ user)).arr.get 0 15 ≠ 1) ∧
    (let s := two ⟨0, 4, 4⟩ { user with barWait := some (15, 3, true) }
     CanIssue (.bar 15) s ∧ participants (atIssue (.bar 15) s) 15 ≠ 0 ∧ (groupIn (.bar 15) s).barWait = some (15, 3, true) ∧
      3 < (barAt (atIssue (.bar 15) s) 0 0 15).rel) ∧
    (let s := two ⟨0, 4, 4⟩ { user with ever := [(15, 1)] }
     CanIssue (.barw 15) s ∧ participants (atIssue (.barw 15) s) 15 ≠ 0 ∧ (groupIn (.barw 15) s).barWait = none ∧
      (groupIn (.barw 15) s).arr.get 0 15 ≠ 1 ∧ (groupIn (.barw 15) s).ever.get 0 15 ≠ 0) := by
  refine ⟨⟨rfl, can ?_, ?_⟩, ⟨rfl, can ?_, ?_⟩, ⟨rfl, can ?_, ?_⟩, ⟨can ?_, ?_⟩, can ?_, ?_⟩ <;> decide +kernel

/-- A group with a read of handle 63 in flight. -/
def reading : Group :=
  { user with flights := [⟨7, 0, [], 0, [], [], .bfc, false, false, 9, 0, [], 0, false, [], some (63, true, false), [], none⟩] }

theorem wit_HandleCounterAndEventWords :
    (∀ i ∈ [Instr.hwait 63 1 0, .hset 63 2, .hset 63 3, .wait 0 0 63, .clksync, .clock 382, .evpop 380 true, .evpop 0 false],
      CanIssue i (withHandle 0 1 user)) ∧
    (curBlock (atIssue (.evpop 380 true) (withHandle 0 1 user))).events = [] ∧
    (let s := machine task { block with events := [5, 6] } [(0, user)]
     CanIssue (.evpop 380 false) s ∧ (curBlock (atIssue (.evpop 380 false) s)).events = 5 :: [6]) ∧
    (∀ busy : Bool, let s := withHandle 0 2 (if busy = true then reading else user)
     CanIssue (.hset 63 0) s ∧ handleBusy (groupIn (.hset 63 0) s) 63 0 = busy ∧ canMove (atIssue (.hset 63 0) s) 0 0 63 = true) := by
  refine ⟨?_, ?_, ⟨can ?_, ?_⟩, fun busy => by cases busy <;> exact ⟨can (by decide +kernel), by decide +kernel⟩⟩ <;> first | decide +kernel | skip
  intro i hi; simp only [List.mem_cons, List.not_mem_nil, or_false] at hi
  rcases hi with rfl | rfl | rfl | rfl | rfl | rfl | rfl | rfl <;> exact can (by decide +kernel)

/-- The machine with a device queue of two entries of 16 words at 0x100000, its ring at 0x100040, and a group with the address in s0. -/
def queue (g : Group) : State := { st { g with s := [(0, 0x100000)] } with mem := [(0x100000, 0x40), (0x100002, 0x10), (0x100010, 1), (0x100011, 15)] }
/-- That queue with one entry in it. -/
def queued (g : Group) : State := { queue g with mem := [(0x100000, 0x40), (0x100002, 0x10), (0x10000C, 1), (0x100010, 1), (0x100011, 15)] }

theorem wit_QueueWords :
    (∀ i ∈ [Instr.qpush 366 0, .qpop 366 0], CanIssue i (repro user) ∧ (curLpb (atIssue i (repro user))).repro = true ∧
      CanIssue i (queue user) ∧ (curLpb (atIssue i (queue user))).repro = false ∧
      passes (checkOne (atIssue i (queue user)) .device .write true 0x100000 64 64) (fun r => r.1.pa == 0x100000) = true) ∧
    (CanIssue (.qpop 366 0) (queued user) ∧ ownWaiter (atIssue (.qpop 366 0) (queued user)) = none ∧
      passes (checkOne (atIssue (.qpop 366 0) (queued user)) .device .write true 0x100000 64 64) (fun r =>
        (queuePop (closeWindow r.2 0) r.1.pa 366).1 == some (List.replicate 16 0, 0)) = true) ∧
    (NotHeld (atIssue (.qpush 366 0) (queue user)) true ∧ NotHeld (atIssue (.qpop 366 0) (queued user)) true) ∧
    (let s := { queue user with waiters := [⟨0x100000, 0, 0, 0, 366, some [7]⟩] }
     CanIssue (.qpop 366 0) s ∧ (ownWaiter (atIssue (.qpop 366 0) s)).map Waiter.got = some (some [7])) ∧
    ((readDevQueue (queue user) 0x100000).invalid = false ∧ (readDevQueue (queue user) 0x100000).held = 0 ∧ (queue user).waiters = [] ∧
      0x100000 + 64 ≤ (readDevQueue (queue user) 0x100000).base ∧
      (readDevQueue (queue user) 0x100000).slot (readDevQueue (queue user) 0x100000).tail + 64 ≤ memSize) := by
  refine ⟨?_, ⟨can ?_, ?_⟩, ⟨notHeld ?_, notHeld ?_⟩, ⟨can ?_, ?_⟩, ?_⟩ <;> first | decide +kernel | skip
  intro i hi; simp only [List.mem_cons, List.not_mem_nil, or_false] at hi
  rcases hi with rfl | rfl <;> refine ⟨can ?_, ?_, can ?_, ?_, ?_⟩ <;> decide +kernel

/-- A job card's machine, with a number of records and the chunks of its clusters. -/
def card (n : Nat) (m : SMap (List (Nat × Nat))) : State :=
  machine { task with lpb := { lpb with job := true, jcount := n }, locals := m } block [(0, user)]

theorem wit_WatchLaunchAndDeal :
    (∀ i ∈ [Instr.mwatch 0, .mwait], CanIssue i (repro user) ∧ (curLpb (atIssue i (repro user))).repro = true ∧
      CanIssue i (queue user) ∧ (curLpb (atIssue i (queue user))).repro = false ∧ NotHeld (atIssue i (queue user)) true) ∧
    passes (checkOne (atIssue (.mwatch 0) (queue user)) .device .read true 0x100000 128 1) (fun _ => true) = true ∧
    (∀ q ∈ [(63 : W32), 64], CanIssue (.launch 2 0) (st { user with s := [(2, q)] }) ∧
      passes (checkOne (atIssue (.launch 2 0) (st { user with s := [(2, q)] })) .device .read false 0x100000 256 256) (fun r => !r.1.host) = true ∧
      NotHeld (atIssue (.launch 2 0) (st { user with s := [(2, q)] })) true ∧
      CanIssue (.signal 2 0) (st { user with s := [(2, q)] }) ∧ OnlyStnt (atIssue (.signal 2 0) (st { user with s := [(2, q)] }))) ∧
    (CanIssue (.deal 382) (st user) ∧ CanIssue (.deal 382) (card 1 [])) ∧
    (∀ l ∈ [[], [((0 : Nat), (4 : Nat))]], let s := atIssue (.deal 382) (card 0 [(0, l)])
      CanIssue (.deal 382) (card 0 [(0, l)]) ∧ (taskAt s (curGang s).task).locals.get [] (curGang s).cluster = l ∧
      (taskAt s (curGang s).task).lpb.jcount ≤ (taskAt s (curGang s).task).dealNext) ∧
    (∀ x ∈ [SeqState.ended, .idle, .running], CanIssue (.tkick 0) (machine task { block with tnd := { Tender.idle with st := x } } [(0, user)]) ∧
      (curBlock (atIssue (.tkick 0) (machine task { block with tnd := { Tender.idle with st := x } } [(0, user)]))).tnd.st = x) := by
  refine ⟨?_, ?_, ?_, ⟨can ?_, can ?_⟩, ?_, ?_⟩ <;> first | decide +kernel | skip
  · intro i hi; simp only [List.mem_cons, List.not_mem_nil, or_false] at hi
    rcases hi with rfl | rfl <;> refine ⟨can ?_, ?_, can ?_, ?_, notHeld ?_⟩ <;> decide +kernel
  · intro i hi; simp only [List.mem_cons, List.not_mem_nil, or_false] at hi
    rcases hi with rfl | rfl <;> refine ⟨can ?_, ?_, notHeld ?_, can ?_, onlyStnt ?_⟩ <;> decide +kernel
  · intro i hi; simp only [List.mem_cons, List.not_mem_nil, or_false] at hi
    rcases hi with rfl | rfl <;> exact ⟨can (by decide +kernel), by decide +kernel⟩
  · intro i hi; simp only [List.mem_cons, List.not_mem_nil, or_false] at hi
    rcases hi with rfl | rfl | rfl <;> refine ⟨can ?_, ?_⟩ <;> decide +kernel

/-! ## The Tender -/

/-- A descriptor of four 32-bit integers at address 0, for a handle. -/
def descr (h : Nat) : BitVec 256 := BitVec.ofNat 256 (2 ^ 242 + h * 2 ^ 232 + 3 * 2 ^ 192 + 2 * 2 ^ 52)
/-- A running Tender with descriptors for the handles 63 and 62 in d0 and d15. -/
def tnd (ts : SMap W64) : Tender := { Tender.idle with st := .running, t := ts, d := [(0, descr 63), (15, descr 62)] }
/-- The machine with that Tender, and handles 62 and 63 in states. -/
def tender (a b : Nat) (ts : SMap W64) : State :=
  { machine task { block with handles := [(62, handle 0 a), (63, handle 0 b)], tnd := tnd ts } [(0, user)] with mem := kvCells }
/-- That machine with a KV space. -/
def tenderKv (b : Nat) (ts : SMap W64) : State := { tender 0 b ts with tasks := [(0, { task with lpb := { lpb with kvdesc := 0x30000 } })] }

theorem wit_TenderIntegerAndTransferWords_integer :
    TenderRuns (tender 0 0 []) ∧ (∀ i ∈ [Instr.tlih 0 3 0xFFFF, .tmad 63 1 2, .tshrImm 1 2 (-1), .tminImm 5 6 (-0x2000)], (tenderValue i).isSome) ∧
    (7 : BitVec 9).toNat ≤ 7 := ⟨.inl rfl, by decide +kernel, by decide⟩

theorem wit_TenderIntegerAndTransferWords_transfer :
    (TenderRuns (tender 0 0 [(1, 5)]) ∧ tenderRelation 4 (tInt (curTnd (tender 0 0 [(1, 5)])) 1)) ∧
    (TenderRuns (tender 0 0 []) ∧ ¬ tenderRelation 5 (tInt (curTnd (tender 0 0 [(1, 1)])) 1)) ∧
    tNat (curTnd (tender 0 0 [])) 63 = 0 ∧ tNat (curTnd (tender 0 0 [(1, 1)])) 1 = 1 ∧ 2 ≤ tNat (curTnd (tender 0 0 [(1, 2)])) 1 := by
  refine ⟨⟨.inl rfl, ?_⟩, ⟨.inl rfl, ?_⟩, ?_⟩ <;> first | decide +kernel | (unfold tenderRelation; decide +kernel)

/-- A copy word of a Tender in flight, an earlier TSTORE to the bytes from 0xFFFF8 on. -/
def late : CopyRec :=
  { op := 0x16, idx := 0, dn := 0, desc := descr 63 + BitVec.ofNat 256 0xFFFF8, dn2 := 0, desc2 := 0, args := [0, 0], fin := false, ev := false, rnd := .rne,
    sat := false, h := 0, prog := 0, count := 4, stuck := false, loop := none, moved := 0, ended := 0 }

theorem wit_TenderMemory :
    (TenderRuns (tender 0 0 [(1, 0xFFFFC)]) ∧ tenderSum (tender 0 0 [(1, 0xFFFFC)]) 1 0 = 0xFFFFC ∧
      passes (checkOne (tender 0 0 [(1, 0xFFFFC)]) .read .read false 0xFFFFC 4 4) (fun r =>
        !r.1.host && !poisoned (tender 0 0 [(1, 0xFFFFC)]) r.1.pa && (rcacheNat r.2 0 r.1.pa 4 == none)) = true) ∧
    (TenderRuns (tender 0 0 [(1, 4)]) ∧ tenderSum (tender 0 0 [(1, 4)]) 1 0 = 4 ∧ (4 : Int).toNat % 8 ≠ 0) ∧
    (∀ x ∈ [(0, (0x3FC : BitVec 10), (-4 : Int)), (2 ^ 52 - 4, 4, 2 ^ 52)], let s := tender 0 0 [(1, BitVec.ofNat 64 x.1)]
      TenderRuns s ∧ (curGroup s).handler = false ∧ tenderSum s 1 x.2.1 = x.2.2 ∧ x.2.2 % 4 = 0 ∧ (x.2.2 < 0 ∨ 2 ^ 52 ≤ x.2.2)) ∧
    (∀ busy : Bool, let s := { tender 0 0 [(1, 0xFFFF8)] with nextFlight := 1 }
      let u : State := if busy = true then setCurTnd s { curTnd s with recs := [(0, some late)] } else s
      TenderRuns u ∧ tenderSum u 1 0 = 0xFFFF8 ∧ passes (checkOne u .write .write false 0xFFFF8 8 8) (fun r =>
        !r.1.host && writeBehind r.2 r.2.nextFlight [(0, r.1.pa, 8)] == busy) = true) ∧
    (inRing (curTnd (tender 0 2 [(1, 124)])) 63 = false ∧ tNat (curTnd (tender 0 2 [(1, 124)])) 1 = 124 ∧
      let e := handleAt (curBlock (tender 0 2 [(1, 124)])) 63
      handlePasses (checkHandle false e .tender .read (decide (hBuf e < 2)) 4 4 [(0, 124)]) = true) ∧
    passes (checkOne (tender 0 0 [(1, 0xFFFE0)]) .read .read false 0xFFFE0 32 32) (fun r => !r.1.host && !poisoned (tender 0 0 []) r.1.pa) = true := by
  refine ⟨⟨.inl rfl, ?_⟩, ⟨.inl rfl, ?_⟩, ?_, ?_, ?_, ?_⟩ <;> first | decide +kernel | skip
  · intro x hx; simp only [List.mem_cons, List.not_mem_nil, or_false] at hx
    rcases hx with rfl | rfl <;> exact ⟨.inl rfl, by decide +kernel⟩
  · intro busy; cases busy <;> exact ⟨.inl rfl, by decide +kernel⟩

theorem wit_TenderSynchronisation :
    (∀ x ∈ [(true, (3 : BitVec 5)), (false, 15)], TenderRuns (tender 0 1 []) ∧ (x.1 = true → x.2.toNat ≤ 3) ∧
      participants (tender 0 1 []) (if x.1 = true then 16 + x.2.toNat else x.2.toNat) = 1) ∧
    ((curTnd (tender 0 1 [])).barWait = none ∧ (curTnd (tender 0 1 [])).arr.get 0 15 = 0 ∧ (curTnd (tender 0 1 [])).active = [] ∧
      (curTnd (tender 0 1 [])).held = 0 ∧ (curBlock (tender 0 1 [])).events = [] ∧ (curBlock (tender 0 1 [])).posts = []) ∧
    participants (machine Task.vacant { block with tnd := tnd [] } []) 19 = 0 ∧
    (let s := machine task { block with tnd := { tnd [] with barWait := some (15, 3, true) }, bars := [(15, ⟨0, 4, 4⟩)] } []
     TenderRuns s ∧ participants s 15 ≠ 0 ∧ (curTnd s).barWait = some (15, 3, true) ∧ 3 < (barAt s 0 0 15).rel) ∧
    (inRing (curTnd (tender 0 1 [])) 63 = false ∧ canMove (tender 0 1 []) 0 0 63 = true ∧ writesLeft (tender 0 1 []) 0 0 63 0 = false ∧ hState (handleAt (curBlock (tender 0 1 [])) 63) = 1 ∧
      inMask (hProd (handleAt (curBlock (tender 0 1 [])) 63)) .tender = true ∧ (15 : BitVec 6).toNat ≤ 15) := by
  refine ⟨?_, ?_, ?_, ⟨.inl rfl, ?_⟩, ?_⟩ <;> first | decide +kernel | skip
  intro x hx; simp only [List.mem_cons, List.not_mem_nil, or_false] at hx
  rcases hx with rfl | rfl <;> exact ⟨.inl rfl, by decide +kernel, by decide +kernel⟩

theorem wit_CopyWordsIssue :
    (∀ out : Bool, let s := tender 0 (if out = true then 2 else 1) [(1, 112)]
      let acc : HAccess := if out = true then .read else .write
      TenderRuns s ∧ (curTnd s).held = 0 ∧ FreeRecord (curTnd s) 0 ∧ readD (curTnd s) 0 = descr 63 ∧ DescrOk s (descr 63) 63 1 ∧
        inRing (curTnd s) 63 = false ∧ tNat (curTnd s) 1 = 112 ∧
        SideOk (handleAt (curBlock s) 63) acc 112 (descrSize (curTask s) (descr 63) * dElems (descr 63)) ∧
        Matches (handleAt (curBlock s) 63) acc 0 (descr 63) ∧ StateFits (handleAt (curBlock s) 63) acc false) ∧
    (∀ n ∈ [(0 : W64), 1], let s := tender 0 0 [(62, n)]
      DescrOk s (descr 63) 63 1 ∧ tNat (curTnd s) 62 = n.toNat ∧ (curTnd s).active = [] ∧ dHnd (descr 63) + 0 ≤ 63 ∧ 0 < dNdim (descr 63)) ∧
    (let s := tender 2 1 [(1, 0), (2, 8)]
     DescrOk s (descr 63) 0 0 ∧ tNat (curTnd s) 2 = 8 ∧ inRing (curTnd s) 62 = false ∧ SideOk (handleAt (curBlock s) 63) .write 0 (8 * (4 * 4)) ∧
      StateFits (handleAt (curBlock s) 63) .write false ∧ SideOk (handleAt (curBlock s) 62) .read 0 32 ∧
      hFv (handleAt (curBlock s) 62) = 0 ∧ StateFits (handleAt (curBlock s) 62) .read false) ∧
    (let s := tenderKv 1 [(1, 1)]
     DescrOk s (descr 63) 62 2 ∧ (curLpb s).kvdesc ≠ 0 ∧ passes (kvDesc s (curTask s) (curLpb s).kvdesc) (fun d =>
        d.layers == 1 && d.heads == 1 && d.rb + 1 == 17) = true ∧ SideOk (handleAt (curBlock s) 63) .write 0 17 ∧
      StateFits (handleAt (curBlock s) 63) .write false) ∧
    (let s := tender 2 1 []
     readD (curTnd s) 15 = descr 62 ∧ dElems (descr 63) = dElems (descr 62) ∧ SideOk (handleAt (curBlock s) 62) .read 0 16 ∧
      Matches (handleAt (curBlock s) 62) .read 15 (descr 62) ∧ StateFits (handleAt (curBlock s) 62) .read false ∧
      SideOk (handleAt (curBlock s) 63) .write 0 16 ∧ StateFits (handleAt (curBlock s) 63) .write false) ∧
    (let s := tender 2 0 [(62, 1)]
     DescrOk s (descr 63) 62 2 ∧ dEtype (descr 63) = 2 ∧ DescrOk s (descr 62) 0 0 ∧ tNat (curTnd s) 62 = 1 ∧
      SideOk (handleAt (curBlock s) 62) .read 0 (1 * 16) ∧ StateFits (handleAt (curBlock s) 62) .read false) ∧
    (∀ m ∈ [(0 : W64), 1], let s := tender 0 1 [(1, m)]
      readT (curTnd s) 1 = m ∧ m.toNat < 2 ^ (curLpb s).blocks ∧ (curLpb s).blocks ≤ 16 ∧
      SideOk (handleAt (blockAt s 0 0) 63) .write 0 16 ∧ StateFits (handleAt (blockAt s 0 0) 63) .write false) ∧
    (let s := tender 0 0 [(1, 0xFFF)]
     DescrOk s (descr 63) 63 1 ∧ tNat (curTnd s) 1 < 2 ^ 12 ∧ (portAt s 15).inactive = false) := by
  refine ⟨?_, ?_, ⟨?_, ?_, ?_, ?_, ?_, ?_, ?_, ?_⟩, ⟨?_, ?_, ?_, ?_, ?_⟩, ⟨?_, ?_, ?_, ?_, ?_, ?_, ?_⟩, ⟨?_, ?_, ?_, ?_, ?_, ?_⟩, ?_, ?_, ?_, ?_⟩ <;>
    first | decide +kernel | (constructor <;> decide +kernel) | skip
  · intro out
    cases out <;> refine ⟨.inl rfl, ?_, ?_, ?_, ?_, ?_, ?_, ?_, ?_, ?_⟩ <;> first | decide +kernel | (constructor <;> decide +kernel)
  · intro n hn; simp only [List.mem_cons, List.not_mem_nil, or_false] at hn
    rcases hn with rfl | rfl <;> refine ⟨?_, ?_, ?_, ?_, ?_⟩ <;> first | decide +kernel | (constructor <;> decide +kernel)
  · intro n hn; simp only [List.mem_cons, List.not_mem_nil, or_false] at hn
    rcases hn with rfl | rfl <;> refine ⟨?_, ?_, ?_, ?_, ?_⟩ <;> first | decide +kernel | (constructor <;> decide +kernel)

/-! ## The matrix sequencer and the engine -/

/-- A C-buffer handle of 1024 bytes, being filled. -/
def cHandle : BitVec 128 := handle 2 1 + BitVec.ofNat 128 (896 * 2 ^ 64)
/-- A running sequencer whose C binding is handle 63, with a queue of engine words. -/
def mat (q : List EngWord) : Matrix := { Matrix.idle with st := .running, binds := [(2, ⟨0, 63, 0, 0⟩)], queue := q }
def matrix (h : BitVec 128) (m : Matrix) : State := machine task { block with handles := [(63, h)], mat := m } [(0, user)]
/-- An engine word on a tile of 8 by 8 elements, with the C binding of `mat`. -/
def engWord (op stage ended : Nat) (ma : W32) (x : Nat) : EngWord :=
  { op := op, idx := 0, bindA := Bind.zero, bindB := Bind.zero, bindC := ⟨0, 63, 0, 0⟩, bindMap := Bind.zero, mfmt := 0, m := 8, n := 8, k := 1,
    md := 0, ma := ma, mb := 0, mc := 0, x := x, epc := 0, qord := 0, joinA := 0, joinB := 0, stage := stage, prog := 0, rows := [], begun := false,
    ended := ended, flags := 0, data := 0 }

theorem wit_MatrixSequencerWords :
    (∀ q ∈ [[], [engWord 0x0A 0 0 0 0]], MatrixRuns (matrix 0 (mat q)) ∧ (curMat (matrix 0 (mat q))).queue = q) ∧
    matrixRelation 4 (mInt (mat []) 31) ∧ ¬ matrixRelation 3 (mInt (mat []) 31) ∧
    (readM (mat []) 31).toNat = 0 ∧ (readM { mat [] with m := [(31, 1)] } 31).toNat = 1 ∧ 2 ≤ (readM { mat [] with m := [(31, 2)] } 31).toNat ∧
    MapReference 0x8007FFFF ∧ ¬ MapReference 0x00080000 ∧ (15 : BitVec 5).toNat ≤ 15 := by
  unfold matrixRelation MapReference
  refine ⟨?_, ?_, ?_, ?_, ?_, ?_, .inl ?_, ?_, ?_⟩ <;> first | decide +kernel | skip
  intro q hq; simp only [List.mem_cons, List.not_mem_nil, or_false] at hq
  rcases hq with rfl | rfl <;> exact ⟨.inl rfl, rfl⟩

theorem wit_MatrixSynchronisation :
    (MatrixRuns (matrix cHandle (mat [])) ∧ participants (matrix cHandle (mat [])) 19 = 1 ∧ (curMat (matrix cHandle (mat []))).barWait = none ∧
      (curMat (matrix cHandle (mat []))).arr.get 0 19 = 0 ∧ (curMat (matrix cHandle (mat []))).queue = [] ∧
      (curMat (matrix cHandle (mat []))).held = 0 ∧ (curBlock (matrix cHandle (mat []))).events = [] ∧
      (curBlock (matrix cHandle (mat []))).posts = []) ∧
    (MatrixRuns (machine Task.vacant { block with mat := mat [] } []) ∧ participants (machine Task.vacant { block with mat := mat [] } []) 15 = 0) ∧
    (let s := machine task { block with mat := { mat [] with barWait := some (15, 3, true) }, bars := [(15, ⟨0, 4, 4⟩)] } []
     MatrixRuns s ∧ participants s 15 ≠ 0 ∧ (curMat s).barWait = some (15, 3, true) ∧ 3 < (barAt s 0 0 15).rel) ∧
    (hState (handleAt (blockAt (matrix cHandle (mat [])) 0 0) 63) = 1 ∧ canMove (matrix cHandle (mat [])) 0 0 63 = true ∧
      engineWrites (matrix cHandle (mat [])) 0 0 63 = false ∧ inMask (hProd (handleAt (blockAt (matrix cHandle (mat [])) 0 0) 63)) .matrix = true ∧
      inMask (hProd (handleAt (blockAt (matrix cHandle (mat [])) 0 0) 63)) .remote = true ∧ 16 - 16 < (curLpb (matrix cHandle (mat []))).blocks ∧
      (curLpb (matrix cHandle (mat []))).blocks ≤ 17 - 16) ∧
    (MatrixRuns (matrix cHandle (mat [engWord 0x0A 0 0 0 0])) ∧ (curMat (matrix cHandle (mat [engWord 0x0A 0 0 0 0]))).queue ≠ []) := by
  refine ⟨⟨.inl rfl, ?_⟩, ⟨.inl rfl, ?_⟩, ⟨.inl rfl, ?_⟩, ?_, ⟨.inl rfl, ?_⟩⟩ <;> decide +kernel

theorem wit_EngineWordsQueue :
    (∀ i ∈ [Instr.mzero, .mma true true true, .mmas true true true, .mepi 63 true true true 31 31 31, .mepkv true 5 true 31 31 31,
      .att true 2 5 true 31 30 30], (engineForm i).isSome) ∧
    (MatrixRuns (matrix 0 (mat (List.replicate 4 (engWord 0x0A 0 0 0 0)))) ∧
      (curMat (matrix 0 (mat (List.replicate 4 (engWord 0x0A 0 0 0 0))))).queue.length = 4) ∧
    (MatrixRuns (matrix 0 (mat (List.replicate 3 (engWord 0x0A 0 0 0 0)))) ∧
      (curMat (matrix 0 (mat (List.replicate 3 (engWord 0x0A 0 0 0 0))))).queue.length = 3 ∧
      EngineLegal (matrix 0 (mat (List.replicate 3 (engWord 0x0A 0 0 0 0)))) (.mepi 63 true true true 31 31 31)) ∧
    ¬ EngineLegal (matrix 0 (mat [])) (.mepkv true 5 true 31 31 31) := by
  refine ⟨by decide +kernel, ⟨.inl rfl, rfl⟩, ⟨.inl rfl, rfl, ?_⟩, fun h => h.2 rfl⟩
  exact ⟨⟨by decide +kernel, by decide +kernel, by decide +kernel, by decide +kernel⟩, .inr (by decide +kernel)⟩

theorem wit_IllegalStreamWords :
    (TenderRuns (tender 0 0 []) ∧ MatrixRuns (matrix 0 (mat []))) ∧ ((0 : Nat) ≠ handlerBlk ∧ (curLpb (matrix 0 (mat []))).hcring ≠ 0 ∧
      pagerCode 0x15 = false ∧ (curBlock (matrix 0 (mat []))).events.length < 64 ∧ (curBlock (matrix 0 (mat []))).posts = []) ∧
    ¬ TenderRuns (matrix 0 (mat [])) ∧ ¬ MatrixRuns (tender 0 0 []) := by
  refine ⟨⟨.inl rfl, .inl rfl⟩, ?_, ?_, ?_⟩
  · decide +kernel
  · rintro (h | h) <;> exact absurd h (by decide +kernel)
  · rintro (h | h) <;> exact absurd h (by decide +kernel)

theorem wit_EngineEvents :
    (let w := engWord 0x0A 0 0 0 0
     let s := matrix cHandle (mat [w])
     EngineHead s 0 0 0 w ∧ CSideOk s 0 0 w 64 ∧ engineTaken s 0 0 = false ∧ w.resv = false ∧
      ∀ c ∈ cCells s 0 0 w (w.m * w.n), elemPending s 0 0 c = false) ∧
    (∀ ended ∈ [2, 3], let w := engWord 0x0A 1 ended 0 0
     let s := matrix cHandle (mat [w])
     (blockAt s 0 0).mat.st ≠ .idle ∧ (blockAt s 0 0).mat.queue = w :: [] ∧ (blockAt s 0 0).posts = [] ∧ entriesLeft s 0 0 w = false ∧ (blockAt s 0 0).events.length < 64) ∧
    ((blockAt (matrix cHandle (mat [engWord 0x0D 1 0 0 506])) 0 0).mat.st ≠ .idle ∧
      (blockAt (matrix cHandle (mat [engWord 0x0D 1 0 0 506])) 0 0).mat.queue = engWord 0x0D 1 0 0 506 :: [] ∧ 506 / 2 % 2 = 1 ∧
      epiHandle (engWord 0x0D 1 0 0 506) = 63 ∧ canMove (matrix cHandle (mat [engWord 0x0D 1 0 0 506])) 0 0 63 = true ∧ hState (handleAt (blockAt (matrix cHandle (mat [engWord 0x0D 1 0 0 506])) 0 0) 63) = 1 ∧
      inMask (hProd (handleAt (blockAt (matrix cHandle (mat [engWord 0x0D 1 0 0 506])) 0 0) 63)) .matrix = true) ∧
    (let w := engWord 0x0D 2 0 (12 + 2 ^ 5) 0
     let s : State := { matrix cHandle (mat [w]) with tasks := [(0, nfTask)] }
     EngineHead s 0 0 0 w ∧ w.stage = 2 ∧ keysDecided s 0 0 w = true ∧ epiTiled w = true ∧
      (epiFmt (taskAt s (gangAt s 0).task) w.ma).isSome ∧ (readCells s 0 0 (cCells s 0 0 w (w.m * w.n))).isSome ∧ epiHandle w < 64) ∧
    (let w := { engWord 0x0D 3 0 (12 + 2 ^ 5) 0 with kstep := 1, resv := true }
     let s : State := { matrix cHandle (mat [w]) with tasks := [(0, nfTask)] }
     EngineHead s 0 0 0 w ∧ entriesLeft s 0 0 w = false ∧ (readCells s 0 0 (cCells s 0 0 w (w.m * w.n))).isSome ∧ epiHandle w < 64) := by
  refine ⟨⟨⟨?_, ?_, ?_, ?_, .inl ?_⟩, ⟨?_, ?_, ?_, ?_, ?_, ?_⟩, ?_, ?_, ?_⟩, ?_, ?_, ⟨⟨?_, ?_, ?_, ?_, .inl ?_⟩, ?_, ?_, ?_, ?_, ?_, ?_⟩,
      ⟨?_, ?_, ?_, ?_, .inl ?_⟩, ?_, ?_, ?_⟩ <;>
    first | decide +kernel | (intro j x h; exact absurd h (Nat.not_lt_zero j))

/-! ## Events of the device -/

/-- A word of one lane in flight, that may have a parked lane, and the park entry of that lane, waiting or in a Beacon unit. -/
def flight (p : List (Nat × List RegWrite × FlagSet)) : Flight :=
  { id := 7, idx := 1, ws := [.v 0 0 5], flags := 1, parked := p, srcs := [], cnt := .sfc, written := false, divider := false, due := 0, lat := 0,
    toPark := [], held := 0 }
def parkEntry (x : Stage) : ParkEntry :=
  { fn := 0x71, kind := 0, part := 0, slot := 0, lane := 31, rnd := 0, etype := 10, nfs := 0, di := 0, vd := 0, va := 0, vb := 0, stage := x, ptime := 0,
    opa := 0, opb := 0, gang := 0, blk := 0, grp := 0, flight := 7 }
def parked (x : Stage) (c : Cluster) : State :=
  { machine task block [(0, { user with flights := [flight [(511, [.v 0 31 9], 0)]] })] with
    cores := [(0, { core with park := [(511, some (parkEntry x))] })], clusters := [(0, c)] }

/-- An entry of a group, computed. -/
theorem groupEntry {s : State} {ref : Nat} (h : (entryAt s ref).all (fun e => e.grp != engineGrp && e.kind != 2) = true) : GroupEntry s ref := by
  intro e he
  simpa [he] using h

theorem wit_EscalationEvents :
    (let s := machine task block [(0, { user with flights := [flight []] })]
     (groupAt s 0 0 0).flights.find? (fun x => x.id == 7) = some (flight []) ∧ flightWaits s 0 0 0 (flight []) = false ∧ (flight []).due ≤ s.now) ∧
    ((clusterAt (parked .waiting Cluster.vacant) 0).passOn = false ∧ beaconQueue (parked .waiting Cluster.vacant) 0 = some 0) ∧
    (let s := parked .beacon { Cluster.vacant with beacon := [511] }
     beaconHolder s 511 = some 0 ∧ GroupEntry s 511 ∧ contribBehind s 511 true = false) ∧
    (let e := { parkEntry .beacon with grp := engineGrp, kind := 2, flight := 0, first := true, pwin := 1 }
     let s : State := { machine task { block with mat := mat [engWord 0x0B 1 0 0 0] } [] with
       cores := [(0, { core with park := [(511, some e)] })], clusters := [(0, { Cluster.vacant with beacon := [511] })] }
     beaconHolder s 511 = some 0 ∧ entryAt s 511 = some e ∧ contribBehind s 511 false = false ∧ (entryWord s e).isSome ∧
      (match applyWindow (setEntry s 511 none) e with | .ok _ => true | _ => false) = true) ∧
    (let s := parked .list { Cluster.vacant with lantern := [511] }
     (clusterAt s 0).passOn = false ∧ (clusterAt s 0).inStage = none ∧ (clusterAt s 0).lantern ≠ []) ∧
    ((clusterAt (parked .lantern { Cluster.vacant with inStage := some 511 }) 0).inStage = some 511 ∧
      GroupEntry (parked .lantern { Cluster.vacant with inStage := some 511 }) 511) := by
  refine ⟨?_, ?_, ⟨?_, groupEntry ?_, ?_⟩, ?_, ?_, ?_, groupEntry ?_⟩ <;> decide +kernel

/-- The machine with its gang changed. -/
def gang (g : Gang) : State := { st stopped with gangs := [(0, g)] }
def running : Gang := { Gang.vacant with phase := .running }

theorem wit_GangEvents :
    (let s := machine task { block with bars := [(15, ⟨0, 4, 3⟩)] } []
     (barAt s 0 0 15).rel < (barAt s 0 0 15).gen) ∧
    (let s := machine task { block with posts := [(1, 5)], events := List.replicate 63 0 } []
     (blockAt s 0 0).posts = (1, 5) :: [] ∧ (blockAt s 0 0).events.length = 63) ∧
    (let s := gang { running with store := [(3, some ⟨[(0, 1)], 0, 0, 1, false⟩)], window := true }
     (gangAt s 0).phase ≠ .vacant ∧ (gangAt s 0).phase ≠ .removed ∧ (gangAt s 0).store = (3, some ⟨[(0, 1)], 0, 0, 1, false⟩) :: [] ∧
      (gangAt s 0).window = true) ∧
    (let w : HandlerWork := ⟨0, List.replicate 16 0, 0, 0, 0, 0, false⟩
     let s := { gang { running with work := [w] } with now := 1 }
     (gangAt s 0).busy = none ∧ (gangAt s 0).work = w :: [] ∧ (gangAt s 0).phase = .running ∧ w.reason = 0 ∧ workOpen s 0 w = true ∧
      w.at_ < s.now ∧ w.words.length = 16) ∧
    (let s := { gang { running with removal := .drain } with now := 65536, mgmt := { Mgmt.reset with mstate := 2, saveent := 1, restent := 1 } }
     (gangAt s 0).phase = .running ∧ (gangAt s 0).removal = .drain ∧ (taskAt s (gangAt s 0).task).lpb.pclass ≠ 2 ∧
      (gangAt s 0).removalAt + s.mgmt.pdlim * 1024 ≤ s.now ∧ s.mgmt.saveent ≠ 0 ∧ s.mgmt.restent ≠ 0) ∧
    (gangAt (gang { running with phase := .saved }) 0).phase = .saved := by
  refine ⟨?_, ?_, ?_, ?_, ?_, ?_⟩ <;> decide +kernel

/-- A copy word in flight for the descriptor of handle 63. -/
def rec_ (prog ended : Nat) (l : Option LoopRec) : CopyRec :=
  { op := 0x15, idx := 0, dn := 0, desc := descr 63, dn2 := 0, desc2 := 0, args := [0, 0], fin := false, ev := false, rnd := .rne, sat := false, h := 0,
    prog := prog, count := 4, stuck := false, loop := l, moved := 0, ended := ended }
/-- The Tender's machine with that copy word in its record 15. -/
def copying (b : Nat) (r : CopyRec) : State :=
  machine task { block with handles := [(63, handle 0 b)], tnd := { tnd [] with recs := [(15, some r)] } } [(0, user)]
/-- The machine with a peer port in a state. -/
def port (p : Port) : State := { tender 0 0 [] with ports := [(15, p)] }
def msg (announced granted : Bool) : PeerMsg := ⟨0xFF, 16, [], 0, 0, 0, announced, granted, 0, granted⟩

theorem wit_CopyAndPeerEvents :
    (let s := atBlock (copying 1 (rec_ 3 0 none)) 0 0
     recAt s 15 = some (rec_ 3 0 none) ∧ (curTnd s).st = .running ∧ writeBehind s 0 (elemFoot s (rec_ 3 0 none) 3) = false ∧
      passes (checkOne s .read .read false (elemAddr (descr 63) 4 [0] 3) 4 4) (fun r => !r.1.host && !poisoned s r.1.pa) = true) ∧
    (let s := atBlock (copying 1 (rec_ 4 2 none)) 0 0
     recAt s 15 = some (rec_ 4 2 none) ∧ (curTnd s).st = .running ∧ (s.blocks.all fun e => e.2.posts.isEmpty) = true) ∧
    (let l : LoopRec := ⟨1, 0, 0, 1, 0, []⟩
     let s := atBlock (copying 0 (rec_ 4 0 (some l))) 0 0
     recAt s 15 = some (rec_ 4 0 (some l)) ∧ (curTnd s).st = .running ∧ ringBehind (curTnd s) (rec_ 4 0 (some l)) l = false ∧
      hState (handleAt (curBlock s) 63) = 0 ∧ inMask (hProd (handleAt (curBlock s) 63)) .tender = true ∧ canMove s 0 0 63 = true ∧
      bufferFault (handleAt (curBlock s) 63) .write 0 0 16 1 0 = none) ∧
    (let l : LoopRec := ⟨1, 0, 0, 1, 1, [(0, 4)]⟩
     let s := atBlock (copying 1 (rec_ 4 0 (some l))) 0 0
     recAt s 15 = some (rec_ 4 0 (some l)) ∧ (curTnd s).st = .running ∧ (match iterStart s 0 0 (rec_ 4 0 (some l)) l with | .wait => true | _ => false) = true ∧
      hState (handleAt (curBlock s) 63) = 1 ∧ inMask (hProd (handleAt (curBlock s) 63)) .tender = true ∧ canMove s 0 0 63 = true ∧
      writesLeft s 0 0 63 (rec_ 4 0 (some l)).seq = false) ∧
    (let s := atBlock (copying 1 (rec_ 4 0 (some ⟨1, 0, 0, 1, 1, []⟩))) 0 0
     recAt s 15 = some (rec_ 4 0 (some ⟨1, 0, 0, 1, 1, []⟩)) ∧ (curTnd s).st = .running) ∧
    ((portAt (port Port.vacant) 15).inactive = false ∧ (portAt (port Port.vacant) 15).announced = []) ∧
    (let s := port ⟨false, false, [], [msg true false], []⟩
     (portAt s 15).recvs.find? (fun m => m.chan == 0xFF && !m.granted) = some (msg true false) ∧ peerReady s (msg true false) = true) ∧
    (let s := port ⟨false, false, [msg true false], [], []⟩
     (portAt s 15).sends.find? (fun m => m.chan == 0xFF && m.announced && !m.granted) = some (msg true false)) ∧
    (let s := port ⟨false, false, [], [msg true true], []⟩
     (portAt s 15).recvs.find? (fun m => m.chan == 0xFF && m.granted && decide (m.done + m.data.length < m.len)) = some (msg true true)) ∧
    (let s := port ⟨false, false, [msg true true], [], []⟩
     (portAt s 15).sends.find? (fun m => m.chan == 0xFF && m.sent) = some (msg true true) ∧ recAt (atBlock s 0 0) 0 = none) ∧
    (let s := { copying 1 (rec_ 3 0 none) with ports := [(15, ⟨false, false, [{ msg true true with rec_ := 15 }], [], []⟩)] }
     (portAt s 15).sends.find? (fun m => m.chan == 0xFF && m.sent) = some { msg true true with rec_ := 15 } ∧
      recAt (atBlock s 0 0) 15 = some (rec_ 3 0 none)) ∧
    (portAt (port { Port.vacant with inactive := true }) 15).inactive = true := by
  refine ⟨?_, ?_, ?_, ?_, ?_, ?_, ?_, ?_, ?_, ?_, ?_, ?_⟩ <;> decide +kernel

/-! ## The host link, management, failures and the dispatcher -/

/-- An access of the user group's flight 7 that awaits the host, and its machine. -/
def hostAcc (kind strm : Nat) (got : Option (List Byte)) : HostAcc :=
  { tag := 0xFFFF, strm := strm, gang := 0, blk := 0, grp := 0, flight := 7, kind := kind, lane := 31, reg := 63, etype := 2,
    addr := if strm = 2 then 4096 else 124, len := 4, got := got }
def linked_ (a : List HostAcc) (c : List HostCall) : State :=
  { machine task block [(0, { user with flights := [{ flight [] with ws := [.v 63 31 0] }] })] with hostAccs := a, calls := c }
/-- The record of a stopped group on its way to the host, or written there. -/
def call_ (n : Option Nat) : HostCall := ⟨List.replicate 16 0, 4096, 4, 0, 0, 0, 0, n, false, none⟩
/-- A reply to record 0 that resumes the group, or fails the task, with a value for s7. -/
def replyTo (fail : Bool) : BitVec 512 := BitVec.ofNat 512 (2 ^ 39 + (if fail then 2 ^ 40 else 0) + 5 * 2 ^ 480)

theorem wit_HostLink :
    (2 ^ 48 - 128 < 2 ^ 48 ∧ (2 ^ 48 - 128) % 128 + (128 : BitVec 32).toNat ≤ 128 ∧ 128 < 1 + (128 : BitVec 32).toNat) ∧
    ((0x2FFFF : BitVec 32).toNat < 2 ^ 18 ∧ (0x2FFFF : BitVec 32).toNat / 65536 ≠ 3 ∧ (0xFFFFFFFFFF000 : BitVec 64).toNat % 4096 = 0 ∧
      (0xFFFFFFFFFF000 : BitVec 64).toNat < 2 ^ 52) ∧
    (∀ k ∈ [0, 1, 2, 3, 5], accessOf (linked_ [hostAcc k 0 none] []) 0xFFFF = some (hostAcc k 0 none)) ∧
    accessOf (linked_ [] []) 0 = none ∧ (nextCall (linked_ [] []) 4096 = none ∧ (linked_ [] []).rings.get .idle 4096 = .idle) ∧
    (nextCall (linked_ [] [call_ none]) 4096 = some (call_ none) ∧ deviceAccAt (linked_ [] [call_ none]) 5 4096 = none) ∧
    (∀ n ∈ [(15 : Byte), 16], let s := linked_ [hostAcc 5 2 (some [n, 0, 0, 0, 0, 0, 0, 0])] [call_ none]
      nextCall s 4096 = some (call_ none) ∧ deviceAccAt s 5 4096 = some (hostAcc 5 2 (some [n, 0, 0, 0, 0, 0, 0, 0])) ∧
      (call_ none).words.length = 16 ∧ (2 ^ (call_ none).log ≤ natOf [n, 0, 0, 0] ↔ n = 16)) ∧
    (let s := { linked_ [] [call_ none] with rings := [(4096, .record (call_ none) 15)] }
     s.rings.get .idle 4096 = .record (call_ none) 15 ∧ deviceAccAt s 1 (4096 + 64 * 16) = none ∧ nextCall s 4096 = some (call_ none) ∧
      (groupAt { s with groups := [(0, { stopped with called := true })] } 0 0 0).called = true) ∧
    (∀ l ∈ [[], [hostAcc 1 2 none]], let s := { linked_ l [] with rings := [(4096, .count)] }
      s.rings.get .idle 4096 = .count ∧ ((deviceAccAt s 1 4096).isNone = l.isEmpty)) ∧
    (∀ f, (replyTo f).extractLsb' 41 23 = 0 ∧ (replyTo f).extractLsb' 64 192 = 0 ∧ (replyTo f).extractLsb' 40 1 = (if f = true then 1 else 0) ∧
      callOf (linked_ [] [call_ (some 0)]) 4096 ((replyTo f).extractLsb' 0 32).toNat = some (call_ (some 0)) ∧
      (gangAt (linked_ [] [call_ (some 0)]) 0).phase = .running ∧ (gangAt (linked_ [] [call_ (some 0)]) 0).allStop = false) ∧
    callOf (linked_ [] [call_ (some 1)]) 4096 0 = none ∧
    (taskNamed (linked_ [] []) 0 0 = some 0 ∧ taskNamed (linked_ [] []) 63 (2 ^ 31 - 1) = none ∧
      (2 ^ 31 - 1 + 2 ^ 32 - (readQueue (linked_ [] []) 63).head) % 2 ^ 32 < 2 ^ 31 ∧ (queueView (linked_ [] []) 63).cancelled = []) := by
  refine ⟨?_, ?_, ?_, ?_, ?_, ?_, ?_, ?_, ?_, ?_, ?_, ?_⟩ <;> decide +kernel

/-- The machine without gangs, whose queue 63 holds a task of class 3 that a notify has found. -/
def dispatching (t : Task) : State := { machine t block [] with
  gangs := [], blocks := []
  mem := [(4034, 1), (4049, 1), (0x1002C, 3)], queues := [(63, ⟨[(0, 0)], []⟩)] }
/-- A task whose gang runs no stream, or has ended them. -/
def idleTask : Task := { task with lpb := { lpb with tentry := 0, mentry := 0, slots := 1, cbmap := 0x100 } }

theorem wit_Management :
    ((mgmtReg 0x070).isSome ∧ (mgmtIdleReg 0x018).isSome ∧ (st user).mgmt.mstate = 2 ∧ State.reset.mgmt.mstate ≠ 2) ∧
    (∀ r, mgmtReg 0x070 = some r → r.ok 255 ∧ ¬ r.ok 256) ∧
    ((∃ e ∈ (st user).tasks, e.2.active = true) ∧ ¬ ∃ e ∈ (machine Task.vacant block []).tasks, e.2.active = true) ∧
    (taskNamed (machine Task.vacant block []) 0 0 = none ∧ taskNamed (st user) ((st user).mgmt.mrtask % 64) ((st user).mgmt.mrtask / 2 ^ 32) = some 0 ∧
      gangNamed (st user) 0 0 = some 0 ∧ (gangAt (st user) 0).phase = .running) ∧
    ((st user).mgmt.mattbusy = false ∧ { (st user).mgmt with mattbusy := true }.mnonce.length = 8 ∧ (st user).mgmt.mattaddr + 2532 ≤ 576 * 10 ^ 9) ∧
    ((st user).boot.outside = false ∧ (st user).boot.fw = Image.first ∧ (st user).boot.mc = Image.first ∧ keyDigest Image.first.key = fusedKeyDigest ∧
      signatureOk Image.first.key (sha3 Image.first.bytes) Image.first.sig = true ∧ (st user).boot.minVersion.toNat ≤ Image.first.version.toNat ∧
      ¬ { (st user).boot with minVersion := 1 }.minVersion.toNat ≤ Image.first.version.toNat) ∧
    ((st user).off = false ∧ (∀ q, q < 64 → (readQueue State.reset q).enabled = false) ∧ (readQueue (dispatching task) 63).enabled = true) ∧
    ({ st user with boot := { (st user).boot with outside := true } }.boot.outside = true ∧ { st user with mgmt := { Mgmt.reset with mstate := 3 } }.mgmt.mstate = 3 ∧
      wakes { st user with mgmt := { Mgmt.reset with mstate := 3 } } .reservation = false) := by
  refine ⟨?_, ?_, ?_, ?_, ?_, ⟨rfl, rfl, rfl, rfl, by simp [signatureOk, Image.first], ?_, ?_⟩, ⟨rfl, ?_, ?_⟩, ?_⟩
  · decide +kernel
  · intro r h
    simp only [mgmtReg, Option.some.injEq] at h
    subst h
    exact ⟨⟨by decide, by decide⟩, fun h => absurd h.2 (by decide)⟩
  all_goals decide +kernel

/-- A user group with a write to s1 in flight, of fixed or of variable latency. -/
def pending : Group := { user with pend := [⟨2, 1, [.s 1 5], 0, 2, 1⟩], trapen := 0x100 }
def locked : Group := { user with flights := [{ flight [] with ws := [.s 1 5] }] }

theorem wit_FailedUnits :
    ((coreAt (st user) 255).fenced = false ∧ (clusterAt (st user) 15).fenced = false ∧
      (coreAt (st user) (2047 % 256)).fencedParts.contains (2047 / 256) = false ∧ 1019 % 16 < 12 ∧ (st user).mgmt.irqen / 32 % 2 = 1) ∧
    (eventsAfter (st user) (2 ^ 20 + 255 + 7 * 256)).length < (st user).mgmt.fwcnt ∧
    (let s := { st user with unitEvents := [(255 + 7 * 256, [1, 1, 1]), (2 ^ 16 + 255, [1, 1, 1])] }
     s.mgmt.fwcnt ≤ (eventsAfter s (255 + 7 * 256)).length ∧ s.mgmt.fwcnt ≤ (eventsAfter s (2 ^ 16 + 255)).length ∧ halted s = false) ∧
    (let s := { st user with declared := [(3, 1019), (4, 127)] }
     (3, 1019) ∈ s.declared ∧ (4, 127) ∈ s.declared ∧ (3, 1019) ∉ (st user).declared ∧ (4, 127) ∉ (st user).declared) ∧
    (let s := machine { task with lpb := { lpb with checked := true } } block [(0, { pending with pend := [⟨1, 1, [.v 0 0 5], 0, 4, 1⟩] })]
     (comparedWords s 0 0 false).length = 1 ∧ comparedWords s 0 0 true = [] ∧ (⟨1, 1, [.v 0 0 5], 0, 4, 1⟩ : Pend) ∈ (s.groups.get Group.vacant 0).pend) ∧
    flight [] ∈ ((machine task block [(0, locked)]).groups.get Group.vacant 0).flights.map (fun f => { f with ws := [.v 0 0 5] }) ∧
    ((coreAt { st user with cores := [(0, { core with fenced := true })] } 0).fenced = true ∧
      gangsOfCore { st user with cores := [(0, { core with fenced := true })] } 0 ≠ []) ∧
    mirrors (st user) 0 = false ∧
    (let s := machine { task with lpb := { lpb with mirror := true } } { block with mat := mat [{ engWord 0x0B 3 0 0 0 with resv := true }] } [(0, user)]
     mirrors s 0 = true ∧ (eventsAfter s (2 ^ 20 + 2 ^ 16)).length < s.mgmt.fwcnt ∧ (coreAt s 0).fenced = false) ∧
    (groupMayIssue (st user) 0 0 0 = true ∧ (st user).mgmt.mstate ≠ 3 ∧ (gangAt (st user) 0).window = true ∧ placeExists 1 255 = true ∧
      (eventsAfter (st user) (unitKey 1 255 9)).length < (st user).mgmt.fwcnt) := by
  refine ⟨?_, ?_, ?_, ?_, ?_, ?_, ?_, ?_, ?_, ?_⟩ <;> decide +kernel

theorem wit_Dispatcher :
    (chooseQueue (disableBad (st user)) = none ∧ (st user).tasks.length < 128) ∧ chooseQueue (disableBad (dispatching task)) = some (63, 3) ∧
    (queueReady (dispatching task) 63 = true ∧ 1 < effectiveClass (dispatching task) 63 ∧ (dispatching task).mgmt.dage ≠ 0) ∧
    (tasksInOrder (dispatching idleTask) = 0 :: [] ∧ offered (taskAt (dispatching idleTask) 0) = some 0 ∧
      slotFor (dispatching idleTask) 0 (indexOfSeq (taskAt (dispatching idleTask) 0).lpb 0) = some 0 ∧ (findRun (dispatching idleTask) 0 0).isSome) ∧
    (overdue (dispatching task) = [] ∧ (let s := { dispatching { idleTask with passed := [(0, 1)] } with now := 65536 }
      overdue s = [(0, 0)] ∧ (reserveCluster s 0).isSome ∧ ((reserveCluster s 0).bind (reserveRun s 0)).isSome)) ∧
    (let s := { st user with clusters := [(15, { Cluster.vacant with edges := [⟨1, 0, false⟩] })] }
     (clusterAt s 15).edges = ⟨1, 0, false⟩ :: [] ∧ (clusterAt s 0).edges = [] ∧ (taskAt s (gangAt s 0).task).regions = []) ∧
    (let s := { st user with
        mem := pages, tasks := [(0, { task with regions := [⟨0, 128, 0, 0, 1, false, false, false⟩] })],
        clusters := [(0, { Cluster.vacant with edges := [⟨1, 0, false⟩], lines := [(0, ⟨[(5, 257)], 32⟩)] })] }
     (clusterAt s 0).edges = ⟨1, 0, false⟩ :: [] ∧ (clusterLine s 0 0).dirty ≠ 0 ∧ (match exec (.edgeAction 0 none) s with
      | .next t => decide ((clusterLine t 0 0).dirty = 0 ∧ (taskAt t (gangAt t 0).task).active = true ∧ (taskAt t (gangAt t 0).task).failed = false)
      | _ => false) = true) ∧
    (let s := gang { running with phase := .placing }
     (gangAt s 0).phase = .placing ∧ edgePending s 0 = false ∧ (taskAt s (gangAt s 0).task).failed = false ∧ (gangAt s 0).savedOn = 0 ∧
      (gangAt s 0).removal = .none) ∧
    (gangDone (st user) 0 = false ∧ gangDone (machine idleTask block [(0, { user with st := .exited })]) 0 = true) ∧
    (∀ e ∈ [[], [(0 : Nat)]], let s : State := { gang { running with phase := .completing } with tasks := [(0, { task with ending := e })] }
     (gangAt s 0).phase = .completing ∧ edgePending s 0 = false ∧ (taskAt s 0).lpb.cbmap = 0 ∧ (taskAt s (gangAt s 0).task).ending.head? = e.head?) ∧
    (let s : State := { gang { running with phase := .completing } with tasks := [(0, { idleTask with ending := [0] })], mem := pages }
     (taskAt s 0).lpb.cbmap ≠ 0 ∧ (taskAt s (gangAt s 0).task).ending.head? = some 0 ∧ passes (translateBare s 0 ((taskAt s 0).lpb.cbmap + gangIndexOf s 0 / 64 * 8) .write true) (fun _ => true) = true) ∧
    (let t := { task with deps := [⟨0, 1, 1, 0, 0, 0, 0, 0, 0, 0, none⟩] }
     (taskAt (machine t block []) 0).active = true ∧ t.deps ≠ [] ∧ 0 < gangCount t.lpb ∧ isOpen t 0 = true) ∧
    ((taskAt (st user) 1).active = false ∧ (let s := { machine { task with failed := true } block [] with gangs := [] }
      (taskAt s 0).active = true ∧ (taskAt s 0).failed = true ∧ gangsOf s 0 = [])) ∧
    (let s := machine { task with retired := 1 } block []
     (taskAt s 0).active = true ∧ (taskAt s 0).failed = false ∧ (taskAt s 0).lpb.gridx * (taskAt s 0).lpb.gridy ≤ (taskAt s 0).retired ∧
      (taskAt s 0).contribs = [] ∧ contribsOut s 0 = false) := by
  refine ⟨?_, ?_, ?_, ?_, ?_, ?_, ?_, ?_, ?_, ?_, ?_, ?_, ?_, ?_⟩ <;> decide +kernel

/-! ## Issue, landing, faults, fetching and the invariant -/

/-- The hypotheses of the checks of issue, computed. -/
theorem wit_IssueOrder :
    (Instr.nop.stream = some .group ∧ (curGroup (st stopped)).st ≠ .running) ∧
    ((curGroup (st { user with atrap := some (7, 4) })).st = .running ∧ (groupIn .nop (st { user with atrap := some (7, 4) })).atrap = some (7, 4)) ∧
    (AtChecks (.vadd 64 0 0) (st user) ∧ issueFault (wordOf (st user) (.vadd 64 0 0)) (groupIn (.vadd 64 0 0) (st user)) = some 2 ∧ 64 ∈ vectorNames (.vadd 64 0 0) ∧ (groupIn (.vadd 64 0 0) (st user)).nv ≤ 64) ∧
    (AtChecks (.sadd 0 1 false) (st locked) ∧ issueFault (wordOf (st locked) (.sadd 0 1 false)) (groupIn (.sadd 0 1 false) (st locked)) = none ∧ notReady (wordOf (st locked) (.sadd 0 1 false)) (atIssue (.sadd 0 1 false) (st locked)) = true ∧
      (groupIn (.sadd 0 1 false) (st locked)).flights = [{ flight [] with ws := [.s 1 5] }]) ∧
    (AtChecks .nop (st { user with ctl := 0xB0000000 }) ∧ markOk (groupIn .nop (st { user with ctl := 0xB0000000 })).ctl = false) ∧
    (supervisorWord (.wrsr 0 256) = true ∧ AtChecks (.wrsr 0 256) (st user) ∧ markOk (groupIn (.wrsr 0 256) (st user)).ctl = true ∧
      (groupIn (.wrsr 0 256) (st user)).handler = false) ∧
    (AtChecks (.illegalInstruction 0x11FFFFFF) (st user) ∧
      (groupIn (.illegalInstruction 0x11FFFFFF) (st user)).frozen ≤ (atIssue (.illegalInstruction 0x11FFFFFF) (st user)).now) ∧
    (AtChecks (.sadd 0 1 false) (st pending) ∧ Instr.wf (.sadd 0 1 false) = true ∧ (groupIn (.sadd 0 1 false) (st pending)).trapen.getLsbD 8 = true ∧
      (groupIn (.sadd 0 1 false) (st pending)).pend = [⟨2, 1, [.s 1 5], 0, 2, 1⟩] ∧ 1 ∈ scalarNames 0 1 false ∧
      issueFault (wordOf (st pending) (.sadd 0 1 false)) (groupIn (.sadd 0 1 false) (st pending)) = none ∧
      notReady (wordOf (st pending) (.sadd 0 1 false)) (atIssue (.sadd 0 1 false) (st pending)) = false ∧
      lateFault (wordOf (st pending) (.sadd 0 1 false)) (atIssue (.sadd 0 1 false) (st pending)) = some 5) ∧
    (AtChecks (.smaxn 382 0 true) (st user) ∧ Instr.wf (.smaxn 382 0 true) = true ∧ (groupIn (.smaxn 382 0 true) (st user)).pend = [] ∧
      (groupIn (.smaxn 382 0 true) (st user)).flights = [] ∧
      (groupIn (.smaxn 382 0 true) (st user)).frozen ≤ (atIssue (.smaxn 382 0 true) (st user)).now) := by
  refine ⟨⟨rfl, ?_⟩, ⟨?_, ?_⟩, ⟨at_checks ?_, ?_, ?_, ?_⟩, ⟨at_checks ?_, ?_, ?_, ?_⟩, ⟨at_checks ?_, ?_⟩, ⟨?_, at_checks ?_, ?_, ?_⟩, ⟨at_checks ?_, ?_⟩,
    ⟨at_checks ?_, ?_, ?_, ?_, ?_, ?_, ?_, ?_⟩, at_checks ?_, ?_, ?_, ?_, ?_⟩ <;> decide +kernel

theorem wit_WritesLand :
    (fixedWord (.vmov 63 0) = true ∧ companded (curTask (atIssue (.vmov 63 0) (st user))) (groupIn (.vmov 63 0) (st user)) = false ∧
      CanIssue (.vmov 63 0) (st user) ∧ (curGroup (run (.vmov 63 0) (st user))).st = .running) ∧
    (globalForm (.fence 5) = true ∧ CanIssue (.fence 5) (st user) ∧ (curGroup (run (.fence 5) (st user))).st = .running) ∧
    pending.pend = [⟨2, 1, [.s 1 5], 0, 2, 1⟩] := by
  refine ⟨⟨rfl, ?_, can ?_, ?_⟩, ⟨rfl, can ?_, ?_⟩, rfl⟩ <;> decide +kernel

theorem wit_FaultEntry : Fits { FaultInfo.plain 0x31 with freg := 255, fclass := 6, cause := 15 } := by constructor <;> decide

/-- The machine with one turn to take. -/
def turn (t : Turn) (s : State) : State := { s with turns := [t] }
def fetches : FetchOut → Bool
  | .ok _ _ => true
  | _ => false

theorem wit_StepRuns :
    ((nextTurn (turn (.group 0 0 0) (st user))).1 = .group 0 0 0 ∧ groupMayIssue (st user) 0 0 0 = true ∧
      fetches (fetchCode (st user) ⟨0, 0, 0, 0, false, false⟩ (codeBase (st user) 0 0) 32) = true) ∧
    ((nextTurn (turn (.tender 0 0) (tender 0 0 []))).1 = .tender 0 0 ∧ tenderMayIssue (tender 0 0 []) 0 0 = true ∧
      fetches (fetchCode (tender 0 0 []) ⟨1, 0, 0, 0, false, false⟩ 64 4) = true) ∧
    ((nextTurn (turn (.matrix 0 0) (matrix 0 (mat [])))).1 = .matrix 0 0 ∧ matrixMayIssue (matrix 0 (mat [])) 0 0 = true ∧
      fetches (fetchCode (matrix 0 (mat [])) ⟨3, 0, 0, 0, false, false⟩ 128 4) = true) ∧
    ((nextTurn (turn (.event .reservation) (st user))).1 = .event .reservation ∧ halted (st user) = false ∧ Instr.reservation.stream = none) ∧
    (passes (translate (st user) 0 0 0 .fetch false) (fun r => r.1.mt == 0 && !poisoned r.2 (r.1.paOf 0)) = true ∧
      (clusterAt (st user) 0).lines = []) := by
  refine ⟨⟨rfl, ?_, ?_⟩, ⟨rfl, ?_, ?_⟩, ⟨rfl, ?_, ?_⟩, ⟨rfl, rfl, rfl⟩, ?_, rfl⟩ <;> decide +kernel

theorem wit_AccessChecks_region : regionCheck [⟨4, 4, 0, 0, 0, false, false, false⟩] .write 7 2 = some (0x0F, 0, 7) ∧
    regionCheck [⟨4, 4, 0, 0, 0, false, false, false⟩] .read 7 2 = some (0x0E, 0xFF, 8) ∧
    regionCheck [⟨4, 4, 0, 0, 0, false, false, false⟩] .read 4 4 = none := by decide +kernel

theorem wit_DecodeEncode : (∀ i ∈ [Instr.mzero, .tlih 63 3 0xFFFF, .ssel 383 383 false 14], i.isIllegal = false ∧ i.wf = true ∧ i.stream.isSome) ∧
    (decodeGroup 0x25FFFF40).isIllegal = true ∧ (decodeMatrix 0x0A000000).isIllegal = false := by decide +kernel

theorem wit_StepKeepsInv : Safety.Inv (st user) ∧ (match step (turn (.event .reservation) (st user)) with | .next _ => true | _ => false) = true := by
  refine ⟨⟨by decide +kernel, ?_⟩, by decide +kernel⟩
  constructor <;> decide +kernel

/-! ## Rounding, types and quantising -/

/-- E4M3 with the companding table C(t) = t / 2. -/
def curved : NFmt := { NFmt.ofBits 0xC60E8000 [] with
  curve := [1, 2, 3, 4, 5, 6, 7, 8, 9, 10, 11, 12, 13, 14, 15, 16].map fun k : Int => (⟨k, 1⟩, ⟨k, 2⟩) }
theorem curved_ok : FmtOk (.nar curved) := by
  refine ⟨by decide, by decide, by decide, by decide, by decide, .inr ⟨by decide, by decide, ?_, ?_⟩⟩ <;> decide +kernel

theorem wit_RoundTo :
    (FmtOk .bf16 ∧ curveOf .bf16 = [] ∧ 0x7F7F < magnitudes .bf16 ∧ unsignedFlag .bf16 = none) ∧
    (FmtOk (.nar curved) ∧ OnCurve (curveOf (.nar curved)) (size (ratOf ⟨-3, 2⟩)) (3 / 4)) ∧
    (FmtOk (.int true 64) ∧ OnCurve (curveOf (.int true 64)) (size (ratOf ⟨5, 2⟩)) (5 / 2)) := by
  refine ⟨⟨?_, rfl, ?_, rfl⟩, ⟨curved_ok, .inr ⟨1, (⟨1, 1⟩, ⟨1, 2⟩), (⟨2, 1⟩, ⟨2, 2⟩), ?_⟩⟩, ?_, .inl ⟨rfl, ?_⟩⟩
  · simp [FmtOk, binaries, Fmt.bf16]
  · decide +kernel
  · decide +kernel
  · simp [FmtOk]
  · decide +kernel

theorem wit_ExactArithmetic :
    FmtOk .f16 ∧ Proper (.fin ⟨-3, 4⟩) ∧ Proper (.zero true) ∧ realOf (.fin ⟨-3, 4⟩) = some (-3 / 4) ∧ realOf (.zero true) = some 0 ∧
    (∀ t ∈ [FVal.fin ⟨1, 2⟩, .zero false], Proper t) ∧ [FVal.fin ⟨1, 2⟩, .zero false].map realOf = [(1 / 2 : Rat), 0].map some ∧
    (FVal.nan false true 1 10).isNan = true := by
  refine ⟨?_, ⟨by decide, by decide⟩, trivial, ?_, rfl, ?_, ?_, rfl⟩
  · simp [FmtOk, binaries, Fmt.f16]
  · decide +kernel
  · simp [Proper]
  · decide +kernel

/-- Slots 2 and 3: E4M3 in blocks of 16 with four outliers, and a descriptor that is invalid. -/
def blockTask : Task := { task with lpb := { lpb with nfdt := [0x480E0000, 0xC60E0000, 0xC60EA008, 0xC60F8000] } }
def blocked (slot : Nat) : State := machine blockTask block [(0, typed (12 + slot * 2 ^ 9))]

theorem wit_IllegalType_slots :
    (∀ i ∈ [Instr.vcmp 1 0 2 4, .vscan 0 2 0, .vitof 0 2 10, .vfneg 0 1, .vfldx 0 2 4, .vfdiv 0 2 4, .vfexp 0 2, .vfred 0 2 0, .vand 0 1 2, .vfrot 0 2 4],
      CanIssue i (blocked 2) ∧ modeEtype (groupIn i (blocked 2)) = 12 ∧
      (legalTypes i).any (fun x => x.2 (nfSlot (curTask (atIssue i (blocked 2))) (modeNfs (groupIn i (blocked 2)))).blk) = false) ∧
    (∀ i ∈ [Instr.vpack 0 1 2, .vfqnt 0 1 2], CanIssue i (blocked 3) ∧
      nfSlotOk (curTask (atIssue i (blocked 3))) (modeNfs (groupIn i (blocked 3))) = false) ∧
    ((conversion (.vitof 0 2 12)).isSome ∧ CanIssue (.vitof 0 2 12) (blocked 3)) ∧
    (CanIssue (.vfqnt 0 1 2) (st (typed 8)) ∧ (legalTypes (.vfqnt 0 1 2)).any (fun x => x.1 8) = false) := by
  refine ⟨?_, ?_, ⟨rfl, can ?_⟩, can ?_, ?_⟩ <;> first | decide +kernel | skip
  · intro i hi; simp only [List.mem_cons, List.not_mem_nil, or_false] at hi
    rcases hi with rfl | rfl | rfl | rfl | rfl | rfl | rfl | rfl | rfl | rfl <;> exact ⟨can (by decide +kernel), by decide +kernel, by decide +kernel⟩
  · intro i hi; simp only [List.mem_cons, List.not_mem_nil, or_false] at hi
    rcases hi with rfl | rfl <;> exact ⟨can (by decide +kernel), by decide +kernel⟩

theorem wit_ConversionResults_blocked :
    (∀ i ∈ [Instr.vfqnt 0 1 2, .vfdq 0 1 2], CanIssue i (blocked 2) ∧
      (quantFmt (curTask (atIssue i (blocked 2))) (groupIn i (blocked 2))).map (fun n => (n.blk, n.outl, scaleFmt (curTask (atIssue i (blocked 2))) n)) =
        some (16, 4, none)) ∧ ScaleValue none 128 2 := by
  refine ⟨?_, by decide +kernel, by decide +kernel, by decide +kernel⟩
  intro i hi; simp only [List.mem_cons, List.not_mem_nil, or_false] at hi
  rcases hi with rfl | rfl <;> exact ⟨can (by decide +kernel), by decide +kernel⟩

/-! ## Further clauses on memory, KV and synchronisation words -/

/-- The machine with a FENCE.sys in flight behind a load of host memory. -/
def fencing : State :=
  { machine task block [(0, { user with flights := [{ plain with fence := some 5 }] })] with hostAccs := [{ ownWrite with nt := false, kind := 0 }] }
theorem wit_CommitWords_fence :
    (groupAt fencing 0 0 0).flights.find? (fun x => x.id == 7) = some { plain with fence := some 5 } ∧
    ∃ a ∈ fencing.hostAccs, a.strm = 0 ∧ a.gang = 0 ∧ a.blk = 0 ∧ a.grp = 0 ∧ a.kind ≤ 4 ∧ a.flight < 7 ∧ a.nt = false := by
  refine ⟨by decide +kernel, { ownWrite with nt := false, kind := 0 }, ?_⟩; decide +kernel

/-- Element 7 is a class 1 element whose spill record holds 9. -/
def spilled : State :=
  { machine { task with lpb := { lpb with spill := 0x80000, cbuf := 1 } } { block with handles := [(63, handle 2 2)], cbuf := [(7, laMake 1 0 5 0)] }
      [(0, at_ 10 112)] with mem := pages ++ [(0x802A0, 5), (0x802B0, 9)] }
theorem wit_AccumulatorResult_spilled :
    CanIssue (.ldc 63 0 63) spilled ∧ laCls (laAt (atIssue (.ldc 63 0 63) spilled) 0 0 (laIndex (handle 2 2) 0 112)) = 1 ∧
    (laRead (atIssue (.ldc 63 0 63) spilled) 0 0 (laIndex (handle 2 2) 0 112)).isSome = true := by
  refine ⟨can ?_, ?_, ?_⟩ <;> decide +kernel

/-- The KV space with four blocks and the free list's head, entries of its one bucket and records of its blocks, and scalars of the group. -/
def kvMap (free : Nat) (cells : List Host.Cell) (ss : SMap W32) : State :=
  { machine { task with lpb := { lpb with kvdesc := 0x30000 } } block [(0, { user with s := ss })] with
    mem := pages ++ [(0x30002, 4), (0x30008, 1), (0x30012, 5), (0x3001A, 6), (0x30020, 4), (0x30024, 1), (0x30028, 8),
      (0x30040, BitVec.ofNat 8 free)] ++ cells }
/-- Key 1 × 2^32 is mapped to block 1, which is counted once; blocks 2 and 3 are free, in this order. -/
def kvUsed (ss : SMap W32) : State :=
  kvMap 2 [(0x40004, 1), (0x40008, 1), (0x4000C, 1), (0x50010, 1), (0x50026, 1), (0x50028, 3), (0x50036, 1)] ss
theorem wit_KvWords_map :
    (∀ x ∈ [(Instr.kvmap 4 0, (0 : W32)), (.kvmap 4 0, 0xFFFFFFFF), (.kvfork 4 0, 3), (.kvdrop 4 0, 0)],
      let s := kvUsed [(0, 1), (1, if x.2 = 3 then 16 else 5), (4, x.2)]
      CanIssue x.1 s ∧ passes (mapDesc (atIssue x.1 s) true) (fun d => !kvInFlight (atIssue x.1 s) d && d.layers == 1 && d.nblk == 4 && d.asid == 0 &&
        d.pa == 0x30000 && d.tb == 16 && homeVa d (5 * 2 ^ 32 + 1) == 0x40000 && homeVa d (3 * 2 ^ 32) == 0x40000 && d.bda == 0x50000) = true) ∧
    (∀ w, passes (kvReadPa (kvUsed []) 0 0x40000 256 w) (· == 0x40000) = true) ∧
    (∀ w, ∀ k ∈ [0, 1, 2], passes (kvReadPa (kvUsed []) 0 (0x50000 + 16 * k) 16 w) (· == 0x50000 + 16 * k) = true) ∧
    (∀ i, i < 8 → entrySt (kvUsed []) 0x40000 i ≤ 1 ∧ entryBlk (kvUsed []) 0x40000 i < 4) ∧
    MapsAt (kvUsed []) 0x40000 0 (2 ^ 32) 1 ∧ Unmapped (kvUsed []) 0x40000 (3 * 2 ^ 32) ∧ FirstEmpty (kvUsed []) 0x40000 1 ∧
    (blkFlg (kvUsed []) 0x50000).testBit 0 = false ∧ (blkFlg (kvUsed []) 0x50020).testBit 0 = true ∧ blkRef (kvUsed []) 0x50010 = 1 ∧
    Separate [(0x40000, 256), (0x50010, 16), (0x30040, 8)] ∧
    TablesApart (kvUsed []) 0 [0x40000, 0x50010] [(0x40000, 256), (0x50010, 16), (0x30040, 8)] := by
  refine ⟨?_, ?_, ?_, ?_, ?_, ?_, ?_, ?_, ?_, ?_, ?_, ?_⟩ <;> first | decide +kernel | skip
  · intro x hx; simp only [List.mem_cons, List.not_mem_nil, or_false] at hx
    rcases hx with rfl | rfl | rfl | rfl <;> exact ⟨can (by decide +kernel), by decide +kernel⟩
  · exact ⟨by decide, by decide +kernel, by decide +kernel, by decide +kernel, by decide +kernel⟩
  · unfold Unmapped; decide +kernel
  · exact ⟨by decide, by decide +kernel, by decide +kernel⟩
  · exact ⟨by decide, by decide⟩
  · unfold TablesApart; decide +kernel

/-- Two writes of one cell in flight. -/
def kvTwice : State := kv { user with bfc := 1, flights := [{ plain with cnt := .bfc, kv := [kvAcc (some 5), { kvAcc (some 6) with lane := 30 }] }] }
theorem wit_KvWords_lanes : ∃ f, (groupAt kvTwice 0 0 0).flights.find? (fun x => x.id == 7) = some f ∧ f.due ≤ kvTwice.now ∧
    flightWaits kvTwice 0 0 0 f = false ∧ kvBehind (groupAt kvTwice 0 0 0) f = false ∧ f.consumes kvTwice = false ∧ f.toPark = [] ∧ f.held = 0 ∧
    (∀ a ∈ f.kv, a.val ≠ none ∧ a.fill = none ∧ a.pas.Nodup ∧ (∀ p ∈ a.pas, p < memSize) ∧ a.bit + a.width ≤ 8 * a.pas.length) :=
  ⟨_, rfl, by decide +kernel, by decide +kernel, by decide +kernel, by decide +kernel, rfl, rfl, by decide +kernel⟩

/-- A block with two records, a waiting EVPOP of group 1 in an earlier clock, or none. -/
def popping (p : List PopWait) : State :=
  { machine task { block with ngroups := 2, parts := [0, 1], events := [5, 6], pops := p } [(0, user), (1, { user with lclk := 9 })] with now := 4 }
theorem wit_HandleCounterAndEventWords_pops :
    (CanIssue (.evpop 380 false) (popping []) ∧ popTurn (atIssue (.evpop 380 false) (popping [])) = true) ∧
    (let s1 := atIssue (.evpop 380 false) (popping [⟨2, 1, 9⟩])
     CanIssue (.evpop 380 false) (popping [⟨2, 1, 9⟩]) ∧ popWaits s1 ⟨2, 1, 9⟩ = true ∧ 2 < s1.now ∧ popTurn s1 = false) := by
  refine ⟨⟨can ?_, ?_⟩, can ?_, ?_⟩ <;> decide +kernel

theorem wit_QueueWords_poisoned :
    (∀ i ∈ [Instr.qpush 366 0, .qpop 366 0], let s := { queue user with poison := [(0x2000, 1)] }
      CanIssue i s ∧ passes (checkOne (atIssue i s) .device .write true 0x100000 64 64) (fun r => poisoned r.2 r.1.pa) = true) ∧
    (let s := { st { user with s := [(0, 0x100000), (2, 63)] } with poison := [(0x2001, 1)] }
     CanIssue (.launch 2 0) s ∧ passes (checkOne (atIssue (.launch 2 0) s) .device .read false 0x100000 256 256) (fun r =>
      anyPoisoned (closeWindow (commitGang r.2 0) 0) r.1.pa 256) = true) := by
  refine ⟨?_, can ?_, ?_⟩ <;> first | decide +kernel | skip
  intro i hi; simp only [List.mem_cons, List.not_mem_nil, or_false] at hi
  rcases hi with rfl | rfl <;> exact ⟨can (by decide +kernel), by decide +kernel⟩

theorem wit_TenderMemory_faults :
    (∀ x ∈ [((0xFFFFC : W64), (0x3FF : BitVec 10)), (0, 0x3FC)], TenderRuns (tender 0 0 [(1, x.1)])) ∧
    tenderSum (tender 0 0 [(1, 0xFFFFC)]) 1 0x3FF = 0xFFFFB ∧ tenderSum (tender 0 0 [(1, 0)]) 1 0x3FC = -4 ∧
    tNat (curTnd (tender 0 0 [(1, 16)])) 1 % 32 ≠ 0 ∧ 2 ^ 52 ≤ tNat (curTnd (tender 0 0 [(1, 2 ^ 52)])) 1 ∧
    (inRing (curTnd (tender 0 2 [(1, 126)])) 63 = false ∧ hExt (handleAt (curBlock (tender 0 2 [(1, 126)])) 63) < 126 + 4 ∧
      tNat (curTnd (tender 0 2 [(1, 126)])) 1 = 126 ∧ hBuf (handleAt (curBlock (tender 0 2 [(1, 126)])) 63) < 2) ∧
    (SideOk (handleAt (curBlock (tender 0 1 [(1, 124)])) 63) .read 124 4 ∧ ¬ StateFits (handleAt (curBlock (tender 0 1 [(1, 124)])) 63) .read false) := by
  refine ⟨?_, ?_, ?_, ?_, ?_, ?_, ?_, ?_⟩ <;> first | decide +kernel | (unfold StateFits; decide +kernel) | (constructor <;> decide +kernel) | skip
  · intro x hx; simp only [List.mem_cons, List.not_mem_nil, or_false] at hx
    rcases hx with rfl | rfl <;> exact .inl rfl

/-! ## Copy words and engine words in progress -/

/-- A copy word with one element, or row, left, in record 15 of a Tender with a KV space. -/
def moving (op : Nat) (args : List W64) (prog : Nat) : CopyRec :=
  { op := op, idx := 0, dn := 0, desc := descr 63 + BitVec.ofNat 256 0xFFFC0, dn2 := 15, desc2 := descr 62, args := args, fin := false, ev := false,
    rnd := .rne, sat := false, h := 62, prog := prog, count := prog + 1, stuck := false, loop := none, moved := 0, ended := 0, seq := 5 }
def movedBlock (r : CopyRec) : Block := { block with handles := [(62, handle 0 2), (63, handle 0 1)], tnd := { tnd [] with recs := [(15, some r)] } }
def moved (r : CopyRec) : State := { machine { task with lpb := { lpb with kvdesc := 0x30000 } } (movedBlock r) [(0, user)] with mem := kvCells }

theorem wit_CopyElements :
    (∀ x ∈ [(0x16, ([0, 0] : List W64), 3), (0x18, [0], 0), (0x19, [0], 0), (0x1A, [0, 0], 0), (0x1B, [0, 0], 0), (0x1C, [], 3), (0x1D, [2, 0], 3),
        (0x1E, [1, 0], 3)], LastElement 15 (moving x.1 x.2.1 x.2.2) (atBlock (moved (moving x.1 x.2.1 x.2.2)) 0 0)) ∧
    (let r := moving 0x16 [0, 0] 3
     passes (checkOne (atBlock (moved r) 0 0) .write .write false (elemAddr r.desc 4 [0] 3) 4 4) (fun x => !x.1.host && tenderRoom x.2 1) = true) ∧
    (let r := moving 0x18 [0] 0
     passes (globalElems .read .read 4 (rowOf (atBlock (moved r) 0 0) r) [] (atBlock (moved r) 0 0)) (fun x => x.1.all (fun a => !a.host && !poisoned x.2 a.pa) && tenderRoom x.2 1) = true) ∧
    (let r := moving 0x19 [0] 0
     passes (globalElems .write .write 4 (rowOf (atBlock (moved r) 0 0) r) [] (atBlock (moved r) 0 0)) (fun x => x.1.all (fun a => !a.host) && tenderRoom x.2 1) = true) ∧
    (∀ op ∈ [0x1A, 0x1B], let s := atBlock (moved (moving op [0, 0] 0)) 0 0
     passes (kvDesc s (curTask s) (curLpb s).kvdesc) (fun d => decide (0 < d.layers ∧ 0 < d.heads) && decide (1 * (d.rb + 1) ≤ hExt (handleAt (curBlock s) 63)) &&
      passes (kvBlock s (curCore s / 16) d (rowAt d 0 0).key (op == 0x1B)) (fun b =>
        passes (kvBytes b.2 d.asid (rowByteAt d b.1 (rowAt d 0 0).row) d.rb) (fun _ => true) &&
        passes (kvBytes b.2 d.asid (scaleByteAt d b.1 (rowAt d 0 0).row) 1) (fun _ => true) &&
        passes (kvPas b.2 d.asid true (rowByteAt d b.1 (rowAt d 0 0).row) d.rb) (fun p => decide p.Nodup) &&
        passes (kvPas b.2 d.asid true (scaleByteAt d b.1 (rowAt d 0 0).row) 1) (fun p => p.length == 1))) = true) ∧
    (let r := moving 0x1D [2, 0] 3
     passes (checkOne (atBlock (moved r) 0 0) .atomic .write true (elemAddr r.desc 4 [0] 3) 4 4) (fun x => !poisoned x.2 x.1.pa && tenderRoom x.2 1) = true) ∧
    (let r := moving 0x1E [1, 0] 3
     passes (checkOne (atBlock (moved r) 0 0) .read .read false (elemAddr r.desc 4 [0] 3) 4 4) (fun x => !x.1.host && !poisoned x.2 x.1.pa && tenderRoom x.2 1) = true) := by
  refine ⟨?_, ?_, ?_, ?_, ?_, ?_, ?_⟩ <;> first | decide +kernel | skip
  intro x hx; simp only [List.mem_cons, List.not_mem_nil, or_false] at hx
  rcases hx with rfl | rfl | rfl | rfl | rfl | rfl | rfl | rfl <;> constructor <;> decide +kernel

/-- The message of a peer word on channel 1 of port 3, with 4 of its 8 bytes moved, and its machine. -/
def peer (done : Nat) : PeerMsg := ⟨1, 8, [1, 2, 3, 4], 0, 0, 15, true, true, done, false⟩
def peering (op done : Nat) (before : List PeerMsg) : State :=
  { moved { moving op [19, 0] 0 with count := 4 } with
    ports := [(3, if op = 0x23 then ⟨false, false, before ++ [peer done], [], []⟩ else ⟨false, false, [], before ++ [peer done], []⟩)] }
theorem wit_CopyElements_peers :
    (∀ x ∈ [(0x23, 1, []), (0x24, 4, []), (0x24, 4, [{ peer 0 with rec_ := 3 }])], let r := { moving x.1 [19, 0] 0 with count := 4 }
      let s := atBlock (peering x.1 x.2.1 x.2.2) 0 0
      PeerTurn 15 r (peer x.2.1) s ∧ msgsAhead s 15 r = x.2.2 ∧
      passes (checkOne (setRec s 15 (some r)) (if x.1 = 0x23 then .read else .write) (if x.1 = 0x23 then .read else .write) false (elemAddr r.desc 4 [0] 1) 4 4)
        (fun a => !a.1.host && !poisoned a.2 a.1.pa && tenderRoom a.2 1 && !writeBehind (setRec s 15 (some r)) r.seq (elemFoot (setRec s 15 (some r)) r 1)) = true) := by
  intro x hx; simp only [List.mem_cons, List.not_mem_nil, or_false] at hx
  rcases hx with rfl | rfl | rfl <;> refine ⟨?_, ?_, ?_⟩ <;> first | decide +kernel | (constructor <;> decide +kernel)

theorem wit_CopyWordsIssue_rows :
    (∀ x ∈ [((0x100000000 : W64), (0 : W64)), (0, 16)], let r := moving 0x1A [x.1, x.2] 0
      let s := atBlock (moved r) 0 0
      recAt s 15 = some r ∧ (curTnd s).st = .running ∧ (∀ e ∈ (curTnd s).active, r.seq ≤ e.2.seq) ∧ tenderRoom s 1 = true ∧
      passes (kvDesc s (curTask s) (curLpb s).kvdesc) (fun d => decide (d.layers = 1 ∧ 1 * (d.rb + 1) ≤ hExt (handleAt (curBlock s) (dHnd r.desc))) &&
        (x.1 != 0 || passes (kvLookup s (curCore s / 16) d (d.keyOf 0 0 16)) (fun e => e.1.isNone))) = true) := by
  intro x hx; simp only [List.mem_cons, List.not_mem_nil, or_false] at hx
  rcases hx with rfl | rfl <;> refine ⟨?_, ?_, ?_, ?_, ?_⟩ <;> decide +kernel

/-- Handles for the operands, a destination, a map and C. -/
def engineBlock (q : List EngWord) : Block :=
  { block with handles := [(1, handle 0 2), (2, handle 1 2), (4, handle 1 1), (63, cHandle)], mat := mat q }
def engineAt (w : EngWord) : State := { machine { nfTask with lpb := { nfTask.lpb with kvdesc := 0x30000 } } (engineBlock [w]) [(0, user)] with mem := kvCells }
/-- A word that has started, on a tile of two rows of 8 columns, with its binds. -/
def started (op : Nat) (ma : W32) (x : Nat) : EngWord :=
  { engWord op 3 0 ma x with bindA := ⟨0, 1, 0, 0x80000000⟩, bindB := ⟨0, 2, 0, 0x80000000⟩, bindMap := ⟨0, 1, 0, 0⟩, resv := true, held := 32, m := 2, k := 8, mfmt := 65 }
theorem inProgress {s : State} {w : EngWord} {op : Nat} (apart : Bool) (h : (blockAt s 0 0).mat.queue[0]? = some w ∧ w.stage = 3 ∧ w.stuck = false ∧
    w.toPark = [] ∧ (blockAt s 0 0).mat.st = .running ∧ w.op = op ∧ w.resv = true ∧ entriesLeft s 0 0 w = false) : InProgress s 0 0 0 w op apart := by
  obtain ⟨h1, h2, h3, h4, h5, h6, h7, h8⟩ := h
  exact ⟨⟨h1, fun j x hj => absurd hj (Nat.not_lt_zero j), by rw [h2]; decide, ⟨h3, h4⟩, .inl h5⟩, h6, h2, h7, fun _ => h8⟩

theorem wit_EngineResults_mma :
    (let w := started 0x0B 0 0
     InProgress (engineAt w) 0 0 0 w 0x0B false ∧ MmaFormats (engineAt w) 0 w (.plain .bf16) (.plain .bf16) ∧ w.prog < patchesOf w ∧
      ElementsFree (engineAt w) 0 0 (patchElements (engineAt w) 0 0 w)) ∧
    (let w := { started 0x0C 0 0 with prog := 1 }
     InProgress (engineAt w) 0 0 0 w 0x0C false ∧ MmaFormats (engineAt w) 0 w (.plain .bf16) (.plain .bf16) ∧ patchesOf w ≤ w.prog) := by
  refine ⟨⟨inProgress _ ?_, ⟨?_, ?_, ?_, ?_⟩, ?_, ?_, ?_⟩, inProgress _ ?_, ⟨?_, ?_, ?_, ?_⟩, ?_⟩ <;>
    first | decide +kernel | (intro n h; exact absurd h (by simp)) | simp [FormatIs, started, engWord]

theorem wit_EngineResults_epilogue :
    (∀ x ∈ [((9 + 7 * 2 ^ 16 : W32), (2 ^ 31 : W32)), (12 + 2 ^ 5, 5)], let w := { started 0x0D x.1 (8 * 4) with mb := x.2 }
      InProgress (engineAt w) 0 0 0 w 0x0D true ∧ w.kstep = 0 ∧ RecordsRead (engineAt w) 0 0 (cCells (engineAt w) 0 0 w (w.m * w.n)) ∧
      (epiTiled w = decide (x.2 = 5)) ∧ hBuf (handleAt (blockAt (engineAt w) 0 0) w.bindMap.h) = 0 ∧ hBuf (handleAt (blockAt (engineAt w) 0 0) 4) ≠ 0) ∧
    OutputIs (engineAt (started 0x0D (9 + 7 * 2 ^ 16) 32)) 0 (started 0x0D (9 + 7 * 2 ^ 16) 32) (.plain .bf16) := by
  refine ⟨?_, rfl, fun n h => absurd h (by simp)⟩
  intro x hx; simp only [List.mem_cons, List.not_mem_nil, or_false] at hx
  rcases hx with rfl | rfl <;> refine ⟨inProgress _ ?_, ?_, ?_, ?_, ?_, ?_⟩ <;> first | decide +kernel | (intro e _ h; revert h; revert e; decide +kernel)

theorem wit_EngineResults_kv :
    let w := { started 0x0E 0 0 with m := 1 }
    InProgress (engineAt w) 0 0 0 w 0x0E true ∧ w.prog = 0 ∧ ∃ d, engineKvDesc (engineAt w) 0 = .ok d ∧ w.n = d.dim ∧ RowsReady 0 0 w d w.m 0 (engineAt w) := by
  refine ⟨inProgress _ (by decide +kernel), rfl, ?_⟩
  have h : passes (engineKvDesc (engineAt { started 0x0E 0 0 with m := 1 }) 0) (fun d => decide (d.dim = 8) &&
      passes (kvBlock (engineAt { started 0x0E 0 0 with m := 1 }) 0 d (rowKey { started 0x0E 0 0 with m := 1 } d 0) true) (fun b =>
        passes (kvPas b.2 d.asid true (rowByteAt d b.1 (rowPlace { started 0x0E 0 0 with m := 1 } d 0)) d.rb) (fun _ => true) &&
        passes (kvPas b.2 d.asid true (scaleByteAt d b.1 (rowPlace { started 0x0E 0 0 with m := 1 } d 0)) 1) (fun _ => true))) = true := by decide +kernel
  obtain ⟨d, hd, h⟩ := passes_spec h
  rw [Bool.and_eq_true, decide_eq_true_eq] at h
  obtain ⟨b, hb, h2⟩ := passes_spec h.2
  rw [Bool.and_eq_true] at h2
  obtain ⟨x, hx, -⟩ := passes_spec h2.1
  obtain ⟨y, hy, -⟩ := passes_spec h2.2
  refine ⟨d, hd, h.1.symm, ?_, fun h => absurd h (by decide), b.1, b.2, hb, ⟨x, hx⟩, ⟨y, hy⟩, fun _ _ => trivial⟩
  intro e _ h; revert h; revert e; decide +kernel

/-- A tile of one row that sees one position, at a step of its KV block. -/
def attending (kstep prog : Nat) (rows : List (Nat × Nat)) : EngWord :=
  { started 0x0F 0 0 with m := 1, mb := 1, kstep := kstep, prog := prog, mfmt := 1, rows := rows }
theorem wit_EngineResults_att :
    (∀ k ∈ [0, 3, 5], let w := attending k 0 [(0, 0)]
      InProgress (engineAt w) 0 0 0 w 0x0F true ∧ ElementsFree (engineAt w) 0 0 (List.range 25) ∧ 0 < 1 ∧
      passes (engineKvDesc (engineAt w) 0) (fun d => decide (d.dim = 8 ∧ d.tb = 16 ∧ scoreSteps .bf16 d = 1 ∧ seenBy w d 0 = 1 ∧
        attElements (engineAt w) 0 0 w d = List.range 25 ∧ attFmt (taskAt (engineAt w) 0) w = some .bf16) &&
        passes (kvBlock (engineAt w) 0 d 0 false) (fun b => [0, 1].all fun kv =>
          passes (kvBytes b.2 d.asid (rowByteAt d b.1 (kv * 16)) d.rb) (fun _ => true) && passes (kvBytes b.2 d.asid (scaleByteAt d b.1 (kv * 16)) 1) (fun _ => true))) = true) ∧
    (let w := attending 0 1 [(0, 0)]
     InProgress (engineAt w) 0 0 0 w 0x0F true ∧ passes (engineKvDesc (engineAt w) 0) (fun d => decide (rowLimit w 0 ≤ w.prog * d.tb)) = true) := by
  refine ⟨?_, inProgress _ ?_, ?_⟩ <;> first | decide +kernel | skip
  intro k hk; simp only [List.mem_cons, List.not_mem_nil, or_false] at hk
  rcases hk with rfl | rfl | rfl <;> refine ⟨inProgress _ ?_, ⟨?_, ?_⟩, ?_, ?_⟩ <;> decide +kernel
/-! ## Further clauses on launches, edges, issue and failures -/

/-- The bytes of an area, from a sparse list of its non-zero bytes. -/
def sparse (n : Nat) (l : List (Nat × Byte)) : List Byte := (List.range n).map fun k => (l.lookup k).getD 0
/-- A launch block with one handle at 0x80000, one region at 0x80100, one dependence at 0x80200, a companding table behind it, and DONE. -/
def launchBlock (blocks done : Byte) : List Byte := sparse 256 [(1, 0x20), (9, 0x30), (0x18, 4), (0x1C, 2), (0x20, blocks), (0x21, 3), (0x22, 3), (0x24, 2),
  (0x26, 2), (0x28, 2), (0x2D, 1), (0x2E, 1), (0x2F, 1), (0x30, 3), (0x40, 5), (0x4A, 8), (0x51, 1), (0x52, 8), (0x59, 2), (0x5A, 8), (0xA2, done), (0xB8, 2),
  (0xC0, 0x20)]
def handleRecord (e : Byte) : List Byte := sparse 16 [(5, e), (12, 3)]
def regionRecord : List Byte := sparse 32 [(2, 0x10), (7, 1), (9, 1), (16, 0x80), (25, 4)]
def depRecord : List Byte := sparse 32 [(2, 9), (8, 4), (12, 2), (16, 1)]
/-- The machine with those tables in memory. -/
def launching (e : Byte) : State := { State.reset with
  mem := pages ++ [(0x80005, e), (0x8000C, 3), (0x80102, 0x10), (0x80107, 1), (0x80109, 1), (0x80110, 0x80), (0x80119, 4), (0x80202, 9), (0x80208, 4),
    (0x8020C, 2), (0x80210, 1)] }
/-- What TableHolds asks, computed. -/
def holdsTable (s : State) (asid va n k : Nat) (recs : List (List Byte)) : Bool :=
  recs.length == n && recs.zipIdx.all fun r => r.1.length == k && r.1.zipIdx.all fun x =>
    passes (translateBare s asid (va + k * r.2 + x.2) .read true) fun pa => x.1 == memByte s pa
theorem holdsTable_spec {s : State} {asid va n k : Nat} {recs : List (List Byte)} (h : holdsTable s asid va n k recs = true) :
    TableHolds s asid va n k recs := by
  simp only [holdsTable, Bool.and_eq_true, beq_iff_eq, List.all_eq_true, Prod.forall] at h
  refine ⟨h.1, fun i r hr => ?_⟩
  obtain ⟨hk, hx⟩ := h.2 r i (List.mk_mem_zipIdx_iff_getElem?.2 hr)
  refine ⟨hk, fun o x ho => ?_⟩
  obtain ⟨pa, hp, he⟩ := passes_spec (hx x o (List.mk_mem_zipIdx_iff_getElem?.2 ho))
  exact ⟨pa, hp, by simpa using he⟩
theorem wit_LaunchChecks :
    ((launchBlock 4 0).length = 256 ∧ natAt (launchBlock 4 0) 0xA0 8 = 0 ∧
      natAt (launchBlock 4 9) 0xA0 8 ≠ 0 ∧ passes (translateBare (launching 1) 0 (natAt (launchBlock 4 9) 0xA0 8) .write true) (fun _ => true) = true ∧
      (match translateBare State.reset 0 (natAt (launchBlock 4 9) 0xA0 8) .write true with | .error _ => true | .ok _ => false) = true) ∧
    FirstFails (blockChecks (launchBlock 17 0)) (some 0x02) ∧ FirstFails (blockChecks (launchBlock 4 0)) none ∧
    (∃ t ∈ tablesOf (launchBlock 4 0), Unreadable State.reset 0 t.1 (t.2.1 * t.2.2)) ∧
    (∀ e ∈ [(1 : Byte), 0x40], TableHolds (launching e) 0 0x80000 1 16 [handleRecord e]) ∧
    TableHolds (launching 1) 0 0x80100 1 32 [regionRecord] ∧ TableHolds (launching 1) 0 0x80200 1 32 [depRecord] ∧
    curvesOf (launchBlock 4 0) = [(1, 0x80220)] ∧ (∀ c ∈ curvesOf (launchBlock 4 0), ¬ Unreadable (launching 1) 0 c.2 128) ∧
    FirstFails (tableChecksOf (launching 0x40) (launchBlock 4 0) [handleRecord 0x40] [regionRecord] [depRecord]) (some 0x07) ∧
    FirstFails (tableChecksOf (launching 1) (launchBlock 4 0) [handleRecord 1] [regionRecord] [depRecord]) none := by
  have h06 : ¬ ∃ r ∈ [regionRecord], ∃ x y, (x = 0 ∨ x = natAt (launchBlock 4 0) 0x18 4 - 1) ∧
      (y = 0 ∨ y = natAt (launchBlock 4 0) 0x1C 4 - 1) ∧
      (instanceBase r x y < 0 ∨ 2 ^ 52 < instanceBase r x y + (natAt r 8 8 % 2 ^ 52 : Nat)) := by
    rintro ⟨r, hr, x, y, hx, hy, h⟩
    rw [List.mem_singleton] at hr
    subst hr
    revert h
    rcases hx with rfl | rfl <;> rcases hy with rfl | rfl <;> decide +kernel
  have h0A : ¬ ¬ SomewhereFits (launching 1) (16 * (natAt (launchBlock 4 0) 0x22 1 % 16 + 1)) (natAt (launchBlock 4 0) 0x21 1) :=
    not_not_intro ⟨0, 0, 0, by decide, by decide, by decide, by decide +kernel, ⟨by decide +kernel, by decide +kernel⟩,
      ⟨by decide +kernel, 7, by decide +kernel, by decide +kernel⟩⟩
  refine ⟨by decide +kernel, ?_, ?_, ?_, ?_, holdsTable_spec (by decide +kernel), holdsTable_spec (by decide +kernel), by decide +kernel, ?_, ?_, ?_⟩
  · exact .inr ⟨by decide +kernel, .inl ⟨by decide +kernel, rfl⟩⟩
  · exact .inr ⟨by decide +kernel, .inr ⟨by decide +kernel, .inr ⟨by decide +kernel, rfl⟩⟩⟩
  · exact ⟨(0x80000, 1, 16), by decide +kernel, 0, by decide, .notPresent, rfl⟩
  · intro e he; simp only [List.mem_cons, List.not_mem_nil, or_false] at he
    rcases he with rfl | rfl <;> exact holdsTable_spec (by decide +kernel)
  · have h : curvesOf (launchBlock 4 0) = [(1, 0x80220)] := by decide +kernel
    have hall : ((List.range 128).all fun o => passes (translateBare (launching 1) 0 (0x80220 + o) .read true) fun _ => true) = true := by decide +kernel
    rw [h]
    intro c hc
    rw [List.mem_singleton] at hc
    subst hc
    rintro ⟨o, ho, x, hx⟩
    obtain ⟨pa, hp, -⟩ := passes_spec (List.all_eq_true.1 hall o (List.mem_range.2 ho))
    rw [hp] at hx
    exact absurd hx (by simp)
  · exact .inr ⟨by decide +kernel, .inr ⟨by decide +kernel, .inr ⟨by decide +kernel, .inr ⟨by decide +kernel, .inr ⟨h06,
      .inl ⟨by decide +kernel, rfl⟩⟩⟩⟩⟩⟩
  · exact .inr ⟨by decide +kernel, .inr ⟨by decide +kernel, .inr ⟨by decide +kernel, .inr ⟨by decide +kernel, .inr ⟨h06, .inr ⟨by decide +kernel,
      .inr ⟨by decide +kernel, .inr ⟨by decide +kernel, .inr ⟨h0A, rfl⟩⟩⟩⟩⟩⟩⟩⟩⟩

/-- The machine with an action of a kind at the head of its cluster's queue, a region of kind 1 over line 0 of the first page, and the line dirty. -/
def edging (kind : Nat) : State := { st user with
  mem := pages, tasks := [(0, { task with regions := [⟨0, 128, 0, 0, 1, true, false, false⟩] })],
  clusters := [(0, { Cluster.vacant with edges := [⟨kind, 0, false⟩], lines := [(0, ⟨[(5, 257)], 32⟩)] })] }
/-- The line of that cluster once its action has been taken, and byte 5 in memory. -/
noncomputable def edged (kind : Nat) : Option (Line × Byte) :=
  match exec (.edgeAction 0 none) (edging kind) with | .next t => some (clusterLine t 0 0, memByte t 5) | _ => none
theorem wit_EdgeActions :
    (∀ k ∈ [0, 1, 2], (clusterAt (edging k) 0).edges = ⟨k, 0, false⟩ :: []) ∧
    LineAt (edging 0) 0 ⟨0, 128, 0, 0, 1, true, false, false⟩ 0 0 0 0 ∧ OneSpace (edging 0) (taskAt (edging 0) 0) ∧
    edged 0 = some (Line.empty, 1) ∧ edged 1 = some (Line.empty, 1) ∧ edged 2 = some (⟨[(5, 257)], 0⟩, 1) := by
  refine ⟨by decide +kernel, ⟨0, ?_⟩, ?_, by decide +kernel, by decide +kernel, by decide +kernel⟩
  · have h : passes (walk (edging 0) 0 0) (fun e => e.mt != 1 && e.paOf 0 == 0) = true := by decide +kernel
    obtain ⟨e, he, ho⟩ := passes_spec h
    simp only [Bool.and_eq_true, bne_iff_ne, beq_iff_eq] at ho
    exact ⟨e, by decide, by decide, he, ho.1, by rw [ho.2]⟩
  · rintro p (hp | ⟨d, hd, -⟩)
    · exact absurd hp (by revert p; decide +kernel)
    · exact absurd hd (by revert d; decide +kernel)

/-- Under an all-stop the supervisor group returns for its target. -/
theorem wit_SelectionWords_stop :
    let s := setGangAt (sup super { stopped with resume := 8 }) 0 { running with allStop := true }
    CanIssue .eret s ∧ Target (atIssue .eret s) 0 0 { stopped with resume := 8 } ∧ (curGang (atIssue .eret s)).phase = .running ∧
      (curGang (atIssue .eret s)).allStop = true ∧ (0 : Nat) ≠ handlerBlk := by
  refine ⟨can ?_, target ?_, ?_, ?_, ?_⟩ <;> decide +kernel

/-- Two compared words, of fixed and of variable latency. -/
def compared : State := machine { task with lpb := { lpb with checked := true } } block
  [(0, { user with pend := [⟨1, 1, [.v 0 0 5], 0, 4, 1⟩], flights := [{ flight [] with due := 1, lat := 20 }] })]
theorem wit_FailedUnits_replay :
    (comparedWords compared 0 0 false)[0]? = some (.pend 0 ⟨1, 1, [.v 0 0 5], 0, 4, 1⟩) ∧
    (comparedWords compared 0 0 false)[1]? = some (.flight 0 { flight [] with due := 1, lat := 20 }) ∧
    (⟨1, 1, [.v 0 0 5], 0, 4, 1⟩ : Pend) ∈ (compared.groups.get Group.vacant 0).pend ∧
    { flight [] with due := 1, lat := 20 } ∈ (compared.groups.get Group.vacant 0).flights := by
  refine ⟨?_, ?_, ?_, ?_⟩ <;> decide +kernel

theorem wit_IssueOrder_frozen :
    ((curGroup (st { user with frozen := 1 })).frozen > max (st { user with frozen := 1 }).now (curGroup (st { user with frozen := 1 })).readyAt) ∧
    (let s := st { user with atrap := some (7, 4) }
     (curGroup s).frozen ≤ max s.now (curGroup s).readyAt ∧ (groupIn .nop s).called = false) ∧
    (let s := st { user with atrap := some (7, 4), called := true, trapen := 4 }
     pendingTrap (groupIn .nop s) = none ∧ (groupIn .nop s).atrap = some (7, 4)) := by
  refine ⟨?_, ?_, ?_⟩ <;> decide +kernel

theorem wit_WritesLand_flags :
    ({ user with pend := [⟨2, 1, [], 4, 2, 1⟩], trapen := 4 } : Group).pend = [⟨2, 1, [], 4, 2, 1⟩] ∧
    (landAt 2 { user with pend := [⟨2, 1, [], 4, 2, 1⟩], trapen := 4 }).atrap = some (1, 4) ∧
    (landAt 2 { user with pend := [⟨2, 1, [], 4, 2, 1⟩], trapen := 4, atrap := some (7, 1) }).atrap = some (7, 1) := by
  refine ⟨rfl, ?_, ?_⟩ <;> decide +kernel

theorem wit_IllegalStreamWords_stuck :
    NoneStuck (tender 0 0 []) ∧
    (let r : CopyRec := { moving 0x15 [] 0 with stuck := true }
     ¬ NoneStuck (machine task (movedBlock r) [(0, user)])) := by
  refine ⟨?_, ?_⟩ <;> decide +kernel

/-! ## Single steps, their results calculated by hand from the spec's tables -/

theorem test_add_wraps : readS (landed (.sadd 0 1 false) { user with s := [(0, 0xFFFFFFFF), (1, 2)] }) 0 = 1 := by decide +kernel
theorem test_add_pair_carries : readPair (landed (.sadd 0 2 true) { user with s := [(0, 0xFFFFFFFF), (2, 1)] }) 0 = 0x100000000 := by decide +kernel
theorem test_smulh_signed : readS (landed (.smulh 0 1 false) { user with s := [(0, 0xFFFFFFFF), (1, 2)] }) 0 = 0xFFFFFFFF := by decide +kernel
theorem test_ssar_beyond_width : readS (landed (.ssar 0 1 false) { user with s := [(0, 0x80000000), (1, 40)] }) 0 = 0xFFFFFFFF := by decide +kernel
theorem test_sshl_by_width : readS (landed (.sshl 0 1 false) { user with s := [(0, 1), (1, 32)] }) 0 = 0 := by decide +kernel
theorem test_ssub_source_is_destination : readS (landed (.ssub 5 5 false) { user with s := [(5, 77)] }) 5 = 0 := by decide +kernel
theorem test_sdiv_truncates : (curGroup (run (.sdiv 0 1 false) (st { user with s := [(0, 0xFFFFFFF9), (1, 2)] }))).flights.map Flight.ws =
    [[.s 0 0xFFFFFFFD]] := by decide +kernel
theorem test_scmp_overflow : (landed (.scmp 0 1 false) { user with s := [(0, 0x80000000), (1, 1)] }).sf = 0b1100 := by decide +kernel
theorem test_saddc_carry_in : let g := landed (.saddc 0 1 false) { user with s := [(0, 0xFFFFFFFF)], sf := 0b0100 }
    readS g 0 = 0 ∧ g.sf = 0b0101 := by decide +kernel
theorem test_saddi_sign_extends : readS (landed (.saddi 0 0x7FFF) { user with s := [(0, 5)] }) 0 = 4 := by decide +kernel
theorem test_p0_discards : readP (landed (.pnot 0 0) user) 0 = 0xFFFFFFFF := by decide +kernel
theorem test_brc_not_taken : (curGroup (run (.brc 1 4) (st { user with sf := 1 }))).pc = 2 := by decide +kernel
theorem test_call_links : let g := landed (.call 16) user
    g.pc = 17 ∧ readS g 383 = 2 := by decide +kernel
theorem test_packet_end_skips_control : (curGroup (run .nop (st { user with pc := 7 }))).pc = 9 := by decide +kernel
theorem test_vadd_i8_wraps : readV (landed (.vadd 2 0 1) { typed 0 with v := [(3, 0x7F), (35, 1)] }) 2 3 = 0xFFFFFF80 := by decide +kernel
theorem test_vadd_i8_saturates : readV (landed (.vadd 2 0 1) { typed 0 with mode := 0x2000, v := [(3, 0x7F), (35, 1)] }) 2 3 = 0x7F := by decide +kernel
theorem test_vadd_guarded : let g := landed (.vadd 2 0 0) { lone 2 0 with v := [(0, 9), (31, 5), (64, 7)] }
    readV g 2 0 = 7 ∧ readV g 2 31 = 10 := by decide +kernel
theorem test_vfmul_f32 : readV (landed (.vfmul 2 0 1) { typed 10 with v := [(0, 0x40000000), (32, 0x40400000)] }) 2 0 = 0x40C00000 := by decide +kernel
theorem test_std_little_endian : let t := run (.std 1 0 0 2) (st { lone 2 0x100000 with v := [(63, 0x11223344)] })
    (List.range 4).map (fun k => memByte t (0x100000 + k)) = [0x44, 0x33, 0x22, 0x11] := by decide +kernel
theorem test_misaligned_faults : let g := curGroup (run (.ld 1 0 0 0) (st (lone 2 2)))
    g.st = .fault ∧ g.pc = 1 ∧ g.resume = 1 ∧ g.lclk = 0 := by decide +kernel
theorem test_aadd_returns_old : let t := run (.aadd 1 0 0 4) { st { lone 2 0x100000 with v := [(63, 1)] } with mem := [(0x100000, 255)] }
    memNat t 0x100000 4 = 256 ∧ (curGroup t).flights.map Flight.ws = [[.v 1 31 255]] := by decide +kernel
theorem test_stop_exits : (curGroup (run .stop (st user))).st = .exited := by decide +kernel
theorem test_tlih_inserts : readT (curTnd (run (.tlih 1 2 0xBEEF) (tender 0 0 [(1, 0x1111222233334444)]))) 1 = 0x1111BEEF33334444 := by decide +kernel
theorem test_t0_discards : readT (curTnd (run (.tli 0 5) (tender 0 0 []))) 0 = 0 := by decide +kernel
theorem test_tloop_ends : let t := curTnd (run (.tloop 1 100) (tender 0 0 [(1, 1)]))
    readT t 1 = 0 ∧ t.tpc = 1 := by decide +kernel
theorem test_mloop_branches : let m := curMat (run (.mloop 1 0xFFFE) (matrix 0 { mat [] with m := [(1, 2)], mpc := 5 }))
    readM m 1 = 1 ∧ m.mpc = 3 := by decide +kernel
theorem test_hwrite_masked : let t := run (.hwrite 0x80 0x11223344 0b0101) (st user)
    (List.range 4).map (fun k => memByte t (0x80 + k)) = [0x44, 0, 0x22, 0] := by decide +kernel

/-- The digest of the empty message, from FIPS 202's published examples. -/
theorem test_sha3_empty : (bytesOf 32 (sha3 []).toNat).take 8 = [0xa7, 0xff, 0xc6, 0xf8, 0xbf, 0x1e, 0xd7, 0x66] := by decide +kernel

end Sys2Proof.Tests
end

/-! # The scalar integer words

The words of R187 to R191 compute on the unsigned readings of their operands; their statements speak of words of w bits. The arithmetic comes first, one
lemma for each operation and for every width; then the layout of the words, what a word that issues does, and the obligations. -/

namespace Sys2Proof.Laws
open Sys2Proof.Machine Sys2Proof.Safety

section ScalarArithmetic
variable {w : Nat} {x y : BitVec w}

/-! ## Readings of a word of w bits -/

theorem natCast_two_pow (n : Nat) : ((2 ^ n : Nat) : Int) = 2 ^ n := Int.natCast_pow 2 n

theorem signedOf_toNat (hw : 0 < w) (x : BitVec w) : signedOf w x.toNat = x.toInt := by
  have h2 : 2 ^ w = 2 * 2 ^ (w - 1) := by rw [← Nat.pow_succ', Nat.succ_eq_add_one, Nat.sub_add_cancel hw]
  have hc : 2 * x.toNat < 2 ^ w ↔ x.toNat < 2 ^ (w - 1) := by omega
  simp only [signedOf, BitVec.toInt_eq_toNat_cond, hc, natCast_two_pow]

theorem wrapInt_eq_toNat_ofInt (r : Int) : wrapInt w r = (BitVec.ofInt w r).toNat := by
  rw [wrapInt, BitVec.toNat_ofInt, natCast_two_pow]

theorem ofInt_toNat_sub_toNat : BitVec.ofInt w ((x.toNat : Int) - y.toNat) = x - y := by
  rw [Int.sub_eq_add_neg, BitVec.ofInt_add, BitVec.ofInt_neg, BitVec.ofInt_natCast, BitVec.ofInt_natCast, BitVec.ofNat_toNat, BitVec.ofNat_toNat,
    BitVec.setWidth_eq, BitVec.setWidth_eq, BitVec.sub_eq_add_neg]

theorem toNat_ofNat_of_le {n : Nat} (h : n ≤ w) : (BitVec.ofNat w n).toNat = n := by
  rw [BitVec.toNat_ofNat, Nat.mod_eq_of_lt (Nat.lt_of_le_of_lt h Nat.lt_two_pow_self)]

/-! ## Two operands (R187) -/

theorem scalarOp_add_toNat : scalarOp .add w x.toNat y.toNat = (x + y).toNat := (BitVec.toNat_add x y).symm

theorem scalarOp_sub_toNat : scalarOp .sub w x.toNat y.toNat = (x - y).toNat := by
  rw [← ofInt_toNat_sub_toNat]; exact wrapInt_eq_toNat_ofInt _

theorem scalarOp_mul_toNat : scalarOp .mul w x.toNat y.toNat = (x * y).toNat := (BitVec.toNat_mul x y).symm

theorem scalarOp_mulh_toNat (hw : 0 < w) : scalarOp .mulh w x.toNat y.toNat = (BitVec.ofInt w (x.toInt * y.toInt / 2 ^ w)).toNat := by
  rw [← signedOf_toNat hw x, ← signedOf_toNat hw y]; exact wrapInt_eq_toNat_ofInt _

theorem scalarOp_mulhn_toNat : scalarOp .mulhn w x.toNat y.toNat = (BitVec.ofNat w (x.toNat * y.toNat / 2 ^ w)).toNat := by
  rw [BitVec.toNat_ofNat, Nat.mod_eq_of_lt (Nat.div_lt_of_lt_mul (Nat.mul_lt_mul'' x.isLt y.isLt))]; rfl

theorem scalarOp_and_toNat : scalarOp .and w x.toNat y.toNat = (x &&& y).toNat := (BitVec.toNat_and x y).symm
theorem scalarOp_or_toNat : scalarOp .or w x.toNat y.toNat = (x ||| y).toNat := (BitVec.toNat_or x y).symm
theorem scalarOp_xor_toNat : scalarOp .xor w x.toNat y.toNat = (x ^^^ y).toNat := (BitVec.toNat_xor x y).symm

theorem scalarOp_shl_toNat : scalarOp .shl w x.toNat y.toNat = (if w ≤ y.toNat then 0 else x <<< y.toNat).toNat := by
  rw [apply_ite BitVec.toNat, BitVec.toNat_shiftLeft, Nat.shiftLeft_eq]; rfl

theorem scalarOp_shr_toNat : scalarOp .shr w x.toNat y.toNat = (if w ≤ y.toNat then 0 else x >>> y.toNat).toNat := by
  rw [apply_ite BitVec.toNat, BitVec.toNat_ushiftRight, Nat.shiftRight_eq_div_pow]; rfl

theorem scalarOp_sar_toNat (hw : 0 < w) : scalarOp .sar w x.toNat y.toNat = (x.sshiftRight (min y.toNat (w - 1))).toNat := by
  rw [BitVec.sshiftRight_eq, Int.shiftRight_eq_div_pow, ← signedOf_toNat hw x, natCast_two_pow]
  exact wrapInt_eq_toNat_ofInt _

theorem scalarOp_min_toNat (hw : 0 < w) : scalarOp .min w x.toNat y.toNat = (if y.slt x then y else x).toNat := by
  simp only [scalarOp, signedOf_toNat hw, BitVec.slt_iff_toInt_lt, apply_ite BitVec.toNat]

theorem scalarOp_max_toNat (hw : 0 < w) : scalarOp .max w x.toNat y.toNat = (if x.slt y then y else x).toNat := by
  simp only [scalarOp, signedOf_toNat hw, BitVec.slt_iff_toInt_lt, apply_ite BitVec.toNat]

theorem scalarOp_minn_toNat : scalarOp .minn w x.toNat y.toNat = (if y.ult x then y else x).toNat := by
  simp only [BitVec.ult_iff_toNat_lt, apply_ite BitVec.toNat]
  split
  next h => exact Nat.min_eq_right (Nat.le_of_lt h)
  next h => exact Nat.min_eq_left (Nat.le_of_not_lt h)

theorem scalarOp_maxn_toNat : scalarOp .maxn w x.toNat y.toNat = (if x.ult y then y else x).toNat := by
  simp only [BitVec.ult_iff_toNat_lt, apply_ite BitVec.toNat]
  split
  next h => exact Nat.max_eq_right (Nat.le_of_lt h)
  next h => exact Nat.max_eq_left (Nat.le_of_not_lt h)

/-! ## Divisions (R188) -/

/-- The quotient or the remainder of a division. -/
def divided (signed rem : Bool) (w a b : Nat) : Nat := if rem then (scalarDiv signed w a b).2 else (scalarDiv signed w a b).1

theorem toNat_ne_zero (h : x ≠ 0) : x.toNat ≠ 0 := fun h0 => h (BitVec.eq_of_toNat_eq h0)

theorem scalarDiv_signed_toNat (hw : 0 < w) (hy : y ≠ 0) :
    scalarDiv true w x.toNat y.toNat = (wrapInt w (x.toInt.tdiv y.toInt), wrapInt w (x.toInt.tmod y.toInt)) := by
  rw [scalarDiv, if_neg (toNat_ne_zero hy), signedOf_toNat hw, signedOf_toNat hw]; rfl
theorem scalarDiv_unsigned_toNat (hy : y ≠ 0) : scalarDiv false w x.toNat y.toNat = (x.toNat / y.toNat, x.toNat % y.toNat) := by
  rw [scalarDiv, if_neg (toNat_ne_zero hy)]; rfl

theorem ofInt_tdiv : BitVec.ofInt w (x.toInt.tdiv y.toInt) = x.sdiv y :=
  BitVec.eq_of_toInt_eq (by rw [BitVec.toInt_ofInt, BitVec.toInt_sdiv])
theorem ofInt_tmod : BitVec.ofInt w (x.toInt.tmod y.toInt) = x.srem y := by
  rw [← BitVec.toInt_srem, BitVec.ofInt_toInt]

theorem divided_sdiv_toNat (hw : 0 < w) : divided true false w x.toNat y.toNat = (x.sdiv y).toNat := by
  by_cases hy : y = 0
  · subst hy; exact congrArg BitVec.toNat BitVec.sdiv_zero.symm
  · rw [divided, scalarDiv_signed_toNat hw hy, wrapInt_eq_toNat_ofInt, ofInt_tdiv]; rfl

theorem divided_srem_toNat (hw : 0 < w) : divided true true w x.toNat y.toNat = (x.srem y).toNat := by
  by_cases hy : y = 0
  · subst hy; exact congrArg BitVec.toNat BitVec.srem_zero.symm
  · rw [divided, scalarDiv_signed_toNat hw hy, wrapInt_eq_toNat_ofInt (x.toInt.tmod _), ofInt_tmod]; rfl

theorem divided_udiv_toNat : divided false false w x.toNat y.toNat = (x / y).toNat := by
  by_cases hy : y = 0
  · subst hy; exact congrArg BitVec.toNat BitVec.udiv_zero.symm
  · rw [divided, scalarDiv_unsigned_toNat hy, BitVec.toNat_udiv]; rfl

theorem divided_umod_toNat : divided false true w x.toNat y.toNat = (x % y).toNat := by
  by_cases hy : y = 0
  · subst hy; exact congrArg BitVec.toNat BitVec.umod_zero.symm
  · rw [divided, scalarDiv_unsigned_toNat hy, BitVec.toNat_umod]; rfl

/-! ## One operand (R189) -/

theorem scalarUn_not_toNat : scalarUn .not w x.toNat = (~~~x).toNat := BitVec.toNat_not.symm

theorem scalarUn_neg_toNat : scalarUn .neg w x.toNat = (-x).toNat := by
  have h : BitVec.ofInt w (-(x.toNat : Int)) = -x := by
    rw [BitVec.ofInt_neg, BitVec.ofInt_natCast, BitVec.ofNat_toNat, BitVec.setWidth_eq]
  rw [← h]; exact wrapInt_eq_toNat_ofInt _

/-- A test that first fails at `n` takes `n` members of a range. -/
theorem length_takeWhile_range {p : Nat → Bool} {n m : Nat} (hle : n ≤ m) (hp : ∀ k < n, p k = true) (hn : n < m → p n = false) :
    ((List.range m).takeWhile p).length = n := by
  obtain ⟨k, rfl⟩ := Nat.exists_eq_add_of_le hle
  have hr : ((List.range k).map (n + ·)).takeWhile p = [] := by
    cases k with
    | zero => rfl
    | succ k => rw [List.range_succ_eq_map, List.map_cons, List.takeWhile_cons_of_neg (by simp [hn])]
  rw [List.range_add, List.takeWhile_append_of_pos (by simpa using hp), hr, List.append_nil, List.length_range]

/-- The leading zeros of a word are the bits above its highest one. -/
theorem length_leadingZeros (x : BitVec w) : ((List.range w).takeWhile fun k => !x.getMsbD k).length =
    if x.toNat = 0 then w else w - 1 - Nat.log2 x.toNat := by
  split
  next hx =>
    have h0 : x = 0 := BitVec.eq_of_toNat_eq hx
    exact length_takeWhile_range (Nat.le_refl w) (fun k _ => by simp [h0]) fun h => absurd h (Nat.lt_irrefl w)
  next hx =>
    have hlog : Nat.log2 x.toNat < w := (Nat.log2_lt hx).mpr x.isLt
    refine length_takeWhile_range (by omega) (fun k hk => ?_) fun _ => ?_
    · have hb : x.toNat < 2 ^ (w - 1 - k) := (Nat.log2_lt hx).mp (by omega)
      simp [BitVec.getMsbD, BitVec.getLsbD, Nat.testBit_lt_two_pow hb]
    · have hi : w - 1 - (w - 1 - Nat.log2 x.toNat) = Nat.log2 x.toNat := by omega
      simp only [BitVec.getMsbD, BitVec.getLsbD, hi, Nat.testBit_log2 hx, Bool.and_true, Bool.not_eq_false', decide_eq_true_eq]
      omega

theorem scalarUn_clz_toNat :
    scalarUn .clz w x.toNat = (BitVec.ofNat w ((List.range w).takeWhile fun k => !x.getMsbD k).length).toNat := by
  rw [toNat_ofNat_of_le (Nat.le_trans (List.takeWhile_sublist _).length_le (Nat.le_of_eq List.length_range)), length_leadingZeros]; rfl

theorem popCount_toNat (x : BitVec w) (n : Nat) : popCount n x.toNat = (List.range n).countP fun k => x.getLsbD k := by
  induction n with
  | zero => rfl
  | succ n ih =>
    rw [popCount] at ih ⊢
    rw [List.range_succ, List.foldl_append, ih, List.countP_append, List.countP_singleton, List.foldl_cons, List.foldl_nil, ← Nat.toNat_testBit,
      BitVec.getLsbD]
    cases x.toNat.testBit n <;> rfl

theorem scalarUn_popc_toNat :
    scalarUn .popc w x.toNat = (BitVec.ofNat w ((List.range w).countP fun k => x.getLsbD k)).toNat := by
  rw [toNat_ofNat_of_le (Nat.le_trans List.countP_le_length (Nat.le_of_eq List.length_range))]; exact popCount_toNat x w

/-! ## SF (R190, R191) -/

theorem sfWord_eq_sfBits (v c n z : Bool) : sfWord v c n z = sfBits z n c v := by
  revert v c n z; decide

theorem overflows_eq_outOfRange (r : Int) : overflows w r = outOfRange w r := (Bool.decide_or _ _).symm

theorem topBit_toNat (x : BitVec w) : (x.toNat / 2 ^ (w - 1) % 2 == 1) = x.msb := by
  rw [BitVec.msb_eq_getLsbD_last, BitVec.getLsbD, Nat.testBit_eq_decide_div_mod_eq]; rfl

theorem toNat_beq_toNat (x y : BitVec w) : (x.toNat == y.toNat) = (x == y) := by
  rw [Bool.eq_iff_iff, beq_iff_eq, beq_iff_eq, BitVec.toNat_inj]

theorem sub_beq_zero (x y : BitVec w) : (x - y == 0) = (x == y) := by
  rw [Bool.eq_iff_iff, beq_iff_eq, beq_iff_eq]
  refine ⟨fun h => ?_, fun h => by rw [h]; exact BitVec.sub_self y⟩
  rw [← BitVec.sub_add_cancel x y, h]; exact BitVec.zero_add y

theorem scmpFlags_toNat (hw : 0 < w) : scmpFlags w x.toNat y.toNat =
    sfBits (x == y) (x - y).msb (y.ule x) (outOfRange w (x.toInt - y.toInt)) := by
  rw [← sub_beq_zero, ← toNat_beq_toNat, ← topBit_toNat, ← ofInt_toNat_sub_toNat, ← wrapInt_eq_toNat_ofInt, ← signedOf_toNat hw,
    ← signedOf_toNat hw, ← overflows_eq_outOfRange, ← sfWord_eq_sfBits]
  rfl

theorem scmpnFlags_toNat : scmpnFlags x.toNat y.toNat = sfBits (x == y) (x.ult y) (y.ule x) false := by
  rw [← toNat_beq_toNat, ← sfWord_eq_sfBits]; rfl

/-- SADDC's result and SF, from the carry at issue. -/
theorem saddcResult_toNat (hw : 0 < w) (c : Bool) : saddcResult w x.toNat y.toNat c.toNat =
    let r := x + y + BitVec.ofNat w c.toNat
    (r.toNat, sfBits (r == 0) r.msb (decide (2 ^ w ≤ x.toNat + y.toNat + c.toNat)) (outOfRange w (x.toInt + y.toInt + c.toNat))) := by
  have hr : (x.toNat + y.toNat + c.toNat) % 2 ^ w = (x + y + BitVec.ofNat w c.toNat).toNat := by simp
  rw [saddcResult, hr, topBit_toNat, signedOf_toNat hw, signedOf_toNat hw, overflows_eq_outOfRange, sfWord_eq_sfBits]
  simp only [← toNat_beq_toNat]; rfl

/-- SSUBB's result and SF, from the carry at issue, which is the inverse of a borrow. -/
theorem ssubbResult_toNat (hw : 0 < w) (c : Bool) : ssubbResult w x.toNat y.toNat c.toNat =
    let r := x - y - BitVec.ofNat w (!c).toNat
    (r.toNat, sfBits (r == 0) r.msb (decide (y.toNat + (!c).toNat ≤ x.toNat)) (outOfRange w (x.toInt - y.toInt - (!c).toNat))) := by
  have hb : (1 : Int) - c.toNat = (!c).toNat := by cases c <;> rfl
  have hr : wrapInt w ((x.toNat : Int) - y.toNat - (!c).toNat) = (x - y - BitVec.ofNat w (!c).toNat).toNat := by
    rw [wrapInt_eq_toNat_ofInt, Int.sub_eq_add_neg, BitVec.ofInt_add, ofInt_toNat_sub_toNat, BitVec.ofInt_neg, BitVec.ofInt_natCast,
      ← BitVec.sub_eq_add_neg]
  have hc : (0 ≤ (x.toNat : Int) - y.toNat - (!c).toNat) ↔ y.toNat + (!c).toNat ≤ x.toNat := by omega
  simp only [ssubbResult, hb, hr, hc, topBit_toNat, signedOf_toNat hw, overflows_eq_outOfRange, sfWord_eq_sfBits, ← toNat_beq_toNat]
  rfl

end ScalarArithmetic

/-! ## The layout of the words (R91) -/

/-- An instruction as a function of sd, sa and the pair bit. -/
abbrev CtorSS := BitVec 9 → BitVec 9 → Bool → Instr

/-- The words of one opcode in the SS layout: the line of the decoder, the operands that exist, and that none of them transfers. -/
structure WordSS (c : CtorSS) (op : BitVec 8) : Prop where
  opcode : ∀ d a p, scalarOpcode (c d a p) = some op
  fields : ∀ x, opcodeOf x = op.toNat →
    decodeGroupFields x = if fixedAt x 0 5 0 then some (c (fieldAt x 15 9) (fieldAt x 6 9) (bitAt x 5)) else none
  legal : ∀ d a p, (c d a p).wf = (pairOk p d && pairOk p a)
  stays : ∀ d a p s, NoControl (c d a p) s

section Layout
variable (op : BitVec 8) (d a : BitVec 9) (p : Bool) (x : BitVec 5)

theorem layoutSS_toNat : (layoutSS op d a p x).toNat = op.toNat * 2 ^ 24 + d.toNat * 2 ^ 15 + a.toNat * 2 ^ 6 + p.toNat * 2 ^ 5 + x.toNat := by
  simp only [layoutSS, BitVec.toNat_append]
  rw [← Nat.shiftLeft_add_eq_or_of_lt x.isLt, ← Nat.shiftLeft_add_eq_or_of_lt (BitVec.ofBool p).isLt,
    ← Nat.shiftLeft_add_eq_or_of_lt a.isLt, ← Nat.shiftLeft_add_eq_or_of_lt d.isLt, BitVec.toNat_ofBool]
  simp only [Nat.shiftLeft_eq]
  omega

theorem opcodeOf_layoutSS : opcodeOf (layoutSS op d a p x) = op.toNat := by
  have := p.toNat_lt
  rw [opcodeOf, layoutSS_toNat]; omega

theorem sd_layoutSS : fieldAt (layoutSS op d a p x) 15 9 = d := by
  have := p.toNat_lt
  apply BitVec.eq_of_toNat_eq
  rw [fieldAt, layoutSS_toNat, BitVec.toNat_ofNat]; omega

theorem sa_layoutSS : fieldAt (layoutSS op d a p x) 6 9 = a := by
  have := p.toNat_lt
  apply BitVec.eq_of_toNat_eq
  rw [fieldAt, layoutSS_toNat, BitVec.toNat_ofNat]; omega

theorem pair_layoutSS : bitAt (layoutSS op d a p x) 5 = p := by
  have hb : (layoutSS op d a p x).toNat / 2 ^ 5 % 2 = p.toNat := by
    have := p.toNat_lt
    rw [layoutSS_toNat]; omega
  rw [bitAt, hb]; cases p <;> rfl

theorem reserved_layoutSS : fixedAt (layoutSS op d a p x) 0 5 0 = decide (x = 0) := by
  have hr : (layoutSS op d a p x).toNat / 2 ^ 0 % 2 ^ 5 = x.toNat := by rw [layoutSS_toNat]; omega
  rw [fixedAt, hr, Bool.eq_iff_iff, beq_iff_eq, decide_eq_true_eq, ← BitVec.toNat_inj]; rfl

theorem pairOk_iff : pairOk p d = true ↔ OperandOk p d := by cases p <;> simp [pairOk, OperandOk]

end Layout

theorem WordSS.decodeGroup_layoutSS {c : CtorSS} {op : BitVec 8} (h : WordSS c op) (d a : BitVec 9) (p : Bool) (x : BitVec 5) :
    decodeGroup (layoutSS op d a p x) =
      if x = 0 ∧ (c d a p).wf = true then c d a p else .illegalInstruction (layoutSS op d a p x) := by
  rw [decodeGroup, h.fields _ (opcodeOf_layoutSS op d a p x), sd_layoutSS, sa_layoutSS, pair_layoutSS, reserved_layoutSS]
  by_cases hx : x = 0#5 <;> simp [hx]

theorem WordSS.encoded {c : CtorSS} {op : BitVec 8} (h : WordSS c op) (d a : BitVec 9) (p : Bool) : EncodedSS (c d a p) d a p := by
  have hwf : (c d a p).wf = true ↔ OperandOk p d ∧ OperandOk p a := by
    rw [h.legal, Bool.and_eq_true, pairOk_iff, pairOk_iff]
  refine ⟨op, h.opcode d a p, fun hd ha => ?_, fun x hx => ?_⟩
  · rw [h.decodeGroup_layoutSS, if_pos ⟨rfl, hwf.mpr ⟨hd, ha⟩⟩]
  · rw [h.decodeGroup_layoutSS, if_neg fun hy => ?_]
    obtain ⟨hd, ha⟩ := hwf.mp hy.2
    exact hx.elim (· hy.1) fun hn => hn.elim (· hd) (· ha)

/-- A result and SF from the carry and two values of any one width. -/
abbrev SFOp := (w : Nat) → Bool → BitVec w → BitVec w → BitVec w × W32

/-- The words of R187 to R191, with their operands. -/
inductive ScalarWord (i : Instr) (d a : BitVec 9) (p : Bool) : Prop where
  | ofTwoAddress {f : BinOp} (h : twoAddress i = some (d, a, p, f))
  | ofDivision {f : BinOp} (h : division i = some (d, a, p, f))
  | ofOneOperand {f : UnOp} (h : oneOperand i = some (d, a, p, f))
  | ofSf {wr : Bool} {f : SFOp} (h : sfWordOf i = some (d, a, p, wr, f))

/-- Every one of the words is of the SS layout: its opcode's line of the decoder, of the legal forms and of the records says so. -/
theorem ScalarWord.wordSS {i : Instr} {d a : BitVec 9} {p : Bool} (h : ScalarWord i d a p) : ∃ c op, WordSS c op ∧ i = c d a p := by
  rcases h with h | h | h | h
  all_goals
    simp only [twoAddress.eq_def, division.eq_def, oneOperand.eq_def, sfWordOf.eq_def] at h
    split at h <;> cases h
  all_goals
    refine ⟨_, _, ⟨fun _ _ _ => rfl, fun x hx => ?_, fun _ _ _ => rfl, fun _ _ _ _ => rfl⟩, rfl⟩
    unfold decodeGroupFields
    generalize opcodeOf x = n at hx ⊢
    subst hx
    rfl

theorem ScalarWord.encoded {i : Instr} {d a : BitVec 9} {p : Bool} (h : ScalarWord i d a p) : EncodedSS i d a p := by
  obtain ⟨c, op, hw, rfl⟩ := h.wordSS
  exact hw.encoded d a p

theorem ScalarWord.stays {i : Instr} {d a : BitVec 9} {p : Bool} (h : ScalarWord i d a p) (s : State) : NoControl i s := by
  obtain ⟨c, op, hw, rfl⟩ := h.wordSS
  exact hw.stays d a p s

/-! ## Operands and results -/

theorem scalarWidth_pos (p : Bool) : 0 < scalarWidth p := by cases p <;> decide

theorem readScalar_eq_toNat (g : Group) (n : BitVec 9) (p : Bool) : readScalar g n.toNat p = (scalarIn g n p).toNat := by
  cases p <;> rfl

theorem scalarWrites_toNat (n : BitVec 9) : (p : Bool) → (z : BitVec (scalarWidth p)) → scalarWrites n.toNat p z.toNat = scalarOut n p z
  | false, z => by
    have hz : BitVec.ofNat 32 z.toNat = z := BitVec.eq_of_toNat_eq (by rw [BitVec.toNat_ofNat]; exact Nat.mod_eq_of_lt z.isLt)
    rw [scalarWrites, hz]; rfl
  | true, z => by
    have hlow : BitVec.ofNat 32 z.toNat = z.setWidth 32 := BitVec.ofNat_toNat 32 z
    have hhigh : BitVec.ofNat 32 (z.toNat / 2 ^ 32) = (z >>> 32).setWidth 32 := by
      rw [← Nat.shiftRight_eq_div_pow, ← BitVec.toNat_ushiftRight]; exact BitVec.ofNat_toNat 32 _
    rw [scalarWrites, hlow, hhigh]; rfl

theorem sfC_toNat (sf : W32) : (if sfC sf then 1 else 0) = (sf.getLsbD 2).toNat := by
  rw [sfC]; cases sf.getLsbD 2 <;> rfl

/-! ## What a word that issues does -/

section Issued
variable {i : Instr} {d a : BitVec 9} {p : Bool} {s : State} (hi : CanIssue i s) (hc : NoControl i s)
include hi hc

/-- A word with a fixed-latency result of the scalar ALU puts it in flight (R148). -/
theorem issue_fixed {body : State → Res} {ws : List RegWrite} (hb : body (atIssue i s) = fixedResult (atIssue i s) 2 ws 0) :
    issue (wordOf s i) body s = .next (afterWrites i s ws) := issue_ok hi hc hb

/-- A two-address word whose operation computes `f` puts it in flight to sd. -/
theorem scalarBinary_issued {o : SOp} {f : BinOp} (ho : ∀ w, 0 < w → ∀ x y : BitVec w, scalarOp o w x.toNat y.toNat = (f w x y).toNat) :
    scalarBinary i o d a p s = .next (afterWrites i s (scalarOut d p (f _ (scalarIn (groupIn i s) d p) (scalarIn (groupIn i s) a p)))) := by
  rw [← scalarWrites_toNat, ← ho _ (scalarWidth_pos p), ← readScalar_eq_toNat, ← readScalar_eq_toNat]
  exact issue_ok hi hc rfl

/-- A division that computes `f` launches it into the divider, with DZ where the divisor is 0 (R188, R151). -/
theorem scalarDivide_issued {signed rem : Bool} {f : BinOp}
    (ho : ∀ w, 0 < w → ∀ x y : BitVec w, divided signed rem w x.toNat y.toNat = (f w x y).toNat) :
    scalarDivide i signed rem d a p s = .next (after i s (launchFlight (atIssue i s)
      (scalarOut d p (f _ (scalarIn (groupIn i s) d p) (scalarIn (groupIn i s) a p)))
      (if scalarIn (groupIn i s) a p = 0 then fDZ else 0) .none true (if p then 18 else 10))) := by
  have hz : scalarIn (groupIn i s) a p = 0 ↔ (scalarIn (groupIn i s) a p).toNat = 0 := BitVec.toNat_inj.symm
  simp only [hz]
  rw [← scalarWrites_toNat, ← ho _ (scalarWidth_pos p), ← readScalar_eq_toNat, ← readScalar_eq_toNat]
  exact issue_ok hi hc rfl

/-- A one-operand word whose operation computes `f` puts it in flight to sd. -/
theorem scalarUnary_issued {o : SUn} {f : UnOp} (ho : ∀ w, 0 < w → ∀ x : BitVec w, scalarUn o w x.toNat = (f w x).toNat) :
    scalarUnary i o d a p s = .next (afterWrites i s (scalarOut d p (f _ (scalarIn (groupIn i s) a p)))) := by
  rw [← scalarWrites_toNat, ← ho _ (scalarWidth_pos p), ← readScalar_eq_toNat]
  exact issue_ok hi hc rfl

/-- A compare puts SF in flight, and nothing else. -/
theorem scalarCompare_issued {F : Nat → Nat → Nat → W32} {f : SFOp}
    (hF : ∀ w, 0 < w → ∀ (x y : BitVec w) (c : Bool), F w x.toNat y.toNat = (f w c x y).2) :
    let r := f _ ((groupIn i s).sf.getLsbD 2) (scalarIn (groupIn i s) d p) (scalarIn (groupIn i s) a p)
    scalarCompare i F d a p s = .next (afterWrites i s [.sf r.2]) := by
  intro r
  rw [← hF _ (scalarWidth_pos p), ← readScalar_eq_toNat, ← readScalar_eq_toNat]
  exact issue_fixed hi hc rfl

/-- A carry word puts sd and SF in flight, from the carry at issue. -/
theorem scalarCarry_issued {F : Nat → Nat → Nat → Nat → Nat × W32} {f : SFOp}
    (hF : ∀ w, 0 < w → ∀ (x y : BitVec w) (c : Bool), F w x.toNat y.toNat c.toNat = ((f w c x y).1.toNat, (f w c x y).2)) :
    let r := f _ ((groupIn i s).sf.getLsbD 2) (scalarIn (groupIn i s) d p) (scalarIn (groupIn i s) a p)
    scalarCarry i F d a p s = .next (afterWrites i s (scalarOut d p r.1 ++ [.sf r.2])) := by
  intro r
  have hr : F (scalarWidth p) (readScalar (groupIn i s) d.toNat p) (readScalar (groupIn i s) a.toNat p) (if sfC (groupIn i s).sf then 1 else 0)
      = (r.1.toNat, r.2) := by
    rw [readScalar_eq_toNat, readScalar_eq_toNat, sfC_toNat, hF _ (scalarWidth_pos p)]
  have hb := congrArg (fun q : Nat × W32 => fixedResult (atIssue i s) 2 (scalarWrites d.toNat p q.1 ++ [.sf q.2]) 0) hr
  rw [← scalarWrites_toNat]
  exact issue_fixed hi hc hb

end Issued

/-! ## The families -/

section Families
variable {i : Instr} {d a : BitVec 9} {p : Bool} {s : State}

/-- R187: the operation of a two-address word on unsigned readings, which computes the table's. -/
theorem twoAddress_operation {f : BinOp} (h : twoAddress i = some (d, a, p, f)) :
    ∃ o, exec i s = scalarBinary i o d a p s ∧ ∀ w, 0 < w → ∀ x y : BitVec w, scalarOp o w x.toNat y.toNat = (f w x y).toNat := by
  unfold twoAddress at h
  split at h <;> cases h
  · exact ⟨.add, rfl, fun _ _ _ _ => scalarOp_add_toNat⟩
  · exact ⟨.sub, rfl, fun _ _ _ _ => scalarOp_sub_toNat⟩
  · exact ⟨.mul, rfl, fun _ _ _ _ => scalarOp_mul_toNat⟩
  · exact ⟨.mulh, rfl, fun _ hw _ _ => scalarOp_mulh_toNat hw⟩
  · exact ⟨.mulhn, rfl, fun _ _ _ _ => scalarOp_mulhn_toNat⟩
  · exact ⟨.and, rfl, fun _ _ _ _ => scalarOp_and_toNat⟩
  · exact ⟨.or, rfl, fun _ _ _ _ => scalarOp_or_toNat⟩
  · exact ⟨.xor, rfl, fun _ _ _ _ => scalarOp_xor_toNat⟩
  · exact ⟨.shl, rfl, fun _ _ _ _ => scalarOp_shl_toNat⟩
  · exact ⟨.shr, rfl, fun _ _ _ _ => scalarOp_shr_toNat⟩
  · exact ⟨.sar, rfl, fun _ hw _ _ => scalarOp_sar_toNat hw⟩
  · exact ⟨.min, rfl, fun _ hw _ _ => scalarOp_min_toNat hw⟩
  · exact ⟨.max, rfl, fun _ hw _ _ => scalarOp_max_toNat hw⟩
  · exact ⟨.minn, rfl, fun _ _ _ _ => scalarOp_minn_toNat⟩
  · exact ⟨.maxn, rfl, fun _ _ _ _ => scalarOp_maxn_toNat⟩

/-- R188: which of its results a division takes, and that it is the table's. -/
theorem division_operation {f : BinOp} (h : division i = some (d, a, p, f)) :
    ∃ signed rem, exec i s = scalarDivide i signed rem d a p s ∧
      ∀ w, 0 < w → ∀ x y : BitVec w, divided signed rem w x.toNat y.toNat = (f w x y).toNat := by
  unfold division at h
  split at h <;> cases h
  · exact ⟨true, false, rfl, fun _ hw _ _ => divided_sdiv_toNat hw⟩
  · exact ⟨false, false, rfl, fun _ _ _ _ => divided_udiv_toNat⟩
  · exact ⟨true, true, rfl, fun _ hw _ _ => divided_srem_toNat hw⟩
  · exact ⟨false, true, rfl, fun _ _ _ _ => divided_umod_toNat⟩

/-- R189: the operation of a one-operand word on unsigned readings, which computes the table's. -/
theorem oneOperand_operation {f : UnOp} (h : oneOperand i = some (d, a, p, f)) :
    ∃ o, exec i s = scalarUnary i o d a p s ∧ ∀ w, 0 < w → ∀ x : BitVec w, scalarUn o w x.toNat = (f w x).toNat := by
  unfold oneOperand at h
  split at h <;> cases h
  · exact ⟨.mov, rfl, fun _ _ _ => rfl⟩
  · exact ⟨.not, rfl, fun _ _ _ => scalarUn_not_toNat⟩
  · exact ⟨.neg, rfl, fun _ _ _ => scalarUn_neg_toNat⟩
  · exact ⟨.clz, rfl, fun _ _ _ => scalarUn_clz_toNat⟩
  · exact ⟨.popc, rfl, fun _ _ _ => scalarUn_popc_toNat⟩

/-- R190, R191: a compare writes SF alone and a carry word sd too, and both compute the table's values. -/
theorem sfWord_operation {wr : Bool} {f : SFOp} (h : sfWordOf i = some (d, a, p, wr, f)) :
    (wr = false ∧ ∃ F, exec i s = scalarCompare i F d a p s ∧
      ∀ w, 0 < w → ∀ (x y : BitVec w) (c : Bool), F w x.toNat y.toNat = (f w c x y).2) ∨
    (wr = true ∧ ∃ F, exec i s = scalarCarry i F d a p s ∧
      ∀ w, 0 < w → ∀ (x y : BitVec w) (c : Bool), F w x.toNat y.toNat c.toNat = ((f w c x y).1.toNat, (f w c x y).2)) := by
  unfold sfWordOf at h
  split at h <;> cases h
  · exact .inl ⟨rfl, scmpFlags, rfl, fun _ hw _ _ _ => scmpFlags_toNat hw⟩
  · exact .inl ⟨rfl, fun _ => scmpnFlags, rfl, fun _ _ _ _ _ => scmpnFlags_toNat⟩
  · exact .inr ⟨rfl, saddcResult, rfl, fun _ hw _ _ c => saddcResult_toNat hw c⟩
  · exact .inr ⟨rfl, ssubbResult, rfl, fun _ hw _ _ c => ssubbResult_toNat hw c⟩

/-- R187: what a two-address word does. -/
theorem exec_twoAddress {f : BinOp} (h : twoAddress i = some (d, a, p, f)) (hi : CanIssue i s) :
    exec i s = .next (afterWrites i s (scalarOut d p (f _ (scalarIn (groupIn i s) d p) (scalarIn (groupIn i s) a p)))) := by
  obtain ⟨o, he, ho⟩ := twoAddress_operation h
  rw [he, scalarBinary_issued hi (ScalarWord.stays (.ofTwoAddress h) s) ho]

/-- R188: what a division does. -/
theorem exec_division {f : BinOp} (h : division i = some (d, a, p, f)) (hi : CanIssue i s) :
    exec i s = .next (after i s (launchFlight (atIssue i s)
      (scalarOut d p (f _ (scalarIn (groupIn i s) d p) (scalarIn (groupIn i s) a p)))
      (if scalarIn (groupIn i s) a p = 0 then fDZ else 0) .none true (if p then 18 else 10))) := by
  obtain ⟨signed, rem, he, ho⟩ := division_operation h
  rw [he, scalarDivide_issued hi (ScalarWord.stays (.ofDivision h) s) ho]

/-- R189: what a one-operand word does. -/
theorem exec_oneOperand {f : UnOp} (h : oneOperand i = some (d, a, p, f)) (hi : CanIssue i s) :
    exec i s = .next (afterWrites i s (scalarOut d p (f _ (scalarIn (groupIn i s) a p)))) := by
  obtain ⟨o, he, ho⟩ := oneOperand_operation h
  rw [he, scalarUnary_issued hi (ScalarWord.stays (.ofOneOperand h) s) ho]

/-- R190, R191: what a compare or a carry word does. -/
theorem exec_sfWord {wr : Bool} {f : SFOp} (h : sfWordOf i = some (d, a, p, wr, f))
    (hi : CanIssue i s) :
    let r := f _ ((groupIn i s).sf.getLsbD 2) (scalarIn (groupIn i s) d p) (scalarIn (groupIn i s) a p)
    exec i s = .next (afterWrites i s ((if wr then scalarOut d p r.1 else []) ++ [.sf r.2])) := by
  have hc : NoControl i s := ScalarWord.stays (.ofSf h) s
  rcases sfWord_operation h with ⟨rfl, F, he, hF⟩ | ⟨rfl, F, he, hF⟩
  · exact he.trans (scalarCompare_issued hi hc hF)
  · exact he.trans (scalarCarry_issued hi hc hF)

end Families

/-! ## The obligations -/

/-- Settles O1: the layout of every word by its line of the decoder, its result by its operation's lemma over all widths. -/
theorem twoAddressResult : Obligations.TwoAddressResult := by
  unfold Obligations.TwoAddressResult
  refine ⟨fun i d a pair f h => ?_, fun i d a pair f s => exec_twoAddress, fun i d a pair f s => exec_division⟩
  exact h.elim (fun h => (ScalarWord.ofTwoAddress h).encoded) fun h => (ScalarWord.ofDivision h).encoded

/-- Settles O2: the layout as for O1, the results by the lemmas on the one-operand operations and on SF. -/
theorem oneOperandAndCompareResults : Obligations.OneOperandAndCompareResults := by
  unfold Obligations.OneOperandAndCompareResults
  exact ⟨fun i d a pair f h => (ScalarWord.ofOneOperand h).encoded, fun i d a pair wr f h => (ScalarWord.ofSf h).encoded,
    fun i d a pair f s => exec_oneOperand, fun i d a pair wr f s => exec_sfWord⟩

end Sys2Proof.Laws
